-- ==== Sys2Proof/Word.lean ====
section
/-!
DEFINITION. The machine's words: the sizes in which software sees values (R2, R3, R20, R22), and the
tables keyed by a number in which the model keeps sparse storage.
-/
namespace Sys2Proof

/-- A scalar register, one lane of a vector register, an instruction word (R20, R23, R74). -/
abbrev Word := BitVec 32

/-- A byte of memory (R3). -/
abbrev Byte := BitVec 8

/-- A 64-bit element or counter (R48, R196). -/
abbrev DWord := BitVec 64

/-- A device virtual address (R22, R41). -/
abbrev Addr := BitVec 48

/-- One bit per lane, lane l at bit l (R8, R11): beat b is bits [32b+31:32b]. -/
abbrev Lanes := BitVec 96

/-- A table from numbers to values: entries with strictly rising keys. -/
abbrev Tab (α : Type) := List (Nat × α)

namespace Tab

/-- The entry of a key, if the table has one. -/
def find? {α : Type} : Tab α → Nat → Option α
  | [], _ => none
  | (k, v) :: t, i => if k = i then some v else find? t i

/-- The value of a key, with the value that an absent entry stands for. -/
def getD {α : Type} (t : Tab α) (i : Nat) (dflt : α) : α := (t.find? i).getD dflt

/-- Puts an entry in its place, replacing one of the same key. -/
def put {α : Type} : Tab α → Nat → α → Tab α
  | [], i, v => [(i, v)]
  | (k, w) :: t, i, v =>
    if i < k then (i, v) :: (k, w) :: t
    else if i = k then (i, v) :: t
    else (k, w) :: put t i v

/-- Removes every entry of a key. -/
def del {α : Type} : Tab α → Nat → Tab α
  | [], _ => []
  | (k, w) :: t, i => if k = i then del t i else (k, w) :: del t i

/-- Writes a value in a table whose absent entries stand for `dflt`: that value is never listed. -/
def setD {α : Type} [DecidableEq α] (t : Tab α) (i : Nat) (v dflt : α) : Tab α :=
  if v = dflt then t.del i else t.put i v

/-- Every key is above `lo`, the keys rise strictly, and no entry is the value an absent one stands for. -/
def wfFrom {α : Type} [DecidableEq α] (dflt : α) : Nat → Tab α → Bool
  | _, [] => true
  | lo, (k, v) :: t => decide (lo ≤ k) && !decide (v = dflt) && wfFrom dflt (k + 1) t

/-- The canonical form of a table whose absent entries stand for `dflt`. -/
def wf {α : Type} [DecidableEq α] (dflt : α) (t : Tab α) : Bool := wfFrom dflt 0 t

end Tab
end Sys2Proof
end

