-- ==== Sys2Proof/Machine/NumFmt.lean ====
section
/-!
DEFINITION. Number formats, rounding and exact arithmetic (02_number_formats.md): element types, format
descriptors, Decode, Round, ExactSum, EF, Fit and the conversions. Values are exact dyadic numbers.
-/
namespace Sys2Proof.Machine

/-- Element types of MR.ET (R30). -/
inductive ET where
  | i8 | n8 | i16 | n16 | i32 | n32 | f16 | bf16 | f32 | f64 | fmt
  deriving DecidableEq, Repr

/-- Rounding modes of MR.RM (R30). -/
inductive Rounding where
  | rne | rtz | rup | rdn | rna | ef
  deriving DecidableEq, Repr

/-- The ET codes of R30. -/
def ET.ofCode : Nat → Option ET
  | 0 => some .i8 | 1 => some .n8 | 2 => some .i16 | 3 => some .n16 | 4 => some .i32 | 5 => some .n32
  | 6 => some .f16 | 7 => some .bf16 | 8 => some .f32 | 9 => some .f64 | 10 => some .fmt | _ => none

/-- The RM codes of R30. -/
def Rounding.ofCode : Nat → Option Rounding
  | 0 => some .rne | 1 => some .rtz | 2 => some .rup | 3 => some .rdn | 4 => some .rna | 5 => some .ef
  | _ => none

def ET.isInt : ET → Bool
  | .i8 | .n8 | .i16 | .n16 | .i32 | .n32 => true
  | .f16 | .bf16 | .f32 | .f64 | .fmt => false

def ET.signed : ET → Bool
  | .i8 | .i16 | .i32 => true
  | .n8 | .n16 | .n32 | .f16 | .bf16 | .f32 | .f64 | .fmt => false

/-- A format descriptor (S, E, M, BIAS, SV, NZ) (before R49). -/
structure Fmt where
  s    : Bool
  e    : Nat
  m    : Nat
  bias : Int
  sv   : Nat
  nz   : Bool
  deriving DecidableEq, Repr

namespace Fmt
/-- The fixed formats of R49. -/
def binary16 : Fmt := { s := true, e := 5, m := 10, bias := 15, sv := 1, nz := true }
def bfloat16 : Fmt := { s := true, e := 8, m := 7, bias := 127, sv := 1, nz := true }
def binary32 : Fmt := { s := true, e := 8, m := 23, bias := 127, sv := 1, nz := true }
def binary64 : Fmt := { s := true, e := 11, m := 52, bias := 1023, sv := 1, nz := true }

/-- The descriptor in a format register (R51). -/
def ofReg (r : Word) : Fmt :=
  { s := r.getLsbD 0, e := r.toNat / 2 % 8, m := r.toNat / 16 % 8,
    bias := (BitVec.ofNat 8 (r.toNat / 128)).toInt, sv := r.toNat / 2 ^ 15 % 4, nz := r.getLsbD 17 }

/-- The element width (R53). -/
def width (t : Fmt) : Nat := t.s.toNat + t.e + t.m

/-- R52: the value of a format register is valid. -/
def validReg (r : Word) : Bool :=
  let t := ofReg r
  decide (r.toNat < 2 ^ 18) && decide (1 ≤ t.e + t.m) && decide (t.width ≤ 8) && !decide (t.sv = 3)
    && (!decide (t.sv = 1) || (decide (2 ≤ t.e) && decide (1 ≤ t.m)))
    && (!decide (t.sv = 2) || decide (2 ≤ t.e + t.m))
    && (!t.nz || t.s)

/-- The largest finite magnitude code (R54). -/
def maxCode (t : Fmt) : Nat :=
  if t.sv = 0 then 2 ^ (t.e + t.m) - 1
  else if t.sv = 1 then (2 ^ t.e - 2) * 2 ^ t.m + (2 ^ t.m - 1)
  else 2 ^ (t.e + t.m) - 2

/-- The encoding of NaN (R54). -/
def nanCode (t : Fmt) : Nat :=
  if t.sv = 0 then 0
  else if t.sv = 1 then (2 ^ t.e - 1) * 2 ^ t.m + 2 ^ (t.m - 1)
  else 2 ^ (t.e + t.m) - 1

/-- A magnitude code with a sign (R53). -/
def withSign (t : Fmt) (neg : Bool) (mag : Nat) : Nat := if neg && t.s then 2 ^ (t.e + t.m) + mag else mag

/-- The encoding of an infinity (R54, R55). -/
def infCode (t : Fmt) (neg : Bool) : Nat :=
  if neg && !t.s then 0
  else t.withSign neg (if t.sv = 1 then (2 ^ t.e - 1) * 2 ^ t.m else t.maxCode)
end Fmt

/-- An exact value: NaN, an infinity, a signed zero, or (-1)^neg * m * 2^e with m > 0. -/
inductive FVal where
  | nan
  | inf (neg : Bool)
  | zero (neg : Bool)
  | fin (neg : Bool) (m : Nat) (e : Int)
  deriving DecidableEq, Repr

namespace FVal

def neg : FVal → FVal
  | nan => nan | inf n => inf !n | zero n => zero !n | fin n m e => fin (!n) m e

def abs : FVal → FVal
  | nan => nan | inf _ => inf false | zero _ => zero false | fin _ m e => fin false m e

/-- The sign bit of a value that is no NaN. -/
def isNeg : FVal → Bool
  | nan => false | inf n => n | zero n => n | fin n _ _ => n

def withSign (n : Bool) : FVal → FVal
  | nan => nan | inf _ => inf n | zero _ => zero n | fin _ m e => fin n m e

def isNan : FVal → Bool
  | nan => true | inf _ | zero _ | fin _ _ _ => false

/-- An integer times a power of two. -/
def ofInt (z : Int) (e : Int) : FVal :=
  if z = 0 then zero false else if z < 0 then fin true (-z).toNat e else fin false z.toNat e

/-- The exponent of the leading bit of a positive number m * 2^e. -/
def lead (m : Nat) (e : Int) : Int := (Nat.log2 m : Int) + e

/-- The order of two positive numbers m * 2^e; the leading bits decide first, so that no shift is longer than
the difference of the lengths. -/
def cmpPos (m1 : Nat) (e1 : Int) (m2 : Nat) (e2 : Int) : Ordering :=
  if lead m1 e1 < lead m2 e2 then .lt
  else if lead m2 e2 < lead m1 e1 then .gt
  else if e1 ≤ e2 then compare m1 (m2 * 2 ^ (e2 - e1).toNat)
  else compare (m1 * 2 ^ (e1 - e2).toNat) m2

/-- The order of two values that are no NaN, with -0 equal to +0. -/
def cmp : FVal → FVal → Ordering
  | nan, _ => .eq
  | _, nan => .eq
  | inf n, inf m => if n = m then .eq else if n then .lt else .gt
  | inf n, _ => if n then .lt else .gt
  | _, inf n => if n then .gt else .lt
  | zero _, zero _ => .eq
  | zero _, fin n _ _ => if n then .gt else .lt
  | fin n _ _, zero _ => if n then .lt else .gt
  | fin n m e, fin n' m' e' =>
    if n ≠ n' then (if n then .lt else .gt)
    else if n then cmpPos m' e' m e else cmpPos m e m' e'

/-- The exact product (R69). -/
def mul : FVal → FVal → FVal
  | nan, _ => nan
  | _, nan => nan
  | inf _, zero _ => nan
  | zero _, inf _ => nan
  | inf n, inf m => inf (n ^^ m)
  | inf n, fin m _ _ => inf (n ^^ m)
  | fin n _ _, inf m => inf (n ^^ m)
  | zero n, zero m => zero (n ^^ m)
  | zero n, fin m _ _ => zero (n ^^ m)
  | fin n _ _, zero m => zero (n ^^ m)
  | fin n m e, fin n' m' e' => fin (n ^^ n') (m * m') (e + e')

/-- Times 2^k, exact (R58, R172). -/
def scale (k : Int) : FVal → FVal
  | fin n m e => fin n m (e + k)
  | nan => nan | inf n => inf n | zero n => zero n

/-- A finite value as an integer times 2^e. -/
def signed : FVal → Int × Int
  | fin n m e => (if n then -(m : Int) else m, e)
  | nan | inf _ | zero _ => (0, 0)

/-- The exact sum of two integers times powers of two. -/
def addDyadic (a b : Int × Int) : Int × Int :=
  if a.1 = 0 then b else if b.1 = 0 then a
  else if a.2 ≤ b.2 then (a.1 + b.1 * 2 ^ (b.2 - a.2).toNat, a.2)
  else (a.1 * 2 ^ (a.2 - b.2).toNat + b.1, b.2)

/-- ExactSum of R69. -/
def exactSum (terms : List FVal) : FVal :=
  if terms = [] then zero false
  else if terms.any isNan || (terms.contains (inf false) && terms.contains (inf true)) then nan
  else if terms.contains (inf false) then inf false
  else if terms.contains (inf true) then inf true
  else
    let s := terms.foldl (fun acc t => addDyadic acc (signed t)) (0, 0)
    if s.1 = 0 then zero (terms.all (fun t => decide (t = zero true)))
    else ofInt s.1 s.2

end FVal

/-- Decode of R53, with the special codes of R54 and the zero of R55. -/
def fdecode (code : Nat) (t : Fmt) : FVal :=
  let sgn := t.s && decide (code / 2 ^ (t.e + t.m) % 2 = 1)
  let mag := code % 2 ^ (t.e + t.m)
  let e := mag / 2 ^ t.m
  let m := mag % 2 ^ t.m
  if t.sv = 1 ∧ e = 2 ^ t.e - 1 then (if m = 0 then .inf sgn else .nan)
  else if t.sv = 2 ∧ mag = 2 ^ (t.e + t.m) - 1 then .nan
  else if mag = 0 then .zero (sgn && t.nz)
  else if t.e = 0 then .fin sgn m (-t.bias)
  else if e = 0 then .fin sgn m (1 - t.bias - t.m)
  else .fin sgn (2 ^ t.m + m) ((e : Int) - t.bias - t.m)

/-- The code is a subnormal of a format with E >= 1 (R63). -/
def isSubnormal (code : Nat) (t : Fmt) : Bool :=
  decide (1 ≤ t.e) && decide (code / 2 ^ t.m % 2 ^ t.e = 0) && !decide (code % 2 ^ t.m = 0)

/-- Decode with the flush of R63 (Rd of R157). -/
def fread (flush : Bool) (code : Nat) (t : Fmt) : FVal :=
  let y := fdecode code t
  if flush && isSubnormal code t then .zero y.isNeg else y

/-- The value of the largest finite magnitude code. -/
def maxFin (t : Fmt) : FVal := fdecode t.maxCode { t with s := false }

/-- ZeroCode of R62. -/
def zeroCode (t : Fmt) (neg : Bool) : Nat := if t.nz then t.withSign neg 0 else 0

/-- The exponent of the unit of the last place at a number whose leading bit is `k`: the spacing of the finite
values there (R53). -/
def ulpExp (t : Fmt) (k : Int) : Int :=
  if t.e = 0 then -t.bias else max (k - t.m) (1 - t.bias - t.m)

/-- How much of a positive number lies above n * 2^q: the quotient, and the order of the remainder against a half
unit (none when the remainder is 0). -/
def quotient (m : Nat) (e q : Int) : Nat × Option Ordering :=
  if q ≤ e then (m * 2 ^ (e - q).toNat, none)
  else if (Nat.log2 m : Int) + 2 < q - e then (0, some .lt)
  else
    let d := 2 ^ (q - e).toNat
    (m / d, if m % d = 0 then none else some (compare (2 * (m % d)) d))

/-- Whether the magnitude goes up from a value below it (R60): `odd` is the parity of the lower code. -/
def roundsUp (rm : Rounding) (neg odd : Bool) (r : Option Ordering) : Bool :=
  match r with
  | none => false
  | some o =>
    match rm with
    | .rtz => false
    | .rup => !neg
    | .rdn => neg
    | .rna => !decide (o = .lt)
    | .rne | .ef => decide (o = .gt) || (decide (o = .eq) && odd)

/-- The magnitude code of n * 2^q, where q is the unit at that number. -/
def magCode (t : Fmt) (n : Nat) (q : Int) : Nat :=
  if t.e = 0 then n else (q + t.bias + t.m - 1).toNat * 2 ^ t.m + n

/-- Overflow of R61, for a number of either sign above MaxFin. -/
def overflow (t : Fmt) (rm : Rounding) (neg : Bool) (m : Nat) (e : Int) : Nat :=
  let big := t.withSign neg t.maxCode
  if t.sv ≠ 1 then big
  else match rm with
    | .rtz => big
    | .rup => if neg then big else t.infCode neg
    | .rdn => if neg then t.infCode neg else big
    | .rne | .rna | .ef =>
      -- MaxFin + U/2, in units of U/2
      match maxFin t with
      | .fin _ mm em =>
        let u := ulpExp t (FVal.lead mm em)
        let lim := 2 * (mm * 2 ^ (em - u).toNat) + 1
        if FVal.cmpPos m e lim (u - 1) = .lt then big else t.infCode neg
      | _ => big

/-- The magnitude m * 2^e is above MaxFin. -/
def exceedsMax (t : Fmt) (m : Nat) (e : Int) : Bool :=
  match maxFin t with
  | .fin _ mm em => decide (FVal.cmpPos m e mm em = .gt)
  | .nan | .inf _ | .zero _ => true

/-- Round of R60: the code of an exact value in a format. -/
def fround (x : FVal) (t : Fmt) (rm : Rounding) (fz : Bool) : Nat :=
  match x with
  | .nan => t.nanCode
  | .inf neg => t.infCode neg
  | .zero neg => if neg && !t.s then 0 else zeroCode t neg
  | .fin neg m e =>
    if neg && !t.s then 0
    else if fz && decide (1 ≤ t.e) && decide (FVal.lead m e < 1 - t.bias) then zeroCode t neg
    else if exceedsMax t m e then overflow t rm neg m e
    else
      let q := ulpExp t (FVal.lead m e)
      let (n, r) := quotient m e q
      let lo := magCode t n q
      let c := if roundsUp rm neg (decide (lo % 2 = 1)) r then lo + 1 else lo
      if c = 0 then zeroCode t neg else t.withSign neg c

/-- A value rounded to an integer (R64): NaN and the infinities are treated by the callers. -/
def roundInt (rm : Rounding) : FVal → Int
  | .fin neg m e =>
    let (n, r) := quotient m e 0
    let n' := if roundsUp rm neg (decide (n % 2 = 1)) r then n + 1 else n
    if neg then -(n' : Int) else n'
  | .nan | .inf _ | .zero _ => 0

/-- MinOf and MaxOf of an integer type of width w (R45). -/
def minOf (signed : Bool) (w : Nat) : Int := if signed then -(2 ^ (w - 1)) else 0
def maxOf (signed : Bool) (w : Nat) : Int := if signed then 2 ^ (w - 1) - 1 else 2 ^ w - 1

/-- Sat of R47. -/
def satInt (x : Int) (signed : Bool) (w : Nat) : Int := min (max x (minOf signed w)) (maxOf signed w)

/-- Wrap of R47. -/
def wrapInt (x : Int) (signed : Bool) (w : Nat) : Int :=
  let y := x % 2 ^ w
  if signed && decide (2 ^ (w - 1) ≤ y) then y - 2 ^ w else y

/-- Fit of R47. -/
def fit (sat : Bool) (x : Int) (signed : Bool) (w : Nat) : Int :=
  if sat then satInt x signed w else wrapInt x signed w

/-- The conversion of R64 from a value to an integer type. -/
def toIntType (rm : Rounding) (x : FVal) (signed : Bool) (w : Nat) : Int :=
  match x with
  | .nan => 0
  | .inf neg => if neg then minOf signed w else maxOf signed w
  | .zero _ => 0
  | .fin n m e =>
    -- past 2^64 every type saturates, and no long shift is made
    if 64 < FVal.lead m e then (if n then minOf signed w else maxOf signed w)
    else satInt (roundInt rm (.fin n m e)) signed w

/-- EF of R65: the delivered code and the new companion (a binary32 code). -/
def errorFeedback (x : FVal) (c : Nat) (t : Fmt) (fz : Bool) : Nat × Nat :=
  let s := FVal.exactSum [x, fdecode c Fmt.binary32]
  let y := fround s t .rne fz
  let d := fdecode y t
  match s, d with
  | .nan, _ | .inf _, _ | _, .nan | _, .inf _ => (y, 0)
  | _, _ =>
    match FVal.exactSum [s, d.neg] with
    | .zero _ => (y, 0)
    | r => (y, fround r Fmt.binary32 .rne false)

/-- FSum of R162. -/
def fsum (terms : List FVal) (t : Fmt) (rm : Rounding) (fz : Bool) : Nat :=
  let z := FVal.exactSum terms
  let z' := if z = .zero false ∧ rm = .rdn ∧ terms.any (fun x => !decide (x = .zero false)) then FVal.zero true else z
  fround z' t rm fz

end Sys2Proof.Machine
end

