-- ==== Sys2Proof/Config.lean ====
section
/-!
DEFINITION. What is fixed for the machine: the figures of the part (R1), the parts of the physical layout
that the spec leaves to the implementation (log 6), and the free values (log 3, log 4): opaque constants
with no body, of which nothing can be proved.
-/
namespace Sys2Proof.Config

/-- Band slots, quadrants, cores and clusters of the part (R1). -/
def slots : Nat := 4096
def quadrants : Nat := 512
def cores : Nat := 128
def clusters : Nat := 16

/-- Bytes of scratchpad in a core and in a slice (R1, R40). -/
def spadBytes : Nat := 0x110000
def sliceBytes : Nat := 0x44000

/-- Bench memory: 112 units of 64 MiB (R348). DESIGN CHOICE (log 6): unit u lies at physical u * 2^26. -/
def benchUnits : Nat := 112
def benchUnitBytes : Nat := 2 ^ 26

/-- DESIGN CHOICE (log 6): bulk channel n lies at physical 2^42 + n * 2^31 (R349 gives no physical address). -/
def bulkBase : Nat := 2 ^ 42
def bulkChannelBytes : Nat := 2 ^ 31
/-- Data bytes of a bulk channel: 11,796,480 lines of 128 bytes (R443). -/
def bulkChannelData : Nat := 11796480 * 128

/-- Engines of each die's pool: copy, compression, collective (R1). -/
def poolSize : Nat → Nat
  | 0 => 16
  | 1 => 4
  | _ => 8

/-- A word drawn from Kiln's random source (R442, R449): free, one per draw (log 4). -/
opaque kilnRandom : Nat → Word

/-- Ed25519 verification of a 64-byte signature over a digest under a key (R118, R451): not defined by the
spec, which names the algorithm (log 4). Arguments: key, signature, digest. -/
opaque ed25519Verify : List Byte → List Byte → List Byte → Bool

/-- The signature that the device makes over a digest with its identity key (R454), free (log 4). -/
opaque ed25519Sign : List Byte → List Byte

/-- SHA-512 of a byte string, 64 bytes, as a function the spec only names (R118, R451; log 4). -/
opaque sha512 : List Byte → Nat → Byte

/-- Byte i of the identity record's public key number k at 32 k + i (R453), of the serial number, of the signature in the
record (R451): free (log 4). -/
opaque identityByte : Nat → Byte
opaque serialByte : Nat → Byte
opaque recordSignature : Nat → Byte

/-- Byte i of the Meolmis firmware key digest that is fused in the device (R451, R452): free (log 4). -/
opaque keyDigest : Nat → Byte

/-- The firmware image of a kind, 1 Kiln and 2 Wheel (R452), that the reset with a number finds in the device, as it was put there from
outside: free (log 4). -/
opaque firmware : Nat → Nat → List Byte

/-- Whether the wipe of the reset with a number fails (R461, R471): free (log 4). -/
opaque wipeFails : Nat → Bool

/-- AES-256-GCM of a line's bytes under a key's number and an IV (R444): the ciphertext; and the tag, as a number of which the first 56
bits are kept, also as the GMAC of a counter block or a node (R446). The spec names the algorithm (log 4). -/
opaque gcmCipher : Nat → List Byte → List Byte → List Byte
opaque gcmTag : Nat → List Byte → List Byte → Nat

/-- The native words of a verified slipcode body for an entry's level and allocation and the values of the object's symbols,
which the spec does not give (R123): free (log 4). -/
opaque slipNative : List Byte → Nat → Nat → List Nat → List Word

/-- The slots of a channel's window that a partition's floor asks for (R354), for which the spec gives no place in the partition
object: free (log 4). -/
opaque bandwidthFloor : Nat → Nat

/-- The energy weight number i that Kiln copies from its calibration table (R440): free (log 4). -/
opaque energyWeight : Nat → Word

/-- Byte `off` of the regions of a save area whose format only the restore path knows (R424), for the save with a fresh number:
free (log 16). -/
opaque saveByte : Nat → Nat → Byte

/-- A value that the spec leaves open: this constant at a fresh number (log 3). -/
opaque freeWord : Nat → Word

end Sys2Proof.Config
end

