-- ==== Sys2Proof/Syntax.lean ====
section
/-!
DEFINITION. The syntax of the machine: one constructor of `Instr` for each row of spec/opcode_table.json.
The first 255 rows are instruction words (03_encoding.md, R74 to R95); the others are steps of the device
that have no word (95_what_each_step_holds.md), and their operands are what the spec leaves to the agent
that takes the step: which slot, which quadrant, which record.
-/
namespace Sys2Proof

/-- A scalar register s0 to s63 (R20). -/
abbrev SReg := Fin 64
/-- A vector register v0 to v127 (R23). -/
abbrev VReg := Fin 128
/-- A predicate p0 to p7 (R21). -/
abbrev PReg := Fin 8
/-- A format register f0 to f15 (R27). -/
abbrev FReg := Fin 16
/-- A lookahead count (R84). -/
abbrev LA := Fin 16

/-- The scopes of R79. -/
inductive Scope where
  | thread | band | gang | core | cluster | device | fabric
  deriving DecidableEq, Repr

/-- The conditions of the compares (R79). -/
inductive CC where
  | eq | ne | lt | le | gt | ge | un
  deriving DecidableEq, Repr

/-- How a compare combines with the old predicate bit (R79). -/
inductive Comb where
  | set | and | or | xor
  deriving DecidableEq, Repr

/-- A bind record as Wheel writes it to a slot (R371). -/
structure BindRecord where
  lnchid : Word
  bid    : Word
  ctx    : Nat
  save   : Nat
  v      : Bool
  pre    : Bool
  unit   : Nat
  rf     : Nat
  cls    : Nat
  role   : Nat
  owner  : Nat
  work   : Nat
  deriving DecidableEq, Repr

/-- What Kiln's firmware chooses when it creates a partition or a window: the second-stage root and the
second-stage entries it writes (R413; the spec gives no layout of Kiln's tables), and the window number. -/
structure KilnChoice where
  root2   : Nat
  entries : List (Nat × DWord)
  window  : Nat
  deriving DecidableEq, Repr

/-- A request to the loader: the object's bytes lie at `addr` in the partition, and the sections that go to
device memory are placed at the addresses that system software gives (R114, R119, R460). -/
structure LoadRequest where
  part   : Nat
  addr   : Nat
  size   : Nat
  text   : Nat
  rodata : Nat
  data   : Nat
  deriving DecidableEq, Repr

/-- The unit that an uncorrectable or corrected read met (R357, R358, R406). -/
inductive EccUnit where
  | register (slot : Nat)
  | accumulator (quad : Nat) (tile : Nat)
  | saggar (quad : Nat) (start : Nat)
  | scratchpad (core : Nat) (addr : Nat)
  | cache (core : Nat) (index : Nat)
  | l2 (addr : Nat)
  | hotStore (addr : Nat)
  | bench (addr : Nat)
  | bulk (addr : Nat)
  deriving DecidableEq, Repr

/-- Who reads: a band or an engine, the fetch of a line ahead of its execution, or a copy line (R358, R417, R418). -/
inductive EccReader where
  | access
  | prefetch
  | copy
  deriving DecidableEq, Repr

/-- A read that met an error: the partition it is counted against, the unit, and how it ended (R358, R417). -/
structure EccRead where
  part      : Nat
  unit      : EccUnit
  corrected : Bool
  retryOk   : Bool
  reader    : EccReader
  deriving DecidableEq, Repr

/-- The instructions and steps of the opcode table. The order of the constructors has no meaning: the words with
operands stand first, BRK, REP and LIMM apart, since Lean's code generator can build an object only of a type's first
244 constructors. -/
inductive Instr where
  /-- TRAP (R142): Enters trap mode with cause 0x0001_0000 + c and TPC at the next word. -/
  | trap (c : BitVec 12)
  /-- MODE (R136): Writes s[sa] to MR after the checks of R31. -/
  | mode (a : SReg)
  /-- MODEI (R136): Writes an immediate MR value after the checks of R31. -/
  | modei (h : BitVec 11) (l : BitVec 7)
  /-- FMTSET (R137): Writes a format register after the validity checks of R52. -/
  | fmtset (f : FReg) (a : SReg)
  /-- FMTGET (R137): Reads a format register into a scalar register. -/
  | fmtget (d : SReg) (f : FReg)
  /-- MFSR (R138): Reads a system register, setting the pair read latch on a LO read. -/
  | mfsr (d : SReg) (n : BitVec 12)
  /-- MTSR (R138): Writes a system register, through the pair write latch and commit checks. -/
  | mtsr (v : SReg) (n : BitVec 12)
  /-- RWP (R144): Sets the rewind point, pinned set and captured MR and mask. -/
  | rwp (a : SReg) (n : Fin 64)
  /-- CAPS (R140): Writes one capability bit to a scalar register. -/
  | caps (d : SReg) (n : BitVec 12)
  /-- BR (R129): Unconditional PC-relative branch of the current path. -/
  | br (o : BitVec 18)
  /-- BZ (R129): Branches when s[sa] is zero. -/
  | bz (a : SReg) (o : BitVec 18)
  /-- BNZ (R129): Branches when s[sa] is nonzero. -/
  | bnz (a : SReg) (o : BitVec 18)
  /-- BNEG (R129): Branches when s[sa] bit 31 is set. -/
  | bneg (a : SReg) (o : BitVec 18)
  /-- BNNEG (R129): Branches when s[sa] bit 31 is clear. -/
  | bnneg (a : SReg) (o : BitVec 18)
  /-- CALL (R129): Writes the return address to s1 and branches. -/
  | call (o : BitVec 18)
  /-- PBR (R131): Splits the current path on a predicate, creating a new path entry or raising PATH_FULL. -/
  | pbr (n : Bool) (p : PReg) (o : BitVec 18)
  /-- JR (R82): Jumps to the register target within the current 4 GiB region. -/
  | jr (a : SReg)
  /-- JL (R130): Jumps to the register target and writes the return address to s1. -/
  | jl (a : SReg)
  /-- ADD (R125): Scalar 32-bit add. -/
  | add (d : SReg) (a : SReg) (b : SReg)
  /-- SUB (R125): Scalar 32-bit subtract. -/
  | sub (d : SReg) (a : SReg) (b : SReg)
  /-- MUL24 (R125): Scalar signed 24-bit multiply. -/
  | mul24 (d : SReg) (a : SReg) (b : SReg)
  /-- MUL (R125): Scalar low 32-bit multiply. -/
  | mul (d : SReg) (a : SReg) (b : SReg)
  /-- MULH (R125): Scalar signed multiply high word. -/
  | mulh (d : SReg) (a : SReg) (b : SReg)
  /-- MULHN (R125): Scalar unsigned multiply high word. -/
  | mulhn (d : SReg) (a : SReg) (b : SReg)
  /-- AND (R125): Scalar bitwise AND. -/
  | and (d : SReg) (a : SReg) (b : SReg)
  /-- OR (R125): Scalar bitwise OR. -/
  | or (d : SReg) (a : SReg) (b : SReg)
  /-- XOR (R125): Scalar bitwise XOR. -/
  | xor (d : SReg) (a : SReg) (b : SReg)
  /-- ANDN (R125): Scalar AND NOT. -/
  | andn (d : SReg) (a : SReg) (b : SReg)
  /-- ORN (R125): Scalar OR NOT. -/
  | orn (d : SReg) (a : SReg) (b : SReg)
  /-- SLL (R125): Scalar shift left by b[4:0]. -/
  | sll (d : SReg) (a : SReg) (b : SReg)
  /-- SRL (R125): Scalar logical shift right. -/
  | srl (d : SReg) (a : SReg) (b : SReg)
  /-- SRA (R125): Scalar arithmetic shift right. -/
  | sra (d : SReg) (a : SReg) (b : SReg)
  /-- ROL (R125): Scalar rotate left. -/
  | rol (d : SReg) (a : SReg) (b : SReg)
  /-- ROR (R125): Scalar rotate right. -/
  | ror (d : SReg) (a : SReg) (b : SReg)
  /-- MIN (R125): Scalar signed minimum. -/
  | min (d : SReg) (a : SReg) (b : SReg)
  /-- MAX (R125): Scalar signed maximum. -/
  | max (d : SReg) (a : SReg) (b : SReg)
  /-- MINN (R125): Scalar unsigned minimum. -/
  | minn (d : SReg) (a : SReg) (b : SReg)
  /-- MAXN (R125): Scalar unsigned maximum. -/
  | maxn (d : SReg) (a : SReg) (b : SReg)
  /-- SLT (R125): Scalar signed set-less-than. -/
  | slt (d : SReg) (a : SReg) (b : SReg)
  /-- SLTN (R125): Scalar unsigned set-less-than. -/
  | sltn (d : SReg) (a : SReg) (b : SReg)
  /-- EQ (R125): Scalar set-equal. -/
  | eq (d : SReg) (a : SReg) (b : SReg)
  /-- POPC (R125): Scalar population count. -/
  | popc (d : SReg) (a : SReg)
  /-- CLZ (R125): Scalar count leading zeros. -/
  | clz (d : SReg) (a : SReg)
  /-- CTZ (R125): Scalar count trailing zeros. -/
  | ctz (d : SReg) (a : SReg)
  /-- BREV (R125): Scalar bit reverse. -/
  | brev (d : SReg) (a : SReg)
  /-- BSWAP (R125): Scalar byte swap. -/
  | bswap (d : SReg) (a : SReg)
  /-- SXB (R125): Scalar sign-extend byte. -/
  | sxb (d : SReg) (a : SReg)
  /-- SXH (R125): Scalar sign-extend halfword. -/
  | sxh (d : SReg) (a : SReg)
  /-- ZXB (R125): Scalar zero-extend byte. -/
  | zxb (d : SReg) (a : SReg)
  /-- ZXH (R125): Scalar zero-extend halfword. -/
  | zxh (d : SReg) (a : SReg)
  /-- ADDI (R126): Scalar add immediate. -/
  | addi (d : SReg) (a : SReg) (i : BitVec 12)
  /-- ANDI (R126): Scalar AND immediate. -/
  | andi (d : SReg) (a : SReg) (i : BitVec 12)
  /-- ORI (R126): Scalar OR immediate. -/
  | ori (d : SReg) (a : SReg) (i : BitVec 12)
  /-- XORI (R126): Scalar XOR immediate. -/
  | xori (d : SReg) (a : SReg) (i : BitVec 12)
  /-- SLTI (R126): Scalar signed set-less-than immediate. -/
  | slti (d : SReg) (a : SReg) (i : BitVec 12)
  /-- SLTNI (R126): Scalar unsigned set-less-than immediate. -/
  | sltni (d : SReg) (a : SReg) (i : BitVec 12)
  /-- SLLI (R126): Scalar shift left by immediate count. -/
  | slli (d : SReg) (a : SReg) (c : BitVec 5)
  /-- SRLI (R126): Scalar logical shift right by immediate count. -/
  | srli (d : SReg) (a : SReg) (c : BitVec 5)
  /-- SRAI (R126): Scalar arithmetic shift right by immediate count. -/
  | srai (d : SReg) (a : SReg) (c : BitVec 5)
  /-- RORI (R126): Scalar rotate right by immediate count. -/
  | rori (d : SReg) (a : SReg) (c : BitVec 5)
  /-- MULI (R126): Scalar multiply by immediate. -/
  | muli (d : SReg) (a : SReg) (i : BitVec 12)
  /-- SLI (R127): Writes a sign-extended 20-bit immediate to a scalar register. -/
  | sli (d : SReg) (i : BitVec 20)
  /-- SLU (R127): Writes a 20-bit immediate to bits [31:12] of a scalar register. -/
  | slu (d : SReg) (i : BitVec 20)
  /-- JOIN (R146): Adds the enabled lanes' threads to a gang. -/
  | join (a : SReg)
  /-- VOTE_ANY (R150): Writes 1 when some enabled lane holds the predicate. -/
  | voteAny (d : SReg) (p : PReg)
  /-- VOTE_ALL (R150): Writes 1 when every enabled lane holds the predicate. -/
  | voteAll (d : SReg) (p : PReg)
  /-- VOTE_CNT (R150): Counts enabled lanes holding the predicate. -/
  | voteCnt (d : SReg) (p : PReg)
  /-- VOTE_BAL (R150): Writes the enabled-and-predicate ballot into a predicate. -/
  | voteBal (q : PReg) (p : PReg)
  /-- LID (R151): Writes each enabled lane's LID to a vector register. -/
  | lid (v : VReg)
  /-- TID (R151): Writes each enabled lane's TID to a vector register. -/
  | tid (v : VReg)
  /-- BID (R151): Writes the band identifier to a scalar register. -/
  | bid (d : SReg)
  /-- VADD (R160): Per-lane integer add with Fit. -/
  | vadd (d : VReg) (a : VReg) (b : VReg)
  /-- VSUB (R160): Per-lane integer subtract with Fit. -/
  | vsub (d : VReg) (a : VReg) (b : VReg)
  /-- VMUL24 (R160): Per-lane 24-bit integer multiply. -/
  | vmul24 (d : VReg) (a : VReg) (b : VReg)
  /-- VMUL32 (R160): Per-lane 32-bit integer multiply in four passes. -/
  | vmul32 (d : VReg) (a : VReg) (b : VReg)
  /-- VMULH32 (R160): Per-lane signed multiply high word. -/
  | vmulh32 (d : VReg) (a : VReg) (b : VReg)
  /-- VMULHN32 (R160): Per-lane unsigned multiply high word. -/
  | vmulhn32 (d : VReg) (a : VReg) (b : VReg)
  /-- VAND (R160): Per-lane bitwise AND. -/
  | vand (d : VReg) (a : VReg) (b : VReg)
  /-- VOR (R160): Per-lane bitwise OR. -/
  | vor (d : VReg) (a : VReg) (b : VReg)
  /-- VXOR (R160): Per-lane bitwise XOR. -/
  | vxor (d : VReg) (a : VReg) (b : VReg)
  /-- VANDN (R160): Per-lane AND NOT. -/
  | vandn (d : VReg) (a : VReg) (b : VReg)
  /-- VSLL (R160): Per-lane shift left. -/
  | vsll (d : VReg) (a : VReg) (b : VReg)
  /-- VSRL (R160): Per-lane logical shift right. -/
  | vsrl (d : VReg) (a : VReg) (b : VReg)
  /-- VSRA (R160): Per-lane arithmetic shift right. -/
  | vsra (d : VReg) (a : VReg) (b : VReg)
  /-- VROL (R160): Per-lane rotate left. -/
  | vrol (d : VReg) (a : VReg) (b : VReg)
  /-- VMIN (R160): Per-lane integer minimum. -/
  | vmin (d : VReg) (a : VReg) (b : VReg)
  /-- VMAX (R160): Per-lane integer maximum. -/
  | vmax (d : VReg) (a : VReg) (b : VReg)
  /-- VABSD (R160): Per-lane absolute difference with Fit. -/
  | vabsd (d : VReg) (a : VReg) (b : VReg)
  /-- VPOPC (R160): Per-lane population count. -/
  | vpopc (d : VReg) (a : VReg)
  /-- VCLZ (R160): Per-lane count leading zeros. -/
  | vclz (d : VReg) (a : VReg)
  /-- VCTZ (R160): Per-lane count trailing zeros. -/
  | vctz (d : VReg) (a : VReg)
  /-- VBREV (R160): Per-lane bit reverse. -/
  | vbrev (d : VReg) (a : VReg)
  /-- VSEL (R160): Per-lane bitwise select using the old vd as mask. -/
  | vsel (d : VReg) (a : VReg) (b : VReg)
  /-- VMOV (R160): Per-lane move. -/
  | vmov (d : VReg) (a : VReg)
  /-- VADDI (R161): Per-lane add immediate. -/
  | vaddi (d : VReg) (a : VReg) (i : BitVec 9)
  /-- VMULI24 (R161): Per-lane 24-bit multiply by immediate. -/
  | vmuli24 (d : VReg) (a : VReg) (i : BitVec 9)
  /-- VANDI (R161): Per-lane AND immediate. -/
  | vandi (d : VReg) (a : VReg) (i : BitVec 9)
  /-- VORI (R161): Per-lane OR immediate. -/
  | vori (d : VReg) (a : VReg) (i : BitVec 9)
  /-- VXORI (R161): Per-lane XOR immediate. -/
  | vxori (d : VReg) (a : VReg) (i : BitVec 9)
  /-- VSLLI (R161): Per-lane shift left by immediate. -/
  | vslli (d : VReg) (a : VReg) (c : BitVec 5)
  /-- VSRLI (R161): Per-lane logical shift right by immediate. -/
  | vsrli (d : VReg) (a : VReg) (c : BitVec 5)
  /-- VSRAI (R161): Per-lane arithmetic shift right by immediate. -/
  | vsrai (d : VReg) (a : VReg) (c : BitVec 5)
  /-- VMINI (R161): Per-lane minimum with immediate. -/
  | vmini (d : VReg) (a : VReg) (i : BitVec 9)
  /-- VMAXI (R161): Per-lane maximum with immediate. -/
  | vmaxi (d : VReg) (a : VReg) (i : BitVec 9)
  /-- VMOVI (R161): Per-lane move of an immediate. -/
  | vmovi (d : VReg) (i : BitVec 9)
  /-- VFADD (R163): Per-lane floating add rounded once. -/
  | vfadd (d : VReg) (a : VReg) (b : VReg)
  /-- VFSUB (R163): Per-lane floating subtract. -/
  | vfsub (d : VReg) (a : VReg) (b : VReg)
  /-- VFMUL (R163): Per-lane floating multiply. -/
  | vfmul (d : VReg) (a : VReg) (b : VReg)
  /-- VFMA (R163): Per-lane fused multiply-add into vd. -/
  | vfma (d : VReg) (a : VReg) (b : VReg)
  /-- VFMS (R163): Per-lane fused multiply-subtract. -/
  | vfms (d : VReg) (a : VReg) (b : VReg)
  /-- VFNMA (R163): Per-lane fused negated multiply-add. -/
  | vfnma (d : VReg) (a : VReg) (b : VReg)
  /-- VFMIN (R164): Per-lane floating minimum. -/
  | vfmin (d : VReg) (a : VReg) (b : VReg)
  /-- VFMAX (R164): Per-lane floating maximum. -/
  | vfmax (d : VReg) (a : VReg) (b : VReg)
  /-- VFABS (R163): Per-lane floating absolute value. -/
  | vfabs (d : VReg) (a : VReg)
  /-- VFNEG (R163): Per-lane floating negate. -/
  | vfneg (d : VReg) (a : VReg)
  /-- VFCPYS (R163): Per-lane copy sign. -/
  | vfcpys (d : VReg) (a : VReg) (b : VReg)
  /-- VFCLASS (R165): Per-lane class mask of a floating value. -/
  | vfclass (d : VReg) (a : VReg)
  /-- VFRND (R163): Per-lane round to integral value. -/
  | vfrnd (d : VReg) (a : VReg)
  /-- VRCP (R166): Long-latency correctly rounded reciprocal. -/
  | vrcp (la : LA) (d : VReg) (a : VReg)
  /-- VRSQ (R166): Long-latency reciprocal square root. -/
  | vrsq (la : LA) (d : VReg) (a : VReg)
  /-- VSQRT (R166): Long-latency square root. -/
  | vsqrt (la : LA) (d : VReg) (a : VReg)
  /-- VDIV (R166): Long-latency divide of vd by va. -/
  | vdiv (la : LA) (d : VReg) (a : VReg)
  /-- VEXP2 (R166): Long-latency base-2 exponential. -/
  | vexp2 (la : LA) (d : VReg) (a : VReg)
  /-- VLOG2 (R166): Long-latency base-2 logarithm. -/
  | vlog2 (la : LA) (d : VReg) (a : VReg)
  /-- VSIN (R166): Long-latency sine. -/
  | vsin (la : LA) (d : VReg) (a : VReg)
  /-- VCOS (R166): Long-latency cosine. -/
  | vcos (la : LA) (d : VReg) (a : VReg)
  /-- VTANH (R166): Long-latency hyperbolic tangent. -/
  | vtanh (la : LA) (d : VReg) (a : VReg)
  /-- VCVT (R168): Converts between integer types or between float kinds. -/
  | vcvt (d : VReg) (a : VReg) (t : Fin 16)
  /-- VCVTEF (R169): Narrows with error feedback, updating the companion register. -/
  | vcvtef (d : VReg) (a : VReg) (b : VReg)
  /-- VCVTI (R168): Converts a float kind to an integer type. -/
  | vcvti (d : VReg) (a : VReg) (t : Fin 16)
  /-- VCVTF (R168): Converts an integer type to a float kind. -/
  | vcvtf (d : VReg) (a : VReg) (t : Fin 16)
  /-- VPK (R170): Packs narrow elements into a 32-bit register. -/
  | vpk (d : VReg) (a : VReg) (b : VReg)
  /-- VUPK (R171): Extracts one narrow element of a register. -/
  | vupk (d : VReg) (a : VReg) (n : Fin 4)
  /-- VSCALE (R172): Multiplies by 2^k per lane with one rounding. -/
  | vscale (d : VReg) (a : VReg) (b : VReg)
  /-- VBS (R173): Broadcasts a scalar to enabled lanes. -/
  | vbs (d : VReg) (a : SReg)
  /-- VRD (R174): Reads one lane of a vector into a scalar. -/
  | vrd (d : SReg) (a : VReg) (b : SReg)
  /-- VWR (R174): Writes a scalar into one lane of a vector. -/
  | vwr (d : VReg) (a : SReg) (b : SReg)
  /-- VSHFL (R173): Per-lane gather from another lane by index. -/
  | vshfl (d : VReg) (a : VReg) (b : VReg)
  /-- VSHFX (R173): Per-lane gather from the lane XOR index. -/
  | vshfx (d : VReg) (a : VReg) (b : VReg)
  /-- VROT (R173): Rotates lanes by a scalar count. -/
  | vrot (d : VReg) (a : VReg) (b : SReg)
  /-- VREDADD (R175): Fixed-tree sum reduction to a scalar. -/
  | vredadd (d : SReg) (a : VReg)
  /-- VREDMIN (R175): Minimum reduction to a scalar. -/
  | vredmin (d : SReg) (a : VReg)
  /-- VREDMAX (R175): Maximum reduction to a scalar. -/
  | vredmax (d : SReg) (a : VReg)
  /-- VREDMINX (R176): Minimum reduction with the index of the lowest winning lane. -/
  | vredminx (d : SReg) (a : VReg) (b : SReg)
  /-- VREDMAXX (R176): Maximum reduction with the index of the lowest winning lane. -/
  | vredmaxx (d : SReg) (a : VReg) (b : SReg)
  /-- VSCAN (R177): Inclusive sequential running sum over lanes. -/
  | vscan (d : VReg) (a : VReg)
  /-- VREDAND (R175): AND reduction to a scalar. -/
  | vredand (d : SReg) (a : VReg)
  /-- VREDOR (R175): OR reduction to a scalar. -/
  | vredor (d : SReg) (a : VReg)
  /-- VREDXOR (R175): XOR reduction to a scalar. -/
  | vredxor (d : SReg) (a : VReg)
  /-- VCMP (R178): Signed integer compare combined into a predicate. -/
  | vcmp (c : CC) (p : PReg) (m : Comb) (a : VReg) (b : VReg)
  /-- VCMPN (R178): Unsigned integer compare combined into a predicate. -/
  | vcmpn (c : CC) (p : PReg) (m : Comb) (a : VReg) (b : VReg)
  /-- VFCMP (R178): Floating compare combined into a predicate. -/
  | vfcmp (c : CC) (p : PReg) (m : Comb) (a : VReg) (b : VReg)
  /-- VFCMPN (R178): Negated floating compare combined into a predicate. -/
  | vfcmpn (c : CC) (p : PReg) (m : Comb) (a : VReg) (b : VReg)
  /-- LDB (R185): Per-lane byte load, zero-extended. -/
  | ldb (la : LA) (v : VReg) (a : SReg) (i : BitVec 6)
  /-- LDBS (R185): Per-lane byte load, sign-extended. -/
  | ldbs (la : LA) (v : VReg) (a : SReg) (i : BitVec 6)
  /-- LDH (R185): Per-lane halfword load, zero-extended. -/
  | ldh (la : LA) (v : VReg) (a : SReg) (i : BitVec 6)
  /-- LDHS (R185): Per-lane halfword load, sign-extended. -/
  | ldhs (la : LA) (v : VReg) (a : SReg) (i : BitVec 6)
  /-- LDW (R185): Per-lane word load. -/
  | ldw (la : LA) (v : VReg) (a : SReg) (i : BitVec 6)
  /-- LDD (R185): Per-lane doubleword load into a pair. -/
  | ldd (la : LA) (v : VReg) (a : SReg) (i : BitVec 6)
  /-- LDQ (R185): Per-lane 16-byte load into four registers. -/
  | ldq (la : LA) (v : VReg) (a : SReg) (i : BitVec 6)
  /-- LDS (R188): Uniform word load into a scalar register. -/
  | lds (la : LA) (d : SReg) (a : SReg) (i : BitVec 6)
  /-- LDX (R187): Per-lane gather of words at per-lane offsets. -/
  | ldx (la : LA) (v : VReg) (a : SReg) (i : BitVec 6)
  /-- LDW_ACQ (R189): Per-lane word load that is an acquire at its scope. -/
  | ldwAcq (la : LA) (v : VReg) (a : SReg) (c : Scope)
  /-- LDD_ACQ (R189): Per-lane doubleword acquire load. -/
  | lddAcq (la : LA) (v : VReg) (a : SReg) (c : Scope)
  /-- LDS_ACQ (R189): Uniform scalar acquire load. -/
  | ldsAcq (la : LA) (d : SReg) (a : SReg) (c : Scope)
  /-- STB (R186): Per-lane byte store, optionally a release. -/
  | stb (r : Option Scope) (v : VReg) (a : SReg) (i : BitVec 6)
  /-- STH (R186): Per-lane halfword store. -/
  | sth (r : Option Scope) (v : VReg) (a : SReg) (i : BitVec 6)
  /-- STW (R186): Per-lane word store. -/
  | stw (r : Option Scope) (v : VReg) (a : SReg) (i : BitVec 6)
  /-- STD (R186): Per-lane doubleword store from a pair. -/
  | std (r : Option Scope) (v : VReg) (a : SReg) (i : BitVec 6)
  /-- STQ (R186): Per-lane 16-byte store from four registers. -/
  | stq (r : Option Scope) (v : VReg) (a : SReg) (i : BitVec 6)
  /-- STS (R188): Uniform store of a scalar word. -/
  | sts (r : Option Scope) (v : SReg) (a : SReg) (i : BitVec 6)
  /-- STX (R187): Per-lane scatter of words at per-lane offsets. -/
  | stx (v : VReg) (a : SReg) (i : BitVec 6)
  /-- FLD (R190): Loads a frame word through a display register. -/
  | fld (la : LA) (e : Fin 8) (d : SReg) (o : BitVec 14)
  /-- FST (R190): Stores a frame word through a display register, optionally a release. -/
  | fst (r : Option Scope) (e : Fin 8) (v : SReg) (o : BitVec 14)
  /-- FLA (R190): Writes the checked address of a frame word to a scalar pair. -/
  | fla (e : Fin 8) (d : SReg) (o : BitVec 14)
  /-- SPAT (R193): Loads a stream pattern record into a stream and resets its position. -/
  | spat (a : SReg) (k : Fin 4)
  /-- SLD (R194): Per-lane stream load advancing the position by 96. -/
  | sld (la : LA) (d : VReg) (k : Fin 4)
  /-- SST (R194): Per-lane stream store advancing the position by 96. -/
  | sst (v : VReg) (k : Fin 4)
  /-- SRESET (R193): Resets a stream's position to 0. -/
  | sreset (k : Fin 4)
  /-- AADD (R217): Returning per-lane atomic add. -/
  | aadd (la : LA) (v : VReg) (a : SReg) (o : BitVec 5)
  /-- AADD_NR (R217): Non-returning per-lane atomic add, optionally a release. -/
  | aaddNr (r : Option Scope) (v : VReg) (a : SReg) (o : BitVec 5)
  /-- AMIN (R217): Returning atomic signed minimum. -/
  | amin (la : LA) (v : VReg) (a : SReg) (o : BitVec 5)
  /-- AMIN_NR (R217): Non-returning atomic signed minimum. -/
  | aminNr (r : Option Scope) (v : VReg) (a : SReg) (o : BitVec 5)
  /-- AMAX (R217): Returning atomic signed maximum. -/
  | amax (la : LA) (v : VReg) (a : SReg) (o : BitVec 5)
  /-- AMAX_NR (R217): Non-returning atomic signed maximum. -/
  | amaxNr (r : Option Scope) (v : VReg) (a : SReg) (o : BitVec 5)
  /-- AMINN (R217): Returning atomic unsigned minimum. -/
  | aminn (la : LA) (v : VReg) (a : SReg) (o : BitVec 5)
  /-- AMINN_NR (R217): Non-returning atomic unsigned minimum. -/
  | aminnNr (r : Option Scope) (v : VReg) (a : SReg) (o : BitVec 5)
  /-- AMAXN (R217): Returning atomic unsigned maximum. -/
  | amaxn (la : LA) (v : VReg) (a : SReg) (o : BitVec 5)
  /-- AMAXN_NR (R217): Non-returning atomic unsigned maximum. -/
  | amaxnNr (r : Option Scope) (v : VReg) (a : SReg) (o : BitVec 5)
  /-- AAND (R217): Returning atomic AND. -/
  | aand (la : LA) (v : VReg) (a : SReg) (o : BitVec 5)
  /-- AAND_NR (R217): Non-returning atomic AND. -/
  | aandNr (r : Option Scope) (v : VReg) (a : SReg) (o : BitVec 5)
  /-- AOR (R217): Returning atomic OR. -/
  | aor (la : LA) (v : VReg) (a : SReg) (o : BitVec 5)
  /-- AOR_NR (R217): Non-returning atomic OR. -/
  | aorNr (r : Option Scope) (v : VReg) (a : SReg) (o : BitVec 5)
  /-- AXOR (R217): Returning atomic XOR. -/
  | axor (la : LA) (v : VReg) (a : SReg) (o : BitVec 5)
  /-- AXOR_NR (R217): Non-returning atomic XOR. -/
  | axorNr (r : Option Scope) (v : VReg) (a : SReg) (o : BitVec 5)
  /-- AXCHG (R217): Returning atomic exchange. -/
  | axchg (la : LA) (v : VReg) (a : SReg) (o : BitVec 5)
  /-- AXCHG_NR (R217): Non-returning atomic exchange. -/
  | axchgNr (r : Option Scope) (v : VReg) (a : SReg) (o : BitVec 5)
  /-- ACAS (R217): Returning atomic compare-and-swap. -/
  | acas (la : LA) (v : VReg) (a : SReg) (o : BitVec 5)
  /-- ACAS_NR (R217): Non-returning atomic compare-and-swap. -/
  | acasNr (r : Option Scope) (v : VReg) (a : SReg) (o : BitVec 5)
  /-- AINC (R217): Returning atomic wrapping increment. -/
  | ainc (la : LA) (v : VReg) (a : SReg) (o : BitVec 5)
  /-- AINC_NR (R217): Non-returning atomic wrapping increment. -/
  | aincNr (r : Option Scope) (v : VReg) (a : SReg) (o : BitVec 5)
  /-- AFADD (R217): Returning atomic binary32 add. -/
  | afadd (la : LA) (v : VReg) (a : SReg) (o : BitVec 5)
  /-- AFADD_NR (R217): Non-returning atomic binary32 add. -/
  | afaddNr (r : Option Scope) (v : VReg) (a : SReg) (o : BitVec 5)
  /-- CPY_4 (R195): Queues a 4-byte copy per enabled lane with a completion counter. -/
  | cpy4 (d : SReg) (a : SReg) (c : SReg)
  /-- CPY_8 (R195): Queues an 8-byte copy per enabled lane. -/
  | cpy8 (d : SReg) (a : SReg) (c : SReg)
  /-- CPY_16 (R195): Queues a 16-byte copy per enabled lane. -/
  | cpy16 (d : SReg) (a : SReg) (c : SReg)
  /-- CPT (R197): Issues a stream-pattern copy between memory and a tile. -/
  | cpt (t : SReg) (a : SReg) (c : SReg)
  /-- CPZ (R200): Issues a pack or expand operation to a compression engine. -/
  | cpz (r : SReg) (c : SReg)
  /-- CNTADD (R198): Releases and then atomically adds to a completion counter. -/
  | cntadd (c : SReg) (v : SReg)
  /-- CNTW (R198): Blocks the path until a counter reaches a target. -/
  | cntw (c : SReg) (g : SReg)
  /-- CNTRD (R198): Reads a completion counter into a scalar pair. -/
  | cntrd (d : SReg) (c : SReg)
  /-- TDEF (R205): Defines an empty tile from a descriptor record. -/
  | tdef (a : SReg)
  /-- TFILL (R206): Moves a tile from empty to filling. -/
  | tfill (t : SReg)
  /-- TCOMMIT (R206): Moves a tile from filling to ready after the band's stores are performed. -/
  | tcommit (t : SReg)
  /-- TDRAIN (R206): Moves a tile from ready to draining. -/
  | tdrain (t : SReg)
  /-- TREL (R206): Moves a tile from draining to empty once its readers are zero. -/
  | trel (t : SReg)
  /-- TSTATE (R207): Reads a tile's state word. -/
  | tstate (d : SReg) (t : SReg)
  /-- TST_AON (R209): Opens or closes an all-or-nothing store bracket on a tile. -/
  | tstAon (t : SReg) (m : SReg)
  /-- TLD_VER (R210): Versioned consistent read of tile words into scalars. -/
  | tldVer (d : SReg) (t : SReg) (c : SReg)
  /-- CBDEF (R213): Defines a circular buffer from a descriptor record. -/
  | cbdef (b : SReg) (a : SReg)
  /-- CBPUSH (R214): Releases and advances a buffer's produced count. -/
  | cbpush (b : SReg) (n : SReg)
  /-- CBPOP (R214): Releases and advances a buffer's consumed count. -/
  | cbpop (b : SReg) (n : SReg)
  /-- CBWAIT (R214): Blocks the path until a buffer has enough records or room. -/
  | cbwait (b : SReg) (n : SReg) (m : SReg)
  /-- CBPEEK (R214): Reads a buffer's available, room or current slot tile. -/
  | cbpeek (d : SReg) (b : SReg) (f : SReg)
  /-- FENCE (R219): Orders the band's earlier and later accesses of the named kinds at a scope. -/
  | fence (c : Scope) (k : BitVec 4)
  /-- PFENCE (R220): Completes earlier operations of source classes before later ones of destination classes. -/
  | pfence (u : BitVec 6) (d : BitVec 6)
  /-- SWREL (R221): Publishes a scarf window and advances its generation. -/
  | swrel (w : SReg) (g : SReg)
  /-- SWACQ (R221): Waits for a scarf window generation and acquires. -/
  | swacq (w : SReg) (g : SReg)
  /-- MFMT (R231): Posts a command that sets an accumulator tile's format and zeroes it. -/
  | mfmt (i : Fin 64) (p : Fin 64) (q : Fin 64) (r : SReg)
  /-- WLD (R234): Posts a command that loads step images into the Saggar. -/
  | wld (i : Fin 64) (p : Fin 64) (q : Fin 64) (r : SReg)
  /-- MLOOP (R239): Posts a chain of matrix steps into one accumulator. -/
  | mloop (i : Fin 64) (p : Fin 64) (q : Fin 64) (r : SReg)
  /-- MZERO (R231): Posts a command that zeroes accumulator tiles. -/
  | mzero (i : Fin 64) (p : Fin 64) (q : Fin 64) (r : SReg)
  /-- MLD (R243): Posts a command that loads an accumulator tile from memory. -/
  | mld (i : Fin 64) (p : Fin 64) (q : Fin 64) (r : SReg)
  /-- MST (R244): Posts a command that stores a narrowed accumulator tile. -/
  | mst (i : Fin 64) (p : Fin 64) (q : Fin 64) (r : SReg)
  /-- MWAIT (R246): Waits for the band's command with an id, or all, to retire. -/
  | mwait (i : Fin 64)
  /-- MQUERY (R247): Reads the status of a command id or of all commands. -/
  | mquery (i : Fin 64) (d : SReg)
  /-- LAUNCH (R262): Creates a child launch with a new frame and returns its handle. -/
  | launch (d : SReg) (r : SReg)
  /-- LWAIT (R268): Waits for children and reports kills. -/
  | lwait (d : SReg) (h : SReg)
  /-- DSP (R269): Reads a display register into a scalar pair. -/
  | dsp (d : SReg) (l : Fin 8)
  /-- GBIND (R272): Asks Plumb to bind a rate graph and waits for the answer. -/
  | gbind (d : SReg) (g : SReg) (b : SReg)
  /-- GSTART (R272): Makes a bound or stopped graph running. -/
  | gstart (h : SReg)
  /-- GSTOP (R272): Stops, stops and waits, or unbinds a graph. -/
  | gstop (h : SReg) (m : SReg)
  /-- GREBIND (R397): Replaces a graph's binding with a new declaration. -/
  | grebind (d : SReg) (h : SReg) (g : SReg)
  /-- QPUT (R277): Enqueues one task per enabled lane into a task queue. -/
  | qput (t : SReg) (q : SReg)
  /-- NOP (R141): Changes nothing but the PC. -/
  | nop
  /-- TRET (R143): Returns from trap mode: restores MR and mask, replays logged entries and resumes at TPC. -/
  | tret
  /-- RET (R129): Jumps to the register target held in s1. -/
  | ret
  /-- LEAVE (R147): Removes the enabled lanes' threads from their gangs. -/
  | leave
  /-- GBAR (R148): Arrives at the gang barrier with a release and blocks the path until the phase changes. -/
  | gbar
  /-- REGROUP (R152): Offers the band for fusion with another eligible band, waiting up to 256 clocks. -/
  | regroup
  /-- RCV (R133): Reconverges paths at this address or makes the current path wait. -/
  | rcv
  /-- EXIT (R254): Ends the enabled lanes' threads. -/
  | exit
  /-- BRK (R142): Enters trap mode with cause 0x0002_0000 + c and TPC at the brk word. -/
  | brk (c : BitVec 12)
  /-- REP (R89): Prefix that issues its target n times with stepped register fields. -/
  | rep (n : Fin 64) (m : BitVec 3)
  /-- LIMM (R93): Prefix that widens the follower's immediate to 32 bits. -/
  | limm (i : BitVec 27)
  /-- GBAR_UNBLOCK (R148): A blocked gang barrier path acquires and continues after the phase change. -/
  | gbarUnblock (slot : Nat) (path : Nat)
  /-- REGROUP_TIMEOUT (R153): A band waiting 256 clocks at a regroup continues unfused. -/
  | regroupTimeout (slot : Nat)
  /-- FUSION_COMPLETE (R298): A fusion's register move ends and the fused band issues again. -/
  | fusionComplete (keep : Nat) (absorbed : Nat)
  /-- RESULT_ARRIVAL (R293): A long-latency result arrives, retires and is held or written at window close. -/
  | resultArrival (slot : Nat) (entry : Nat)
  /-- CNTW_WAKE (R198): A waiting cntw finds the counter at its target and acquires. -/
  | cntwWake (slot : Nat) (path : Nat)
  /-- CBWAIT_WAKE (R214): A waiting cbwait finds enough records or room. -/
  | cbwaitWake (slot : Nat) (path : Nat)
  /-- SWACQ_WAKE (R221): A waiting swacq sees its generation and acquires. -/
  | swacqWake (slot : Nat) (path : Nat)
  /-- LWAIT_WAKE (R268): A waiting lwait finds its children complete and acquires. -/
  | lwaitWake (slot : Nat) (path : Nat)
  /-- MWAIT_WAKE (R246): A waiting mwait finds its commands retired. -/
  | mwaitWake (slot : Nat) (path : Nat)
  /-- TCOMMIT_WAKE (R206): A tcommit completes once the band's tile stores are performed. -/
  | tcommitWake (slot : Nat) (path : Nat)
  /-- TREL_WAKE (R206): A trel completes once the tile's readers reach zero. -/
  | trelWake (slot : Nat) (path : Nat)
  /-- TST_AON_OPEN_WAKE (R209): A bracket open proceeds once the tile is ready with an even version. -/
  | tstAonOpenWake (slot : Nat) (path : Nat)
  /-- TST_AON_CLOSE_WAKE (R209): A bracket close advances the version once the stores are performed. -/
  | tstAonCloseWake (slot : Nat) (path : Nat)
  /-- TLD_VER_WAKE (R210): A waiting versioned read retries once the version is even. -/
  | tldVerWake (slot : Nat) (path : Nat)
  /-- TILE_STORE_WAKE (R208): A store waiting on a ready tile's readers writes once readers are zero. -/
  | tileStoreWake (slot : Nat) (path : Nat)
  /-- TORN_BRACKET_CLOSE (R211): An abandoned bracket advances the version and sets TORN once its stores are performed. -/
  | tornBracketClose (core : Nat) (tile : Nat)
  /-- LAUNCH_WAIT_WAKE (R262): A launch waiting for child table room proceeds. -/
  | launchWaitWake (slot : Nat) (path : Nat)
  /-- QPUT_WAIT_WAKE (R277): A qput waiting for ring room appends its entries. -/
  | qputWaitWake (slot : Nat) (path : Nat)
  /-- MTX_POST_WAKE (R224): A matrix post waiting for queue room or a free id is accepted. -/
  | mtxPostWake (slot : Nat) (path : Nat)
  /-- GBIND_ANSWER (R399): Plumb finishes solving, placing and admitting a graph and answers gbind. -/
  | gbindAnswer (slot : Nat) (path : Nat)
  /-- GSTOP_WAIT_WAKE (R272): A gstop with mode 1 returns when the graph is stopped. -/
  | gstopWaitWake (slot : Nat) (path : Nat)
  /-- MATRIX_COMMAND_ISSUE (R227): The sequencer starts a posted command once its predecessors and orders allow. -/
  | matrixCommandIssue (quad : Nat) (index : Nat)
  /-- MLOOP_STEP (R242): One MLOOP step reads its A input and image and adds into the accumulator. -/
  | mloopStep (quad : Nat)
  /-- WLD_IMAGE (R235): One step image is read, compressed and written to the Saggar. -/
  | wldImage (quad : Nat)
  /-- MST_ROW (R245): One accumulator row is narrowed and written to memory. -/
  | mstRow (quad : Nat)
  /-- MLD_TRANSFER (R243): An MLD's rows have been read and the tile is written. -/
  | mldTransfer (quad : Nat)
  /-- MATRIX_OPERAND_ABANDON (R251): 4,000 clocks after pre-emption a unit still waiting for operands is abandoned. -/
  | matrixOperandAbandon (quad : Nat) (index : Nat)
  /-- COPY_LINE_OPERATION (R196): A copy line operation writes its bytes and adds its count. -/
  | copyLineOperation (index : Nat)
  /-- TILE_COPY_LINE (R197): A cpt line operation moves its range and adds its count. -/
  | tileCopyLine (index : Nat)
  /-- CZ_PACK (R202): A pack reads its lines, writes the stream or header and adds its count. -/
  | czPack (index : Nat)
  /-- CZ_EXPAND_CHECK (R202): An expand checks its stream before writing any line. -/
  | czExpandCheck (index : Nat)
  /-- CZ_EXPAND_LINE (R202): One destination line of an expand is written and counted. -/
  | czExpandLine (index : Nat) (line : Nat)
  /-- ATOMIC_REQUEST_ACCEPT (R353): An atomic engine accepts one line request by port rotation and applies it. -/
  | atomicRequestAccept (cluster : Nat)
  /-- HOT_STORE_FILL (R353): A missed line arrives in the hot store and its waiting requests proceed. -/
  | hotStoreFill (cluster : Nat) (line : Nat)
  /-- PAGE_WALK_FILL (R416): A page walk completes and fills the TLB or is dropped by generation. -/
  | pageWalkFill (cluster : Nat) (walk : Nat)
  /-- ECC_READ_RETRY (R358): An uncorrectable read is retried and classed transient or lasting. -/
  | eccReadRetry (read : EccRead)
  /-- CACHE_LINE_EXPIRY (R346): A cached line is discarded 65,536 clocks after its fill. -/
  | cacheLineExpiry (core : Nat) (index : Nat)
  /-- REMOTE_LINE_EXPIRY (R326): A cached remote line is discarded 65,536 clocks after its fill. -/
  | remoteLineExpiry (core : Nat) (index : Nat)
  /-- BANDWIDTH_WINDOW (R354): A bulk channel's 1,024-transfer scheduling window ends and floors reset. -/
  | bandwidthWindow (channel : Nat)
  /-- LEASE_BOUNDARY (R438): Every 65,536 clocks the lease dispatcher reassigns a die's engines. -/
  | leaseBoundary (die : Nat)
  /-- LOG_REPLAY (R408): A logged instruction whose WAIT is clear replays its lanes. -/
  | logReplay (slot : Nat) (entry : Nat)
  /-- FAULT_RECORD_WRITE (R410): A waiting fault record is written to the fault ring once it has room. -/
  | faultRecordWrite (part : Nat)
  /-- LAUNCH_QUEUE_DOORBELL (R364): A host writes a queue's TAIL doorbell. -/
  | launchQueueDoorbell (part : Nat) (queue : Nat) (tail : Word)
  /-- QUEUE_RECORD_SKIP (R366): Wheel consumes a kind 0 record. -/
  | queueRecordSkip (part : Nat) (queue : Nat)
  /-- QUEUE_RECORD_LAUNCH (R366): Wheel consumes a launch record, allocates its frame and admits it. -/
  | queueRecordLaunch (part : Nat) (queue : Nat)
  /-- QUEUE_RECORD_TEMPLATE (R379): Wheel consumes a template registration record. -/
  | queueRecordTemplate (part : Nat) (queue : Nat)
  /-- QUEUE_RECORD_TASK_QUEUE (R379): Wheel consumes a task queue set-up record. -/
  | queueRecordTaskQueue (part : Nat) (queue : Nat)
  /-- BIND_START (R372): A bind record with SAVE 0 starts a fresh band in a free slot. -/
  | bindStart (slot : Nat) (record : BindRecord)
  /-- BIND_RESTORE (R372): A bind record with SAVE nonzero starts restoring a saved band. -/
  | bindRestore (slot : Nat) (record : BindRecord)
  /-- BIND_PREEMPT (R372): A bind record with PRE set requests pre-emption of a running band. -/
  | bindPreempt (slot : Nat) (record : BindRecord)
  /-- BIND_INVALID (R372): A bind record with V clear has no effect. -/
  | bindInvalid (slot : Nat) (record : BindRecord)
  /-- PREEMPT_AT_BOUNDARY (R420): A pre-empted band reaches a unit boundary and the pre-emption kind is chosen. -/
  | preemptAtBoundary (slot : Nat)
  /-- BOUNDARY_SAVE (R423): Once every issued instruction has retired the band's whole state is saved. -/
  | boundarySave (slot : Nat)
  /-- RESULT_REDIRECT (R423): 4,000 clocks after a save request unfinished results are redirected to the save area. -/
  | resultRedirect (slot : Nat)
  /-- SAVE_COMPLETE (R425): A band's save area is written and its slot becomes free. -/
  | saveComplete (slot : Nat)
  /-- RESTORE_COMPLETE (R372): A restore ends and the slot becomes running. -/
  | restoreComplete (slot : Nat)
  /-- DRAIN_REPORT (R377): A core's drain entry frees and it reports drained to the home Wheel. -/
  | drainReport (core : Nat) (launch : Word)
  /-- LAUNCH_COMPLETION (R267): Wheel completes a drained launch: release, completion word, frame state, child table. -/
  | launchCompletion (launch : Word)
  /-- DEADLINE_WORK_EXPIRY (R373): A DEADLINE band reaches WORK clocks unfinished and its launch is killed. -/
  | deadlineWorkExpiry (slot : Nat)
  /-- TASK_DISPATCH (R278): Dispatch gathers queued tasks into a group and creates a task launch. -/
  | taskDispatch (part : Nat) (queue : Nat)
  /-- GRAPH_FIRING_START (R389): Dispatch starts the next firing of a running graph once counts allow. -/
  | graphFiringStart (part : Nat) (handle : Word)
  /-- GRAPH_FIRING_END (R390): A firing ends and its count advances are checked. -/
  | graphFiringEnd (part : Nat) (handle : Word) (stage : Nat)
  /-- GRAPH_ALLOW_EXPIRY (R394): An entry firing unfinished after ALLOW clocks is killed and the graph faults. -/
  | graphAllowExpiry (part : Nat) (handle : Word) (stage : Nat)
  /-- FAULT_DOORBELL_REPLAY (R410): Action 0 clears WAIT so the logged entry replays. -/
  | faultDoorbellReplay (part : Nat) (seq : Word)
  /-- FAULT_DOORBELL_DELIVER (R410): Action 1 enters trap mode with the record's code. -/
  | faultDoorbellDeliver (part : Nat) (seq : Word)
  /-- FAULT_DOORBELL_KILL (R410): Action 2 kills the launch with the record's code. -/
  | faultDoorbellKill (part : Nat) (seq : Word)
  /-- FAULT_DOORBELL_IGNORE (R410): Action 3 is ignored. -/
  | faultDoorbellIgnore (part : Nat) (seq : Word)
  /-- CREATE (R434): Kiln creates a partition from its object and grants. -/
  | create (page : Nat) (choice : KilnChoice)
  /-- CREATE_INIT_DONE (R434): Channel group initialisation ends and the CREATE response is written. -/
  | createInitDone (part : Nat)
  /-- DESTROY (R435): Kiln retires a partition, kills its work and wipes its memories. -/
  | destroy (page : Nat)
  /-- UPDATE (R433): Kiln re-reads a partition's mutable object fields. -/
  | update (page : Nat)
  /-- SHOOTDOWN (R416): A stage-1 shoot-down advances generations and invalidates TLB entries. -/
  | shootdown (page : Nat)
  /-- SHOOTDOWN_ACK (R416): A shoot-down is acknowledged once older walks and accesses finish. -/
  | shootdownAck (index : Nat)
  /-- PROPOSE (R448): A partition proposes a scarf window to a peer. -/
  | propose (page : Nat)
  /-- ACCEPT (R448): The peer accepts a proposal and Kiln creates the window. -/
  | accept (page : Nat) (choice : KilnChoice)
  /-- CLOSE (R450): A scarf window or proposal is closed and its pages returned. -/
  | close (page : Nat)
  /-- ATTEST (R454): Kiln writes a signed attestation report. -/
  | attest (page : Nat)
  /-- LIFE (R455): Kiln advances the life-cycle state under a signed authorisation. -/
  | life (page : Nat)
  /-- KILN_BAD_OP (R433): An unlisted OP or one from a wrong page gets STATUS 1. -/
  | kilnBadOp (page : Nat)
  /-- LOAD_CODE_OBJECT (R119): The loader checks, places and relocates a code object. -/
  | loadCodeObject (request : LoadRequest)
  /-- HOST_MEMORY_READ (R460): A host read through the memory window. -/
  | hostMemoryRead (part : Nat) (addr : Nat) (size : Nat)
  /-- HOST_MEMORY_WRITE (R460): A host write through the memory window. -/
  | hostMemoryWrite (part : Nat) (addr : Nat) (data : List Byte)
  /-- REGISTER_WRITE (R460): A host write to a register window location with no behaviour of its own. -/
  | registerWrite (offset : Nat) (data : List Byte)
  /-- POWER_LIMIT_SET (R462): A write of POWERCTL LIMIT and CAP. -/
  | powerLimitSet (value : Word)
  /-- WARM_RESET (R471): Writing POWERCTL.RST runs the reset sequence. -/
  | warmReset
  /-- COLD_RESET (R471): Power on runs the reset sequence. -/
  | coldReset
  /-- DEVSET_LOCK (R462): Writing DEVSET.LOCK fixes DEVID and enables the ports. -/
  | devsetLock (value : Word)
  /-- ISO_WRITE (R469): Writing a valid ISO entry isolates a device. -/
  | isoWrite (entry : Nat) (value : Word)
  /-- COLLECTIVE_SLOT_CONSUME (R465): The engine acquires a ready collective slot and advances TAKEN. -/
  | collectiveSlotConsume (part : Nat)
  /-- COLLECTIVE_COMPLETE (R466): All contributions have arrived and DST and CNT are written. -/
  | collectiveComplete (index : Nat)
  /-- COLLECTIVE_TIMEOUT (R467): A collective missing a contribution after 2 s aborts. -/
  | collectiveTimeout (index : Nat)
  /-- REMOTE_REQUEST (R324): A remote access is performed at its home device. -/
  | remoteRequest (index : Nat)
  /-- REMOTE_ACK (R325): A remote write's acknowledgement reaches the issuer. -/
  | remoteAck (index : Nat)
  /-- FLIT_RECEIVE (R464): A fabric flit arrives and is checked or retransmitted. -/
  | flitReceive (port : Nat) (good : Bool)
  /-- PORT_SILENCE_TIMEOUT (R464): A port with no flit for 10 ms goes down. -/
  | portSilenceTimeout (port : Nat)
  /-- IDLE_FLIT_TIMER (R464): An idle port sends a flit every 1 ms. -/
  | idleFlitTimer (port : Nat)
  /-- POWER_ESTIMATE_WINDOW (R472): The 1 ms power estimate enters or leaves CAPPED. -/
  | powerEstimateWindow (watts : Nat)
  /-- IDLE_TIMEOUT (R472): No slot occupied for 36,000 clocks enters IDLE. -/
  | idleTimeout
  /-- THERMAL_ALARM (R472): A junction above 100 °C enters THERMAL and throttles matrix units. -/
  | thermalAlarm
  /-- THERMAL_TRIP (R472): A junction at 110 °C puts the device in reset. -/
  | thermalTrip
  /-- ILLEGAL_INSTRUCTION_WORD (R83): A fetched word with an unassigned major or function code, or a nonzero zero-field, traps ILLEGAL band-uniformly. -/
  | illegalInstructionWord (w : Word)
  /-- ARITHMETIC_CLOCK (R441): Each clock the slot wait counts rise, pipes are released, static power weight 15 is charged and the cluster clock count advances. -/
  | arithmeticClock
  /-- MZERO_MFMT_RETIRE (R231): An MZERO or MFMT finishes its 8 clocks per tile on the matrix unit and retires. -/
  | mzeroMfmtRetire (quad : Nat)
  /-- THERMAL_STATE_END (R472): The junction temperature falls back and POWERCTL.STATE leaves THERMAL, restoring matrix units and admitted bounds. -/
  | thermalStateEnd
  /-- PORT_UP (R462): A fabric port comes up with its partner, setting its PORTST bit and notifying the host on vector 2. -/
  | portUp (port : Nat)
  deriving DecidableEq, Repr

end Sys2Proof
end

