-- ==== Sys2Proof/WellFormed.lean ====
section
/-!
DEFINITION. The limits that an instruction word meets by itself (R78, R83): what the word alone decides, before
any state is read. The limits that need the register allocation or MR stand with the meanings. A step without
a word is well formed when its operands name units the part has (R1).
-/
namespace Sys2Proof

/-- The register pairs read and written as LO and HI (R32, R33). -/
inductive PairReg where
  | energy | clock | thb | thl | tho | rwpc | tpc
  deriving DecidableEq, Repr

/-- The system registers of R32. -/
inductive SysReg where
  | caps (k : Fin 8)
  | lo (p : PairReg)
  | hi (p : PairReg)
  | lnchid | slotid | level
  | rwset (k : Fin 4)
  | rwstat | repst
  | frec (k : Fin 32)
  | olog (k : Fin 64)
  | tmr | tcause
  | tmask (k : Fin 3)
  deriving DecidableEq, Repr

/-- The register that a 12-bit number names, none for an unassigned number (R32). -/
def sysReg? (n : BitVec 12) : Option SysReg :=
  let i := n.toNat
  if i ≤ 0x007 then some (.caps (Fin.ofNat 8 i))
  else if i = 0x010 then some (.lo .energy) else if i = 0x011 then some (.hi .energy)
  else if i = 0x018 then some (.lo .clock) else if i = 0x019 then some (.hi .clock)
  else if i = 0x020 then some (.lo .thb) else if i = 0x021 then some (.hi .thb)
  else if i = 0x022 then some (.lo .thl) else if i = 0x023 then some (.hi .thl)
  else if i = 0x024 then some (.lo .tho) else if i = 0x025 then some (.hi .tho)
  else if i = 0x030 then some .lnchid else if i = 0x031 then some .slotid
  else if i = 0x032 then some .level
  else if i = 0x040 then some (.lo .rwpc) else if i = 0x041 then some (.hi .rwpc)
  else if 0x042 ≤ i ∧ i ≤ 0x045 then some (.rwset (Fin.ofNat 4 (i - 0x042)))
  else if i = 0x046 then some .rwstat else if i = 0x050 then some .repst
  else if 0x060 ≤ i ∧ i ≤ 0x07F then some (.frec (Fin.ofNat 32 (i - 0x060)))
  else if 0x080 ≤ i ∧ i ≤ 0x0BF then some (.olog (Fin.ofNat 64 (i - 0x080)))
  else if i = 0x0C0 then some (.lo .tpc) else if i = 0x0C1 then some (.hi .tpc)
  else if i = 0x0C2 then some .tmr else if i = 0x0C3 then some .tcause
  else if 0x0C4 ≤ i ∧ i ≤ 0x0C6 then some (.tmask (Fin.ofNat 3 (i - 0x0C4)))
  else none

/-- Access RO of R32: a write traps ILLEGAL in any mode. -/
def SysReg.readOnly : SysReg → Bool
  | .caps _ | .lo .clock | .hi .clock | .lnchid | .slotid | .level | .lo .rwpc | .hi .rwpc
  | .rwset _ | .rwstat | .repst => true
  | .lo .energy | .hi .energy | .lo .thb | .hi .thb | .lo .thl | .hi .thl | .lo .tho | .hi .tho
  | .lo .tpc | .hi .tpc | .frec _ | .olog _ | .tmr | .tcause | .tmask _ => false

/-- Access Priv for reads (R32). -/
def SysReg.privRead : SysReg → Bool
  | .frec _ | .olog _ | .lo .tpc | .hi .tpc | .tmr | .tcause | .tmask _ => true
  | .caps _ | .lo .clock | .hi .clock | .lnchid | .slotid | .level | .lo .rwpc | .hi .rwpc
  | .rwset _ | .rwstat | .repst
  | .lo .energy | .hi .energy | .lo .thb | .hi .thb | .lo .thl | .hi .thl | .lo .tho | .hi .tho => false

namespace WellFormed

/-- An even scalar register (R22, R78). -/
def even (r : SReg) : Bool := decide (r.val % 2 = 0)
/-- A command id: 63 is illegal outside MWAIT and MQUERY (R78, R225). -/
def command (i : Fin 64) : Bool := decide (i.val < 63)
/-- A matrix record of `len` registers does not pass s63 (R225). -/
def record (r : SReg) (len : Nat) : Bool := decide (r.val + len ≤ 64)
def isSlot (n : Nat) : Bool := decide (n < Config.slots)
def isQuad (n : Nat) : Bool := decide (n < Config.quadrants)
def isCore (n : Nat) : Bool := decide (n < Config.cores)
def isCluster (n : Nat) : Bool := decide (n < Config.clusters)
/-- Partition numbers are 1 to 127 (R430). -/
def isPart (n : Nat) : Bool := decide (1 ≤ n) && decide (n < 128)

end WellFormed

open WellFormed in
/-- The word-level limits of R78, R79, R83 and of the forms' own decode checks: register parity (R78, R185),
numbers (R138, R140), names of an rwp (R144), un with the integer compares (R178), source types (R168), the
companion of vcvtef (R169), masks (R82's table, R219, R220), records (R225), launch, dsp and qput (R253). -/
def Instr.wf : Instr → Bool
  | .mfsr _ n =>
    (sysReg? n).isSome
  | .mtsr _ n =>
    match sysReg? n with | some r => !r.readOnly | none => false
  | .rwp a n =>
    decide (n.val ≤ 16) && (decide (n.val ≠ 0) || decide (a.val = 0)) && decide (a.val + (n.val + 3) / 4 ≤ 64)
  | .caps _ n =>
    decide (n.toNat < 256)
  | .vcmp c _ _ _ _
  | .vcmpn c _ _ _ _ =>
    !decide (c = .un)
  | .vcvt _ _ t
  | .vcvti _ _ t
  | .vcvtf _ _ t =>
    decide (t.val ≤ 10)
  | .vcvtef d _ b =>
    decide (d ≠ b)
  | .ldb _ _ a _
  | .ldbs _ _ a _
  | .ldh _ _ a _
  | .ldhs _ _ a _
  | .ldw _ _ a _
  | .ldx _ _ a _
  | .ldwAcq _ _ a _
  | .stb _ _ a _
  | .sth _ _ a _
  | .stw _ _ a _
  | .lds _ _ a _
  | .ldsAcq _ _ a _
  | .sts _ _ a _ =>
    even a
  | .ldd _ v a _
  | .lddAcq _ v a _
  | .std _ v a _ =>
    decide (v.val % 2 = 0) && even a
  | .ldq _ v a _
  | .stq _ v a _ =>
    decide (v.val % 4 = 0) && even a
  | .stx v a _ =>
    decide (v.val < 127) && even a
  | .fla _ d _ =>
    even d
  | .spat a _ =>
    even a
  | .aadd _ v a _
  | .amin _ v a _
  | .amax _ v a _
  | .aminn _ v a _
  | .amaxn _ v a _
  | .aand _ v a _
  | .aor _ v a _
  | .axor _ v a _
  | .axchg _ v a _
  | .ainc _ v a _
  | .afadd _ v a _
  | .aaddNr _ v a _
  | .aminNr _ v a _
  | .amaxNr _ v a _
  | .aminnNr _ v a _
  | .amaxnNr _ v a _
  | .aandNr _ v a _
  | .aorNr _ v a _
  | .axorNr _ v a _
  | .axchgNr _ v a _
  | .aincNr _ v a _
  | .afaddNr _ v a _ =>
    decide (v.val < 127) && even a
  | .acas _ v a _
  | .acasNr _ v a _ =>
    decide (v.val < 126) && even a
  | .cpy4 d a c
  | .cpy8 d a c
  | .cpy16 d a c =>
    even d && even a && even c
  | .cpt _ a c =>
    even a && even c
  | .cpz r c =>
    even r && even c
  | .cntadd c _ =>
    even c
  | .cntw c g =>
    even c && even g
  | .cntrd d c =>
    even d && even c
  | .tdef a
  | .cbdef _ a =>
    even a
  | .fence _ k =>
    !decide (k = 0)
  | .pfence u d =>
    !decide (u = 0) && !decide (d = 0)
  | .swrel w _
  | .swacq w _ =>
    even w
  | .mfmt i _ _ r =>
    command i && record r 1
  | .mzero i _ _ r =>
    command i && record r 1
  | .wld i _ _ r =>
    command i && even r && record r 8
  | .mloop i _ _ r =>
    command i && record r 7
  | .mld i _ _ r =>
    command i && even r && record r 4
  | .mst i _ _ r =>
    command i && even r && record r 5
  | .mquery _ d =>
    decide (d.val < 63)
  | .launch _ r =>
    even r && decide (r.val ≤ 56)
  | .dsp d _ =>
    even d
  | .qput t _ =>
    decide (t.val < 63)
  | .gbarUnblock slot path
  | .cntwWake slot path
  | .cbwaitWake slot path
  | .swacqWake slot path
  | .lwaitWake slot path
  | .mwaitWake slot path
  | .tcommitWake slot path
  | .trelWake slot path
  | .tstAonOpenWake slot path
  | .tstAonCloseWake slot path
  | .tldVerWake slot path
  | .tileStoreWake slot path
  | .launchWaitWake slot path
  | .qputWaitWake slot path
  | .mtxPostWake slot path
  | .gbindAnswer slot path
  | .gstopWaitWake slot path =>
    isSlot slot && decide (path < 8)
  | .regroupTimeout slot
  | .preemptAtBoundary slot
  | .boundarySave slot
  | .resultRedirect slot
  | .saveComplete slot
  | .restoreComplete slot
  | .deadlineWorkExpiry slot =>
    isSlot slot
  | .bindStart slot _
  | .bindRestore slot _
  | .bindPreempt slot _
  | .bindInvalid slot _ =>
    isSlot slot
  | .fusionComplete keep absorbed =>
    isSlot keep && isSlot absorbed
  | .resultArrival slot entry =>
    isSlot slot && decide (entry < 8)
  | .logReplay slot entry =>
    isSlot slot && decide (entry < 4)
  | .tornBracketClose core tile =>
    isCore core && decide (tile < 1024)
  | .matrixCommandIssue quad _
  | .matrixOperandAbandon quad _ =>
    isQuad quad
  | .mloopStep quad
  | .wldImage quad
  | .mstRow quad
  | .mldTransfer quad
  | .mzeroMfmtRetire quad =>
    isQuad quad
  | .atomicRequestAccept cluster =>
    isCluster cluster
  | .hotStoreFill cluster _ =>
    isCluster cluster
  | .pageWalkFill cluster walk =>
    isCluster cluster && decide (walk < 16)
  | .cacheLineExpiry core _
  | .remoteLineExpiry core _ =>
    isCore core
  | .bandwidthWindow channel =>
    decide (channel < 256)
  | .leaseBoundary die =>
    decide (die < 2)
  | .faultRecordWrite part
  | .createInitDone part
  | .collectiveSlotConsume part =>
    isPart part
  | .launchQueueDoorbell part queue _
  | .queueRecordSkip part queue
  | .queueRecordLaunch part queue
  | .queueRecordTemplate part queue
  | .queueRecordTaskQueue part queue =>
    isPart part && decide (queue < 32)
  | .taskDispatch part queue =>
    isPart part && decide (queue < 64)
  | .drainReport core _ =>
    isCore core
  | .graphFiringStart part _ =>
    isPart part
  | .graphFiringEnd part _ stage
  | .graphAllowExpiry part _ stage =>
    isPart part && decide (stage < 32)
  | .faultDoorbellReplay part _
  | .faultDoorbellDeliver part _
  | .faultDoorbellKill part _
  | .faultDoorbellIgnore part _ =>
    decide (part < 128)
  | .create page _
  | .destroy page
  | .update page
  | .shootdown page
  | .propose page
  | .accept page _
  | .close page
  | .attest page
  | .life page
  | .kilnBadOp page =>
    decide (page < 128)
  | .loadCodeObject request =>
    isPart request.part
  | .hostMemoryRead part _ _
  | .hostMemoryWrite part _ _ =>
    decide (part < 128)
  | .registerWrite offset _ =>
    decide (offset < 2 ^ 21)
  | .isoWrite entry _ =>
    decide (entry < 64)
  | .flitReceive port _
  | .portSilenceTimeout port
  | .idleFlitTimer port
  | .portUp port =>
    decide (port < 24)
  | .nop
  | .trap _
  | .tret
  | .mode _
  | .modei _ _
  | .fmtset _ _
  | .fmtget _ _
  | .brk _
  | .br _
  | .bz _ _
  | .bnz _ _
  | .bneg _ _
  | .bnneg _ _
  | .call _
  | .pbr _ _ _
  | .jr _
  | .jl _
  | .ret
  | .add _ _ _
  | .sub _ _ _
  | .mul24 _ _ _
  | .mul _ _ _
  | .mulh _ _ _
  | .mulhn _ _ _
  | .and _ _ _
  | .or _ _ _
  | .xor _ _ _
  | .andn _ _ _
  | .orn _ _ _
  | .sll _ _ _
  | .srl _ _ _
  | .sra _ _ _
  | .rol _ _ _
  | .ror _ _ _
  | .min _ _ _
  | .max _ _ _
  | .minn _ _ _
  | .maxn _ _ _
  | .slt _ _ _
  | .sltn _ _ _
  | .eq _ _ _
  | .popc _ _
  | .clz _ _
  | .ctz _ _
  | .brev _ _
  | .bswap _ _
  | .sxb _ _
  | .sxh _ _
  | .zxb _ _
  | .zxh _ _
  | .addi _ _ _
  | .andi _ _ _
  | .ori _ _ _
  | .xori _ _ _
  | .slti _ _ _
  | .sltni _ _ _
  | .slli _ _ _
  | .srli _ _ _
  | .srai _ _ _
  | .rori _ _ _
  | .muli _ _ _
  | .sli _ _
  | .slu _ _
  | .join _
  | .leave
  | .gbar
  | .regroup
  | .rcv
  | .voteAny _ _
  | .voteAll _ _
  | .voteCnt _ _
  | .voteBal _ _
  | .lid _
  | .tid _
  | .bid _
  | .vadd _ _ _
  | .vsub _ _ _
  | .vmul24 _ _ _
  | .vmul32 _ _ _
  | .vmulh32 _ _ _
  | .vmulhn32 _ _ _
  | .vand _ _ _
  | .vor _ _ _
  | .vxor _ _ _
  | .vandn _ _ _
  | .vsll _ _ _
  | .vsrl _ _ _
  | .vsra _ _ _
  | .vrol _ _ _
  | .vmin _ _ _
  | .vmax _ _ _
  | .vabsd _ _ _
  | .vpopc _ _
  | .vclz _ _
  | .vctz _ _
  | .vbrev _ _
  | .vsel _ _ _
  | .vmov _ _
  | .vaddi _ _ _
  | .vmuli24 _ _ _
  | .vandi _ _ _
  | .vori _ _ _
  | .vxori _ _ _
  | .vslli _ _ _
  | .vsrli _ _ _
  | .vsrai _ _ _
  | .vmini _ _ _
  | .vmaxi _ _ _
  | .vmovi _ _
  | .vfadd _ _ _
  | .vfsub _ _ _
  | .vfmul _ _ _
  | .vfma _ _ _
  | .vfms _ _ _
  | .vfnma _ _ _
  | .vfmin _ _ _
  | .vfmax _ _ _
  | .vfabs _ _
  | .vfneg _ _
  | .vfcpys _ _ _
  | .vfclass _ _
  | .vfrnd _ _
  | .vrcp _ _ _
  | .vrsq _ _ _
  | .vsqrt _ _ _
  | .vdiv _ _ _
  | .vexp2 _ _ _
  | .vlog2 _ _ _
  | .vsin _ _ _
  | .vcos _ _ _
  | .vtanh _ _ _
  | .vpk _ _ _
  | .vupk _ _ _
  | .vscale _ _ _
  | .vbs _ _
  | .vrd _ _ _
  | .vwr _ _ _
  | .vshfl _ _ _
  | .vshfx _ _ _
  | .vrot _ _ _
  | .vredadd _ _
  | .vredmin _ _
  | .vredmax _ _
  | .vredminx _ _ _
  | .vredmaxx _ _ _
  | .vscan _ _
  | .vredand _ _
  | .vredor _ _
  | .vredxor _ _
  | .vfcmp _ _ _ _ _
  | .vfcmpn _ _ _ _ _
  | .fld _ _ _ _
  | .fst _ _ _ _
  | .sld _ _ _
  | .sst _ _
  | .sreset _
  | .tfill _
  | .tcommit _
  | .tdrain _
  | .trel _
  | .tstate _ _
  | .tstAon _ _
  | .tldVer _ _ _
  | .cbpush _ _
  | .cbpop _ _
  | .cbwait _ _ _
  | .cbpeek _ _ _
  | .mwait _
  | .lwait _ _
  | .exit
  | .gbind _ _ _
  | .gstart _
  | .gstop _ _
  | .grebind _ _ _
  | .rep _ _
  | .limm _
  | .copyLineOperation _
  | .tileCopyLine _
  | .czPack _
  | .czExpandCheck _
  | .czExpandLine _ _
  | .eccReadRetry _
  | .launchCompletion _
  | .shootdownAck _
  | .powerLimitSet _
  | .warmReset
  | .coldReset
  | .devsetLock _
  | .collectiveComplete _
  | .collectiveTimeout _
  | .remoteRequest _
  | .remoteAck _
  | .powerEstimateWindow _
  | .idleTimeout
  | .thermalAlarm
  | .thermalTrip
  | .illegalInstructionWord _
  | .arithmeticClock
  | .thermalStateEnd => true

end Sys2Proof
end

