-- ==== Sys2Proof/Decode.lean ====
section
/-!
DEFINITION. Decoding and encoding of the 32-bit instruction words (03_encoding.md). Decoding is total: a word
that is no instruction is rejected by a name that says which limit it breaks, and the machine then traps ILLEGAL
(R83). Major opcode first, then the function code of the format (R76, R80, R81), then the bits that must be zero
(R77), then the coded fields (R79), then the limits of the word (`Instr.wf`, R78).
-/
namespace Sys2Proof

/-- Why a word is no instruction (R83). -/
inductive Reject where
  /-- Bits [31:27] name no major opcode (R75, R80). -/
  | major
  /-- The function code is not listed for its major (R81). -/
  | function
  /-- A bit that must be zero is one (R77). -/
  | zeroField
  /-- Scope 7, or a scope without REL (R79). -/
  | scope
  /-- Condition 7 (R79). -/
  | condition
  /-- A combination above 3 (R79). -/
  | combination
  /-- A limit of a field (R78). -/
  | limit
  /-- Fewer bytes than one word. -/
  | short
  deriving DecidableEq, Repr

namespace Decode

/-- Bits [hi:lo] of a word. -/
def bits (w hi lo : Nat) : Nat := w / 2 ^ lo % 2 ^ (hi + 1 - lo)

/-- A register field whose lowest bit is `lo`, of as many bits as `n` needs (a power of two). -/
def reg (n : Nat) [NeZero n] (w lo : Nat) : Fin n := Fin.ofNat n (w / 2 ^ lo)

/-- An immediate of `n` bits whose lowest bit is `lo`. -/
def imm (n w lo : Nat) : BitVec n := BitVec.ofNat n (w / 2 ^ lo)

/-- One bit. -/
def flag (w lo : Nat) : Bool := decide (w / 2 ^ lo % 2 = 1)

/-- The instruction, if each of the listed fields is zero (R77). -/
def zeros (w : Nat) : List (Nat × Nat) → Instr → Except Reject Instr
  | [], i => .ok i
  | (hi, lo) :: t, i => if bits w hi lo = 0 then zeros w t i else .error .zeroField

end Decode

/-- The encoding of scopes (R79). -/
def Scope.code : Scope → Nat
  | .thread => 0 | .band => 1 | .gang => 2 | .core => 3 | .cluster => 4 | .device => 5 | .fabric => 6

def Scope.ofCode : Nat → Option Scope
  | 0 => some .thread | 1 => some .band | 2 => some .gang | 3 => some .core | 4 => some .cluster
  | 5 => some .device | 6 => some .fabric | _ => none

/-- The encoding of conditions (R79). -/
def CC.code : CC → Nat
  | .eq => 0 | .ne => 1 | .lt => 2 | .le => 3 | .gt => 4 | .ge => 5 | .un => 6

def CC.ofCode : Nat → Option CC
  | 0 => some .eq | 1 => some .ne | 2 => some .lt | 3 => some .le | 4 => some .gt | 5 => some .ge
  | 6 => some .un | _ => none

/-- The encoding of combinations (R79). -/
def Comb.code : Comb → Nat
  | .set => 0 | .and => 1 | .or => 2 | .xor => 3

def Comb.ofCode : Nat → Option Comb
  | 0 => some .set | 1 => some .and | 2 => some .or | 3 => some .xor | _ => none

/-- REL at bit 3 and the scope below it: REL = 0 requires scope = 0 (R79). -/
def relBits : Option Scope → Nat
  | none => 0
  | some c => 8 + c.code

namespace Decode

def onScope (n : Nat) (k : Scope → Except Reject Instr) : Except Reject Instr :=
  match Scope.ofCode n with | some c => k c | none => .error .scope

def onCC (n : Nat) (k : CC → Except Reject Instr) : Except Reject Instr :=
  match CC.ofCode n with | some c => k c | none => .error .condition

def onComb (n : Nat) (k : Comb → Except Reject Instr) : Except Reject Instr :=
  match Comb.ofCode n with | some c => k c | none => .error .combination

/-- The REL bit [26] and the scope [25:23] of a store (R79). -/
def onRel (w : Nat) (k : Option Scope → Except Reject Instr) : Except Reject Instr :=
  if bits w 26 26 = 1 then onScope (bits w 25 23) fun c => k (some c)
  else if bits w 25 23 = 0 then k none
  else .error .scope

/-- R81 SYS. -/
def wordSysPlain (w : Nat) : Except Reject Instr :=
  match bits w 26 18 with
  | 0x000 => zeros w [(17, 0)] .nop
  | 0x001 => zeros w [(17, 12)] (.trap (imm 12 w 0))
  | 0x002 => zeros w [(17, 0)] .tret
  | 0x003 => zeros w [(17, 12), (5, 0)] (.mode (reg 64 w 6))
  | 0x004 => .ok (.modei (imm 11 w 7) (imm 7 w 0))
  | 0x005 => zeros w [(17, 16), (5, 0)] (.fmtset (reg 16 w 12) (reg 64 w 6))
  | 0x006 => zeros w [(11, 10), (5, 0)] (.fmtget (reg 64 w 12) (reg 16 w 6))
  | 0x007 => .ok (.mfsr (reg 64 w 12) (imm 12 w 0))
  | 0x008 => .ok (.mtsr (reg 64 w 12) (imm 12 w 0))
  | 0x009 => zeros w [(17, 12)] (.rwp (reg 64 w 6) (reg 64 w 0))
  | 0x00B => .ok (.caps (reg 64 w 12) (imm 12 w 0))
  | _ => .error .function

/-- R81 BR. -/
def wordBrRegister (w : Nat) : Except Reject Instr :=
  match bits w 17 15 with
  | 0 => zeros w [(14, 0)] (.jr (reg 64 w 18))
  | 1 => zeros w [(14, 0)] (.jl (reg 64 w 18))
  | 2 => zeros w [(23, 18), (14, 0)] .ret
  | _ => .error .function

/-- R81 BR. -/
def wordBr (w : Nat) : Except Reject Instr :=
  match bits w 26 24 with
  | 0 => zeros w [(23, 18)] (.br (imm 18 w 0))
  | 1 => .ok (.bz (reg 64 w 18) (imm 18 w 0))
  | 2 => .ok (.bnz (reg 64 w 18) (imm 18 w 0))
  | 3 => .ok (.bneg (reg 64 w 18) (imm 18 w 0))
  | 4 => .ok (.bnneg (reg 64 w 18) (imm 18 w 0))
  | 5 => zeros w [(23, 18)] (.call (imm 18 w 0))
  | 6 => zeros w [(23, 22)] (.pbr (flag w 21) (reg 8 w 18) (imm 18 w 0))
  | 7 => wordBrRegister w
  | _ => .error .function

/-- R81 SALU. -/
def wordSalu (w : Nat) : Except Reject Instr :=
  match bits w 26 18 with
  | 0x000 => .ok (.add (reg 64 w 12) (reg 64 w 6) (reg 64 w 0))
  | 0x001 => .ok (.sub (reg 64 w 12) (reg 64 w 6) (reg 64 w 0))
  | 0x002 => .ok (.mul24 (reg 64 w 12) (reg 64 w 6) (reg 64 w 0))
  | 0x003 => .ok (.mul (reg 64 w 12) (reg 64 w 6) (reg 64 w 0))
  | 0x004 => .ok (.mulh (reg 64 w 12) (reg 64 w 6) (reg 64 w 0))
  | 0x005 => .ok (.mulhn (reg 64 w 12) (reg 64 w 6) (reg 64 w 0))
  | 0x008 => .ok (.and (reg 64 w 12) (reg 64 w 6) (reg 64 w 0))
  | 0x009 => .ok (.or (reg 64 w 12) (reg 64 w 6) (reg 64 w 0))
  | 0x00A => .ok (.xor (reg 64 w 12) (reg 64 w 6) (reg 64 w 0))
  | 0x00B => .ok (.andn (reg 64 w 12) (reg 64 w 6) (reg 64 w 0))
  | 0x00C => .ok (.orn (reg 64 w 12) (reg 64 w 6) (reg 64 w 0))
  | 0x010 => .ok (.sll (reg 64 w 12) (reg 64 w 6) (reg 64 w 0))
  | 0x011 => .ok (.srl (reg 64 w 12) (reg 64 w 6) (reg 64 w 0))
  | 0x012 => .ok (.sra (reg 64 w 12) (reg 64 w 6) (reg 64 w 0))
  | 0x013 => .ok (.rol (reg 64 w 12) (reg 64 w 6) (reg 64 w 0))
  | 0x014 => .ok (.ror (reg 64 w 12) (reg 64 w 6) (reg 64 w 0))
  | 0x018 => .ok (.min (reg 64 w 12) (reg 64 w 6) (reg 64 w 0))
  | 0x019 => .ok (.max (reg 64 w 12) (reg 64 w 6) (reg 64 w 0))
  | 0x01A => .ok (.minn (reg 64 w 12) (reg 64 w 6) (reg 64 w 0))
  | 0x01B => .ok (.maxn (reg 64 w 12) (reg 64 w 6) (reg 64 w 0))
  | 0x020 => .ok (.slt (reg 64 w 12) (reg 64 w 6) (reg 64 w 0))
  | 0x021 => .ok (.sltn (reg 64 w 12) (reg 64 w 6) (reg 64 w 0))
  | 0x022 => .ok (.eq (reg 64 w 12) (reg 64 w 6) (reg 64 w 0))
  | 0x028 => zeros w [(5, 0)] (.popc (reg 64 w 12) (reg 64 w 6))
  | 0x029 => zeros w [(5, 0)] (.clz (reg 64 w 12) (reg 64 w 6))
  | 0x02A => zeros w [(5, 0)] (.ctz (reg 64 w 12) (reg 64 w 6))
  | 0x02B => zeros w [(5, 0)] (.brev (reg 64 w 12) (reg 64 w 6))
  | 0x02C => zeros w [(5, 0)] (.bswap (reg 64 w 12) (reg 64 w 6))
  | 0x030 => zeros w [(5, 0)] (.sxb (reg 64 w 12) (reg 64 w 6))
  | 0x031 => zeros w [(5, 0)] (.sxh (reg 64 w 12) (reg 64 w 6))
  | 0x032 => zeros w [(5, 0)] (.zxb (reg 64 w 12) (reg 64 w 6))
  | 0x033 => zeros w [(5, 0)] (.zxh (reg 64 w 12) (reg 64 w 6))
  | _ => .error .function

/-- R81 SALUI. -/
def wordSaluiShift (w : Nat) : Except Reject Instr :=
  match bits w 11 10 with
  | 0 => zeros w [(9, 5)] (.slli (reg 64 w 18) (reg 64 w 12) (imm 5 w 0))
  | 1 => zeros w [(9, 5)] (.srli (reg 64 w 18) (reg 64 w 12) (imm 5 w 0))
  | 2 => zeros w [(9, 5)] (.srai (reg 64 w 18) (reg 64 w 12) (imm 5 w 0))
  | 3 => zeros w [(9, 5)] (.rori (reg 64 w 18) (reg 64 w 12) (imm 5 w 0))
  | _ => .error .function

/-- R81 SALUI. -/
def wordSalui (w : Nat) : Except Reject Instr :=
  match bits w 26 24 with
  | 0 => .ok (.addi (reg 64 w 18) (reg 64 w 12) (imm 12 w 0))
  | 1 => .ok (.andi (reg 64 w 18) (reg 64 w 12) (imm 12 w 0))
  | 2 => .ok (.ori (reg 64 w 18) (reg 64 w 12) (imm 12 w 0))
  | 3 => .ok (.xori (reg 64 w 18) (reg 64 w 12) (imm 12 w 0))
  | 4 => .ok (.slti (reg 64 w 18) (reg 64 w 12) (imm 12 w 0))
  | 5 => .ok (.sltni (reg 64 w 18) (reg 64 w 12) (imm 12 w 0))
  | 6 => wordSaluiShift w
  | 7 => .ok (.muli (reg 64 w 18) (reg 64 w 12) (imm 12 w 0))
  | _ => .error .function

/-- R81 SLI. -/
def wordSli (w : Nat) : Except Reject Instr :=
  match bits w 20 20 with
  | 0 => .ok (.sli (reg 64 w 21) (imm 20 w 0))
  | 1 => .ok (.slu (reg 64 w 21) (imm 20 w 0))
  | _ => .error .function

/-- R81 BAND. -/
def wordBand (w : Nat) : Except Reject Instr :=
  match bits w 26 18 with
  | 0x000 => zeros w [(17, 12), (5, 0)] (.join (reg 64 w 6))
  | 0x001 => zeros w [(17, 0)] .leave
  | 0x002 => zeros w [(17, 0)] .gbar
  | 0x003 => zeros w [(17, 0)] .regroup
  | 0x004 => zeros w [(17, 0)] .rcv
  | 0x008 => zeros w [(11, 9), (5, 0)] (.voteAny (reg 64 w 12) (reg 8 w 6))
  | 0x009 => zeros w [(11, 9), (5, 0)] (.voteAll (reg 64 w 12) (reg 8 w 6))
  | 0x00A => zeros w [(11, 9), (5, 0)] (.voteCnt (reg 64 w 12) (reg 8 w 6))
  | 0x00B => zeros w [(17, 15), (11, 9), (5, 0)] (.voteBal (reg 8 w 12) (reg 8 w 6))
  | 0x010 => zeros w [(10, 0)] (.lid (reg 128 w 11))
  | 0x011 => zeros w [(10, 0)] (.tid (reg 128 w 11))
  | 0x012 => zeros w [(11, 0)] (.bid (reg 64 w 12))
  | _ => .error .function

/-- R81 VALU. -/
def wordValu (w : Nat) : Except Reject Instr :=
  match bits w 26 21 with
  | 0 => .ok (.vadd (reg 128 w 14) (reg 128 w 7) (reg 128 w 0))
  | 1 => .ok (.vsub (reg 128 w 14) (reg 128 w 7) (reg 128 w 0))
  | 2 => .ok (.vmul24 (reg 128 w 14) (reg 128 w 7) (reg 128 w 0))
  | 3 => .ok (.vmul32 (reg 128 w 14) (reg 128 w 7) (reg 128 w 0))
  | 4 => .ok (.vmulh32 (reg 128 w 14) (reg 128 w 7) (reg 128 w 0))
  | 5 => .ok (.vmulhn32 (reg 128 w 14) (reg 128 w 7) (reg 128 w 0))
  | 8 => .ok (.vand (reg 128 w 14) (reg 128 w 7) (reg 128 w 0))
  | 9 => .ok (.vor (reg 128 w 14) (reg 128 w 7) (reg 128 w 0))
  | 10 => .ok (.vxor (reg 128 w 14) (reg 128 w 7) (reg 128 w 0))
  | 11 => .ok (.vandn (reg 128 w 14) (reg 128 w 7) (reg 128 w 0))
  | 16 => .ok (.vsll (reg 128 w 14) (reg 128 w 7) (reg 128 w 0))
  | 17 => .ok (.vsrl (reg 128 w 14) (reg 128 w 7) (reg 128 w 0))
  | 18 => .ok (.vsra (reg 128 w 14) (reg 128 w 7) (reg 128 w 0))
  | 19 => .ok (.vrol (reg 128 w 14) (reg 128 w 7) (reg 128 w 0))
  | 24 => .ok (.vmin (reg 128 w 14) (reg 128 w 7) (reg 128 w 0))
  | 25 => .ok (.vmax (reg 128 w 14) (reg 128 w 7) (reg 128 w 0))
  | 26 => .ok (.vabsd (reg 128 w 14) (reg 128 w 7) (reg 128 w 0))
  | 32 => zeros w [(6, 0)] (.vpopc (reg 128 w 14) (reg 128 w 7))
  | 33 => zeros w [(6, 0)] (.vclz (reg 128 w 14) (reg 128 w 7))
  | 34 => zeros w [(6, 0)] (.vctz (reg 128 w 14) (reg 128 w 7))
  | 35 => zeros w [(6, 0)] (.vbrev (reg 128 w 14) (reg 128 w 7))
  | 40 => .ok (.vsel (reg 128 w 14) (reg 128 w 7) (reg 128 w 0))
  | 41 => zeros w [(6, 0)] (.vmov (reg 128 w 14) (reg 128 w 7))
  | _ => .error .function

/-- R81 VALUI. -/
def wordValui (w : Nat) : Except Reject Instr :=
  match bits w 26 23 with
  | 0 => .ok (.vaddi (reg 128 w 16) (reg 128 w 9) (imm 9 w 0))
  | 1 => .ok (.vmuli24 (reg 128 w 16) (reg 128 w 9) (imm 9 w 0))
  | 2 => .ok (.vandi (reg 128 w 16) (reg 128 w 9) (imm 9 w 0))
  | 3 => .ok (.vori (reg 128 w 16) (reg 128 w 9) (imm 9 w 0))
  | 4 => .ok (.vxori (reg 128 w 16) (reg 128 w 9) (imm 9 w 0))
  | 5 => zeros w [(8, 5)] (.vslli (reg 128 w 16) (reg 128 w 9) (imm 5 w 0))
  | 6 => zeros w [(8, 5)] (.vsrli (reg 128 w 16) (reg 128 w 9) (imm 5 w 0))
  | 7 => zeros w [(8, 5)] (.vsrai (reg 128 w 16) (reg 128 w 9) (imm 5 w 0))
  | 8 => .ok (.vmini (reg 128 w 16) (reg 128 w 9) (imm 9 w 0))
  | 9 => .ok (.vmaxi (reg 128 w 16) (reg 128 w 9) (imm 9 w 0))
  | 10 => zeros w [(15, 9)] (.vmovi (reg 128 w 16) (imm 9 w 0))
  | _ => .error .function

/-- R81 VFP. -/
def wordVfp (w : Nat) : Except Reject Instr :=
  match bits w 26 21 with
  | 0 => .ok (.vfadd (reg 128 w 14) (reg 128 w 7) (reg 128 w 0))
  | 1 => .ok (.vfsub (reg 128 w 14) (reg 128 w 7) (reg 128 w 0))
  | 2 => .ok (.vfmul (reg 128 w 14) (reg 128 w 7) (reg 128 w 0))
  | 3 => .ok (.vfma (reg 128 w 14) (reg 128 w 7) (reg 128 w 0))
  | 4 => .ok (.vfms (reg 128 w 14) (reg 128 w 7) (reg 128 w 0))
  | 5 => .ok (.vfnma (reg 128 w 14) (reg 128 w 7) (reg 128 w 0))
  | 8 => .ok (.vfmin (reg 128 w 14) (reg 128 w 7) (reg 128 w 0))
  | 9 => .ok (.vfmax (reg 128 w 14) (reg 128 w 7) (reg 128 w 0))
  | 12 => zeros w [(6, 0)] (.vfabs (reg 128 w 14) (reg 128 w 7))
  | 13 => zeros w [(6, 0)] (.vfneg (reg 128 w 14) (reg 128 w 7))
  | 14 => .ok (.vfcpys (reg 128 w 14) (reg 128 w 7) (reg 128 w 0))
  | 15 => zeros w [(6, 0)] (.vfclass (reg 128 w 14) (reg 128 w 7))
  | 16 => zeros w [(6, 0)] (.vfrnd (reg 128 w 14) (reg 128 w 7))
  | _ => .error .function

/-- R81 VSF. -/
def wordVsf (w : Nat) : Except Reject Instr :=
  match bits w 22 18 with
  | 0 => zeros w [(3, 0)] (.vrcp (reg 16 w 23) (reg 128 w 11) (reg 128 w 4))
  | 1 => zeros w [(3, 0)] (.vrsq (reg 16 w 23) (reg 128 w 11) (reg 128 w 4))
  | 2 => zeros w [(3, 0)] (.vsqrt (reg 16 w 23) (reg 128 w 11) (reg 128 w 4))
  | 3 => zeros w [(3, 0)] (.vdiv (reg 16 w 23) (reg 128 w 11) (reg 128 w 4))
  | 4 => zeros w [(3, 0)] (.vexp2 (reg 16 w 23) (reg 128 w 11) (reg 128 w 4))
  | 5 => zeros w [(3, 0)] (.vlog2 (reg 16 w 23) (reg 128 w 11) (reg 128 w 4))
  | 6 => zeros w [(3, 0)] (.vsin (reg 16 w 23) (reg 128 w 11) (reg 128 w 4))
  | 7 => zeros w [(3, 0)] (.vcos (reg 16 w 23) (reg 128 w 11) (reg 128 w 4))
  | 8 => zeros w [(3, 0)] (.vtanh (reg 16 w 23) (reg 128 w 11) (reg 128 w 4))
  | _ => .error .function

/-- R81 VCVT. -/
def wordVcvt (w : Nat) : Except Reject Instr :=
  match bits w 26 21 with
  | 0 => zeros w [(6, 4)] (.vcvt (reg 128 w 14) (reg 128 w 7) (reg 16 w 0))
  | 1 => .ok (.vcvtef (reg 128 w 14) (reg 128 w 7) (reg 128 w 0))
  | 2 => zeros w [(6, 4)] (.vcvti (reg 128 w 14) (reg 128 w 7) (reg 16 w 0))
  | 3 => zeros w [(6, 4)] (.vcvtf (reg 128 w 14) (reg 128 w 7) (reg 16 w 0))
  | 4 => .ok (.vpk (reg 128 w 14) (reg 128 w 7) (reg 128 w 0))
  | 5 => zeros w [(6, 2)] (.vupk (reg 128 w 14) (reg 128 w 7) (reg 4 w 0))
  | 6 => .ok (.vscale (reg 128 w 14) (reg 128 w 7) (reg 128 w 0))
  | _ => .error .function

/-- R81 VLANE. -/
def wordVlane (w : Nat) : Except Reject Instr :=
  match bits w 26 21 with
  | 0 => zeros w [(13, 13), (6, 0)] (.vbs (reg 128 w 14) (reg 64 w 7))
  | 1 => zeros w [(20, 20), (6, 6)] (.vrd (reg 64 w 14) (reg 128 w 7) (reg 64 w 0))
  | 2 => zeros w [(13, 13), (6, 6)] (.vwr (reg 128 w 14) (reg 64 w 7) (reg 64 w 0))
  | 3 => .ok (.vshfl (reg 128 w 14) (reg 128 w 7) (reg 128 w 0))
  | 4 => .ok (.vshfx (reg 128 w 14) (reg 128 w 7) (reg 128 w 0))
  | 5 => zeros w [(6, 6)] (.vrot (reg 128 w 14) (reg 128 w 7) (reg 64 w 0))
  | 8 => zeros w [(20, 20), (6, 0)] (.vredadd (reg 64 w 14) (reg 128 w 7))
  | 9 => zeros w [(20, 20), (6, 0)] (.vredmin (reg 64 w 14) (reg 128 w 7))
  | 10 => zeros w [(20, 20), (6, 0)] (.vredmax (reg 64 w 14) (reg 128 w 7))
  | 11 => zeros w [(20, 20), (6, 6)] (.vredminx (reg 64 w 14) (reg 128 w 7) (reg 64 w 0))
  | 12 => zeros w [(20, 20), (6, 6)] (.vredmaxx (reg 64 w 14) (reg 128 w 7) (reg 64 w 0))
  | 13 => zeros w [(6, 0)] (.vscan (reg 128 w 14) (reg 128 w 7))
  | 14 => zeros w [(20, 20), (6, 0)] (.vredand (reg 64 w 14) (reg 128 w 7))
  | 15 => zeros w [(20, 20), (6, 0)] (.vredor (reg 64 w 14) (reg 128 w 7))
  | 16 => zeros w [(20, 20), (6, 0)] (.vredxor (reg 64 w 14) (reg 128 w 7))
  | _ => .error .function

/-- R79 VCMP. -/
def wordVcmp (w : Nat) : Except Reject Instr :=
  match bits w 26 24 with
  | 0 => onCC (bits w 23 21) fun c => onComb (bits w 17 14) fun m => .ok (.vcmp c (reg 8 w 18) m (reg 128 w 7) (reg 128 w 0))
  | 1 => onCC (bits w 23 21) fun c => onComb (bits w 17 14) fun m => .ok (.vcmpn c (reg 8 w 18) m (reg 128 w 7) (reg 128 w 0))
  | 2 => onCC (bits w 23 21) fun c => onComb (bits w 17 14) fun m => .ok (.vfcmp c (reg 8 w 18) m (reg 128 w 7) (reg 128 w 0))
  | 3 => onCC (bits w 23 21) fun c => onComb (bits w 17 14) fun m => .ok (.vfcmpn c (reg 8 w 18) m (reg 128 w 7) (reg 128 w 0))
  | _ => .error .function

/-- R81 LD. -/
def wordLd (w : Nat) : Except Reject Instr :=
  match bits w 22 19 with
  | 0 => .ok (.ldb (reg 16 w 23) (reg 128 w 12) (reg 64 w 6) (imm 6 w 0))
  | 1 => .ok (.ldbs (reg 16 w 23) (reg 128 w 12) (reg 64 w 6) (imm 6 w 0))
  | 2 => .ok (.ldh (reg 16 w 23) (reg 128 w 12) (reg 64 w 6) (imm 6 w 0))
  | 3 => .ok (.ldhs (reg 16 w 23) (reg 128 w 12) (reg 64 w 6) (imm 6 w 0))
  | 4 => .ok (.ldw (reg 16 w 23) (reg 128 w 12) (reg 64 w 6) (imm 6 w 0))
  | 5 => .ok (.ldd (reg 16 w 23) (reg 128 w 12) (reg 64 w 6) (imm 6 w 0))
  | 6 => .ok (.ldq (reg 16 w 23) (reg 128 w 12) (reg 64 w 6) (imm 6 w 0))
  | 7 => zeros w [(18, 18)] (.lds (reg 16 w 23) (reg 64 w 12) (reg 64 w 6) (imm 6 w 0))
  | 8 => .ok (.ldx (reg 16 w 23) (reg 128 w 12) (reg 64 w 6) (imm 6 w 0))
  | 12 => onScope (bits w 5 3) fun c => zeros w [(2, 0)] (.ldwAcq (reg 16 w 23) (reg 128 w 12) (reg 64 w 6) c)
  | 13 => onScope (bits w 5 3) fun c => zeros w [(2, 0)] (.lddAcq (reg 16 w 23) (reg 128 w 12) (reg 64 w 6) c)
  | 14 => onScope (bits w 5 3) fun c => zeros w [(18, 18), (2, 0)] (.ldsAcq (reg 16 w 23) (reg 64 w 12) (reg 64 w 6) c)
  | _ => .error .function

/-- R81 ST. -/
def wordSt (w : Nat) : Except Reject Instr :=
  match bits w 22 19 with
  | 0 => onRel w fun r => .ok (.stb r (reg 128 w 12) (reg 64 w 6) (imm 6 w 0))
  | 2 => onRel w fun r => .ok (.sth r (reg 128 w 12) (reg 64 w 6) (imm 6 w 0))
  | 4 => onRel w fun r => .ok (.stw r (reg 128 w 12) (reg 64 w 6) (imm 6 w 0))
  | 5 => onRel w fun r => .ok (.std r (reg 128 w 12) (reg 64 w 6) (imm 6 w 0))
  | 6 => onRel w fun r => .ok (.stq r (reg 128 w 12) (reg 64 w 6) (imm 6 w 0))
  | 7 => onRel w fun r => zeros w [(18, 18)] (.sts r (reg 64 w 12) (reg 64 w 6) (imm 6 w 0))
  | 8 => zeros w [(26, 23)] (.stx (reg 128 w 12) (reg 64 w 6) (imm 6 w 0))
  | _ => .error .function

/-- R81 FLD. -/
def wordFld (w : Nat) : Except Reject Instr := .ok (.fld (reg 16 w 23) (reg 8 w 20) (reg 64 w 14) (imm 14 w 0))

/-- R81 FST. -/
def wordFst (w : Nat) : Except Reject Instr := onRel w fun r => .ok (.fst r (reg 8 w 20) (reg 64 w 14) (imm 14 w 0))

/-- R81 SMEM. -/
def wordSmem (w : Nat) : Except Reject Instr :=
  match bits w 22 18 with
  | 0 => zeros w [(26, 23), (17, 10), (3, 2)] (.spat (reg 64 w 4) (reg 4 w 0))
  | 1 => zeros w [(10, 2)] (.sld (reg 16 w 23) (reg 128 w 11) (reg 4 w 0))
  | 2 => zeros w [(26, 23), (17, 11), (3, 2)] (.sst (reg 128 w 4) (reg 4 w 0))
  | 3 => zeros w [(26, 23), (17, 2)] (.sreset (reg 4 w 0))
  | _ => .error .function

/-- R81 ATOM. -/
def wordAtomReturning (w : Nat) : Except Reject Instr :=
  match bits w 22 19 with
  | 0 => .ok (.aadd (reg 16 w 23) (reg 128 w 12) (reg 64 w 6) (imm 5 w 0))
  | 1 => .ok (.amin (reg 16 w 23) (reg 128 w 12) (reg 64 w 6) (imm 5 w 0))
  | 2 => .ok (.amax (reg 16 w 23) (reg 128 w 12) (reg 64 w 6) (imm 5 w 0))
  | 3 => .ok (.aminn (reg 16 w 23) (reg 128 w 12) (reg 64 w 6) (imm 5 w 0))
  | 4 => .ok (.amaxn (reg 16 w 23) (reg 128 w 12) (reg 64 w 6) (imm 5 w 0))
  | 5 => .ok (.aand (reg 16 w 23) (reg 128 w 12) (reg 64 w 6) (imm 5 w 0))
  | 6 => .ok (.aor (reg 16 w 23) (reg 128 w 12) (reg 64 w 6) (imm 5 w 0))
  | 7 => .ok (.axor (reg 16 w 23) (reg 128 w 12) (reg 64 w 6) (imm 5 w 0))
  | 8 => .ok (.axchg (reg 16 w 23) (reg 128 w 12) (reg 64 w 6) (imm 5 w 0))
  | 9 => .ok (.acas (reg 16 w 23) (reg 128 w 12) (reg 64 w 6) (imm 5 w 0))
  | 10 => .ok (.ainc (reg 16 w 23) (reg 128 w 12) (reg 64 w 6) (imm 5 w 0))
  | 11 => .ok (.afadd (reg 16 w 23) (reg 128 w 12) (reg 64 w 6) (imm 5 w 0))
  | _ => .error .function

/-- R81 ATOM. -/
def wordAtomNonReturning (w : Nat) : Except Reject Instr :=
  match bits w 22 19 with
  | 0 => onRel w fun r => .ok (.aaddNr r (reg 128 w 12) (reg 64 w 6) (imm 5 w 0))
  | 1 => onRel w fun r => .ok (.aminNr r (reg 128 w 12) (reg 64 w 6) (imm 5 w 0))
  | 2 => onRel w fun r => .ok (.amaxNr r (reg 128 w 12) (reg 64 w 6) (imm 5 w 0))
  | 3 => onRel w fun r => .ok (.aminnNr r (reg 128 w 12) (reg 64 w 6) (imm 5 w 0))
  | 4 => onRel w fun r => .ok (.amaxnNr r (reg 128 w 12) (reg 64 w 6) (imm 5 w 0))
  | 5 => onRel w fun r => .ok (.aandNr r (reg 128 w 12) (reg 64 w 6) (imm 5 w 0))
  | 6 => onRel w fun r => .ok (.aorNr r (reg 128 w 12) (reg 64 w 6) (imm 5 w 0))
  | 7 => onRel w fun r => .ok (.axorNr r (reg 128 w 12) (reg 64 w 6) (imm 5 w 0))
  | 8 => onRel w fun r => .ok (.axchgNr r (reg 128 w 12) (reg 64 w 6) (imm 5 w 0))
  | 9 => onRel w fun r => .ok (.acasNr r (reg 128 w 12) (reg 64 w 6) (imm 5 w 0))
  | 10 => onRel w fun r => .ok (.aincNr r (reg 128 w 12) (reg 64 w 6) (imm 5 w 0))
  | 11 => onRel w fun r => .ok (.afaddNr r (reg 128 w 12) (reg 64 w 6) (imm 5 w 0))
  | _ => .error .function

/-- R81 ATOM: bit 5 is N. -/
def wordAtom (w : Nat) : Except Reject Instr :=
  if flag w 5 then wordAtomNonReturning w else wordAtomReturning w

/-- R81 COPY. -/
def wordCopy (w : Nat) : Except Reject Instr :=
  match bits w 26 18 with
  | 0x000 => .ok (.cpy4 (reg 64 w 12) (reg 64 w 6) (reg 64 w 0))
  | 0x001 => .ok (.cpy8 (reg 64 w 12) (reg 64 w 6) (reg 64 w 0))
  | 0x002 => .ok (.cpy16 (reg 64 w 12) (reg 64 w 6) (reg 64 w 0))
  | 0x004 => .ok (.cpt (reg 64 w 12) (reg 64 w 6) (reg 64 w 0))
  | 0x005 => zeros w [(5, 0)] (.cpz (reg 64 w 12) (reg 64 w 6))
  | 0x008 => zeros w [(5, 0)] (.cntadd (reg 64 w 12) (reg 64 w 6))
  | 0x009 => zeros w [(5, 0)] (.cntw (reg 64 w 12) (reg 64 w 6))
  | 0x00A => zeros w [(5, 0)] (.cntrd (reg 64 w 12) (reg 64 w 6))
  | _ => .error .function

/-- R81 TILE. -/
def wordTile (w : Nat) : Except Reject Instr :=
  match bits w 26 18 with
  | 0x000 => zeros w [(17, 12), (5, 0)] (.tdef (reg 64 w 6))
  | 0x001 => zeros w [(17, 12), (5, 0)] (.tfill (reg 64 w 6))
  | 0x002 => zeros w [(17, 12), (5, 0)] (.tcommit (reg 64 w 6))
  | 0x003 => zeros w [(17, 12), (5, 0)] (.tdrain (reg 64 w 6))
  | 0x004 => zeros w [(17, 12), (5, 0)] (.trel (reg 64 w 6))
  | 0x005 => zeros w [(5, 0)] (.tstate (reg 64 w 12) (reg 64 w 6))
  | 0x006 => zeros w [(17, 12)] (.tstAon (reg 64 w 6) (reg 64 w 0))
  | 0x007 => .ok (.tldVer (reg 64 w 12) (reg 64 w 6) (reg 64 w 0))
  | 0x008 => zeros w [(17, 12)] (.cbdef (reg 64 w 6) (reg 64 w 0))
  | 0x009 => zeros w [(17, 12)] (.cbpush (reg 64 w 6) (reg 64 w 0))
  | 0x00A => zeros w [(17, 12)] (.cbpop (reg 64 w 6) (reg 64 w 0))
  | 0x00B => .ok (.cbwait (reg 64 w 12) (reg 64 w 6) (reg 64 w 0))
  | 0x00C => .ok (.cbpeek (reg 64 w 12) (reg 64 w 6) (reg 64 w 0))
  | _ => .error .function

/-- R81 FENCE. -/
def wordFence (w : Nat) : Except Reject Instr :=
  match bits w 26 18 with
  | 0x000 => onScope (bits w 8 6) fun c => zeros w [(17, 9), (5, 4)] (.fence c (imm 4 w 0))
  | 0x001 => zeros w [(17, 12)] (.pfence (imm 6 w 6) (imm 6 w 0))
  | 0x002 => zeros w [(17, 12)] (.swrel (reg 64 w 6) (reg 64 w 0))
  | 0x003 => zeros w [(17, 12)] (.swacq (reg 64 w 6) (reg 64 w 0))
  | _ => .error .function

/-- R81 MTX. -/
def wordMtx (w : Nat) : Except Reject Instr :=
  match bits w 26 24 with
  | 0 => .ok (.mfmt (reg 64 w 18) (reg 64 w 12) (reg 64 w 6) (reg 64 w 0))
  | 1 => .ok (.wld (reg 64 w 18) (reg 64 w 12) (reg 64 w 6) (reg 64 w 0))
  | 2 => .ok (.mloop (reg 64 w 18) (reg 64 w 12) (reg 64 w 6) (reg 64 w 0))
  | 3 => .ok (.mzero (reg 64 w 18) (reg 64 w 12) (reg 64 w 6) (reg 64 w 0))
  | 4 => .ok (.mld (reg 64 w 18) (reg 64 w 12) (reg 64 w 6) (reg 64 w 0))
  | 5 => .ok (.mst (reg 64 w 18) (reg 64 w 12) (reg 64 w 6) (reg 64 w 0))
  | 6 => zeros w [(17, 0)] (.mwait (reg 64 w 18))
  | 7 => zeros w [(17, 6)] (.mquery (reg 64 w 18) (reg 64 w 0))
  | _ => .error .function

/-- R81 LNCH. -/
def wordLnch (w : Nat) : Except Reject Instr :=
  match bits w 26 18 with
  | 0x000 => zeros w [(5, 0)] (.launch (reg 64 w 12) (reg 64 w 6))
  | 0x001 => zeros w [(5, 0)] (.lwait (reg 64 w 12) (reg 64 w 6))
  | 0x002 => zeros w [(17, 0)] .exit
  | 0x003 => zeros w [(11, 9), (5, 0)] (.dsp (reg 64 w 12) (reg 8 w 6))
  | 0x004 => .ok (.gbind (reg 64 w 12) (reg 64 w 6) (reg 64 w 0))
  | 0x005 => zeros w [(17, 12), (5, 0)] (.gstart (reg 64 w 6))
  | 0x006 => zeros w [(17, 12)] (.gstop (reg 64 w 6) (reg 64 w 0))
  | 0x007 => .ok (.grebind (reg 64 w 12) (reg 64 w 6) (reg 64 w 0))
  | 0x008 => zeros w [(5, 0)] (.qput (reg 64 w 12) (reg 64 w 6))
  | _ => .error .function

/-- R89. -/
noncomputable def wordRep (w : Nat) : Except Reject Instr := zeros w [(17, 0)] (.rep (reg 64 w 21) (imm 3 w 18))

/-- R93. -/
noncomputable def wordLimm (w : Nat) : Except Reject Instr := .ok (.limm (imm 27 w 0))

/-- R81 FLA. -/
def wordFla (w : Nat) : Except Reject Instr := zeros w [(26, 23)] (.fla (reg 8 w 20) (reg 64 w 14) (imm 14 w 0))

/-- The instruction of a word other than BRK, REP and LIMM, before the limits of the word (R80). -/
def wordPlain (w : Nat) : Except Reject Instr :=
  match bits w 31 27 with
  | 0x00 => wordSysPlain w
  | 0x01 => wordBr w
  | 0x02 => wordSalu w
  | 0x03 => wordSalui w
  | 0x04 => wordSli w
  | 0x05 => wordBand w
  | 0x06 => wordValu w
  | 0x07 => wordValui w
  | 0x08 => wordVfp w
  | 0x09 => wordVsf w
  | 0x0A => wordVcvt w
  | 0x0B => wordVlane w
  | 0x0C => wordVcmp w
  | 0x0D => wordLd w
  | 0x0E => wordSt w
  | 0x0F => wordFld w
  | 0x10 => wordFst w
  | 0x11 => wordSmem w
  | 0x12 => wordAtom w
  | 0x13 => wordCopy w
  | 0x14 => wordTile w
  | 0x15 => wordFence w
  | 0x16 => wordMtx w
  | 0x17 => wordLnch w
  | 0x1A => wordFla w
  | _ => .error .major

/-- The instruction of a word, before the limits of the word (R80). -/
noncomputable def word (w : Nat) : Except Reject Instr :=
  match bits w 31 27 with
  | 0x00 => if bits w 26 18 = 0x00A then zeros w [(17, 12)] (.brk (imm 12 w 0)) else wordSysPlain w
  | 0x18 => wordRep w
  | 0x19 => wordLimm w
  | _ => wordPlain w

end Decode

/-- The instruction of a word other than BRK, REP and LIMM: all that may follow a prefix (R91, R93) or stand in a log (R408). -/
def decodePlain (w : Nat) : Except Reject Instr :=
  match Decode.wordPlain w with
  | .ok i => if i.wf then .ok i else .error .limit
  | .error e => .error e

/-- The instruction of a 32-bit word (R83). (noncomputable here and below only says that Lean's code generator
cannot build the objects of BRK, REP and LIMM, whose constructors stand beyond its limit of 244; the kernel evaluates
these functions as any other.) -/
noncomputable def decode (w : Nat) : Except Reject Instr :=
  match Decode.word w with
  | .ok i => if i.wf then .ok i else .error .limit
  | .error e => .error e

/-- A word from its four bytes, lowest address first (R74). -/
def wordOfBytes (b0 b1 b2 b3 : Byte) : Nat :=
  b0.toNat + b1.toNat * 2 ^ 8 + b2.toNat * 2 ^ 16 + b3.toNat * 2 ^ 24

/-- The instruction at the head of a list of bytes, and the rest of the list. -/
noncomputable def decodeBytes : List Byte → Except Reject (Instr × List Byte)
  | b0 :: b1 :: b2 :: b3 :: t =>
    match decode (wordOfBytes b0 b1 b2 b3) with
    | .ok i => .ok (i, t)
    | .error e => .error e
  | _ => .error .short

/-- The instruction, none where it is rejected. -/
noncomputable def decode? (w : Nat) : Option Instr :=
  match decode w with | .ok i => some i | .error _ => none

/-- Byte k of a word (R3). -/
def wordByte (w k : Nat) : Byte := BitVec.ofNat 8 (w / 2 ^ (8 * k))

/-- The four bytes of a word, lowest address first (R74). -/
def wordBytes (w : Nat) : List Byte := [wordByte w 0, wordByte w 1, wordByte w 2, wordByte w 3]

/-- What the decoder reads from an instruction whose bits the opcode table gives as `w`; every word has 32 bits. -/
noncomputable def decodeTableWord (nbits w : Nat) : Option Instr :=
  match decodeBytes (wordBytes (w % 2 ^ nbits)) with | .ok (i, _) => some i | .error _ => none

/-- A word with its fields put at their lowest bits. -/
def pack0 (base : Nat) : Option Nat := some base
def pack1 (base x i : Nat) : Option Nat := some (base + x * 2 ^ i)
def pack2 (base x i y j : Nat) : Option Nat := some (base + x * 2 ^ i + y * 2 ^ j)
def pack3 (base x i y j z k : Nat) : Option Nat := some (base + x * 2 ^ i + y * 2 ^ j + z * 2 ^ k)
def pack4 (base x i y j z k u l : Nat) : Option Nat :=
  some (base + x * 2 ^ i + y * 2 ^ j + z * 2 ^ k + u * 2 ^ l)
def pack5 (base x i y j z k u l v m : Nat) : Option Nat :=
  some (base + x * 2 ^ i + y * 2 ^ j + z * 2 ^ k + u * 2 ^ l + v * 2 ^ m)

/-- The word of an instruction (R76, R79, R81); none for the steps that have no word. -/
def encode : Instr → Option Nat
  | .nop => pack0 0x00000000
  | .trap c => pack1 0x00040000 (c.toNat) 0
  | .tret => pack0 0x00080000
  | .mode a => pack1 0x000C0000 (a.val) 6
  | .modei h l => pack2 0x00100000 (h.toNat) 7 (l.toNat) 0
  | .fmtset f a => pack2 0x00140000 (f.val) 12 (a.val) 6
  | .fmtget d f => pack2 0x00180000 (d.val) 12 (f.val) 6
  | .mfsr d n => pack2 0x001C0000 (d.val) 12 (n.toNat) 0
  | .mtsr v n => pack2 0x00200000 (v.val) 12 (n.toNat) 0
  | .rwp a n => pack2 0x00240000 (a.val) 6 (n.val) 0
  | .brk c => pack1 0x00280000 (c.toNat) 0
  | .caps d n => pack2 0x002C0000 (d.val) 12 (n.toNat) 0
  | .br o => pack1 0x08000000 (o.toNat) 0
  | .bz a o => pack2 0x09000000 (a.val) 18 (o.toNat) 0
  | .bnz a o => pack2 0x0A000000 (a.val) 18 (o.toNat) 0
  | .bneg a o => pack2 0x0B000000 (a.val) 18 (o.toNat) 0
  | .bnneg a o => pack2 0x0C000000 (a.val) 18 (o.toNat) 0
  | .call o => pack1 0x0D000000 (o.toNat) 0
  | .pbr n p o => pack3 0x0E000000 (n.toNat) 21 (p.val) 18 (o.toNat) 0
  | .jr a => pack1 0x0F000000 (a.val) 18
  | .jl a => pack1 0x0F008000 (a.val) 18
  | .ret => pack0 0x0F010000
  | .add d a b => pack3 0x10000000 (d.val) 12 (a.val) 6 (b.val) 0
  | .sub d a b => pack3 0x10040000 (d.val) 12 (a.val) 6 (b.val) 0
  | .mul24 d a b => pack3 0x10080000 (d.val) 12 (a.val) 6 (b.val) 0
  | .mul d a b => pack3 0x100C0000 (d.val) 12 (a.val) 6 (b.val) 0
  | .mulh d a b => pack3 0x10100000 (d.val) 12 (a.val) 6 (b.val) 0
  | .mulhn d a b => pack3 0x10140000 (d.val) 12 (a.val) 6 (b.val) 0
  | .and d a b => pack3 0x10200000 (d.val) 12 (a.val) 6 (b.val) 0
  | .or d a b => pack3 0x10240000 (d.val) 12 (a.val) 6 (b.val) 0
  | .xor d a b => pack3 0x10280000 (d.val) 12 (a.val) 6 (b.val) 0
  | .andn d a b => pack3 0x102C0000 (d.val) 12 (a.val) 6 (b.val) 0
  | .orn d a b => pack3 0x10300000 (d.val) 12 (a.val) 6 (b.val) 0
  | .sll d a b => pack3 0x10400000 (d.val) 12 (a.val) 6 (b.val) 0
  | .srl d a b => pack3 0x10440000 (d.val) 12 (a.val) 6 (b.val) 0
  | .sra d a b => pack3 0x10480000 (d.val) 12 (a.val) 6 (b.val) 0
  | .rol d a b => pack3 0x104C0000 (d.val) 12 (a.val) 6 (b.val) 0
  | .ror d a b => pack3 0x10500000 (d.val) 12 (a.val) 6 (b.val) 0
  | .min d a b => pack3 0x10600000 (d.val) 12 (a.val) 6 (b.val) 0
  | .max d a b => pack3 0x10640000 (d.val) 12 (a.val) 6 (b.val) 0
  | .minn d a b => pack3 0x10680000 (d.val) 12 (a.val) 6 (b.val) 0
  | .maxn d a b => pack3 0x106C0000 (d.val) 12 (a.val) 6 (b.val) 0
  | .slt d a b => pack3 0x10800000 (d.val) 12 (a.val) 6 (b.val) 0
  | .sltn d a b => pack3 0x10840000 (d.val) 12 (a.val) 6 (b.val) 0
  | .eq d a b => pack3 0x10880000 (d.val) 12 (a.val) 6 (b.val) 0
  | .popc d a => pack2 0x10A00000 (d.val) 12 (a.val) 6
  | .clz d a => pack2 0x10A40000 (d.val) 12 (a.val) 6
  | .ctz d a => pack2 0x10A80000 (d.val) 12 (a.val) 6
  | .brev d a => pack2 0x10AC0000 (d.val) 12 (a.val) 6
  | .bswap d a => pack2 0x10B00000 (d.val) 12 (a.val) 6
  | .sxb d a => pack2 0x10C00000 (d.val) 12 (a.val) 6
  | .sxh d a => pack2 0x10C40000 (d.val) 12 (a.val) 6
  | .zxb d a => pack2 0x10C80000 (d.val) 12 (a.val) 6
  | .zxh d a => pack2 0x10CC0000 (d.val) 12 (a.val) 6
  | .addi d a i => pack3 0x18000000 (d.val) 18 (a.val) 12 (i.toNat) 0
  | .andi d a i => pack3 0x19000000 (d.val) 18 (a.val) 12 (i.toNat) 0
  | .ori d a i => pack3 0x1A000000 (d.val) 18 (a.val) 12 (i.toNat) 0
  | .xori d a i => pack3 0x1B000000 (d.val) 18 (a.val) 12 (i.toNat) 0
  | .slti d a i => pack3 0x1C000000 (d.val) 18 (a.val) 12 (i.toNat) 0
  | .sltni d a i => pack3 0x1D000000 (d.val) 18 (a.val) 12 (i.toNat) 0
  | .slli d a c => pack3 0x1E000000 (d.val) 18 (a.val) 12 (c.toNat) 0
  | .srli d a c => pack3 0x1E000400 (d.val) 18 (a.val) 12 (c.toNat) 0
  | .srai d a c => pack3 0x1E000800 (d.val) 18 (a.val) 12 (c.toNat) 0
  | .rori d a c => pack3 0x1E000C00 (d.val) 18 (a.val) 12 (c.toNat) 0
  | .muli d a i => pack3 0x1F000000 (d.val) 18 (a.val) 12 (i.toNat) 0
  | .sli d i => pack2 0x20000000 (d.val) 21 (i.toNat) 0
  | .slu d i => pack2 0x20100000 (d.val) 21 (i.toNat) 0
  | .join a => pack1 0x28000000 (a.val) 6
  | .leave => pack0 0x28040000
  | .gbar => pack0 0x28080000
  | .regroup => pack0 0x280C0000
  | .rcv => pack0 0x28100000
  | .voteAny d p => pack2 0x28200000 (d.val) 12 (p.val) 6
  | .voteAll d p => pack2 0x28240000 (d.val) 12 (p.val) 6
  | .voteCnt d p => pack2 0x28280000 (d.val) 12 (p.val) 6
  | .voteBal q p => pack2 0x282C0000 (q.val) 12 (p.val) 6
  | .lid v => pack1 0x28400000 (v.val) 11
  | .tid v => pack1 0x28440000 (v.val) 11
  | .bid d => pack1 0x28480000 (d.val) 12
  | .vadd d a b => pack3 0x30000000 (d.val) 14 (a.val) 7 (b.val) 0
  | .vsub d a b => pack3 0x30200000 (d.val) 14 (a.val) 7 (b.val) 0
  | .vmul24 d a b => pack3 0x30400000 (d.val) 14 (a.val) 7 (b.val) 0
  | .vmul32 d a b => pack3 0x30600000 (d.val) 14 (a.val) 7 (b.val) 0
  | .vmulh32 d a b => pack3 0x30800000 (d.val) 14 (a.val) 7 (b.val) 0
  | .vmulhn32 d a b => pack3 0x30A00000 (d.val) 14 (a.val) 7 (b.val) 0
  | .vand d a b => pack3 0x31000000 (d.val) 14 (a.val) 7 (b.val) 0
  | .vor d a b => pack3 0x31200000 (d.val) 14 (a.val) 7 (b.val) 0
  | .vxor d a b => pack3 0x31400000 (d.val) 14 (a.val) 7 (b.val) 0
  | .vandn d a b => pack3 0x31600000 (d.val) 14 (a.val) 7 (b.val) 0
  | .vsll d a b => pack3 0x32000000 (d.val) 14 (a.val) 7 (b.val) 0
  | .vsrl d a b => pack3 0x32200000 (d.val) 14 (a.val) 7 (b.val) 0
  | .vsra d a b => pack3 0x32400000 (d.val) 14 (a.val) 7 (b.val) 0
  | .vrol d a b => pack3 0x32600000 (d.val) 14 (a.val) 7 (b.val) 0
  | .vmin d a b => pack3 0x33000000 (d.val) 14 (a.val) 7 (b.val) 0
  | .vmax d a b => pack3 0x33200000 (d.val) 14 (a.val) 7 (b.val) 0
  | .vabsd d a b => pack3 0x33400000 (d.val) 14 (a.val) 7 (b.val) 0
  | .vpopc d a => pack2 0x34000000 (d.val) 14 (a.val) 7
  | .vclz d a => pack2 0x34200000 (d.val) 14 (a.val) 7
  | .vctz d a => pack2 0x34400000 (d.val) 14 (a.val) 7
  | .vbrev d a => pack2 0x34600000 (d.val) 14 (a.val) 7
  | .vsel d a b => pack3 0x35000000 (d.val) 14 (a.val) 7 (b.val) 0
  | .vmov d a => pack2 0x35200000 (d.val) 14 (a.val) 7
  | .vaddi d a i => pack3 0x38000000 (d.val) 16 (a.val) 9 (i.toNat) 0
  | .vmuli24 d a i => pack3 0x38800000 (d.val) 16 (a.val) 9 (i.toNat) 0
  | .vandi d a i => pack3 0x39000000 (d.val) 16 (a.val) 9 (i.toNat) 0
  | .vori d a i => pack3 0x39800000 (d.val) 16 (a.val) 9 (i.toNat) 0
  | .vxori d a i => pack3 0x3A000000 (d.val) 16 (a.val) 9 (i.toNat) 0
  | .vslli d a c => pack3 0x3A800000 (d.val) 16 (a.val) 9 (c.toNat) 0
  | .vsrli d a c => pack3 0x3B000000 (d.val) 16 (a.val) 9 (c.toNat) 0
  | .vsrai d a c => pack3 0x3B800000 (d.val) 16 (a.val) 9 (c.toNat) 0
  | .vmini d a i => pack3 0x3C000000 (d.val) 16 (a.val) 9 (i.toNat) 0
  | .vmaxi d a i => pack3 0x3C800000 (d.val) 16 (a.val) 9 (i.toNat) 0
  | .vmovi d i => pack2 0x3D000000 (d.val) 16 (i.toNat) 0
  | .vfadd d a b => pack3 0x40000000 (d.val) 14 (a.val) 7 (b.val) 0
  | .vfsub d a b => pack3 0x40200000 (d.val) 14 (a.val) 7 (b.val) 0
  | .vfmul d a b => pack3 0x40400000 (d.val) 14 (a.val) 7 (b.val) 0
  | .vfma d a b => pack3 0x40600000 (d.val) 14 (a.val) 7 (b.val) 0
  | .vfms d a b => pack3 0x40800000 (d.val) 14 (a.val) 7 (b.val) 0
  | .vfnma d a b => pack3 0x40A00000 (d.val) 14 (a.val) 7 (b.val) 0
  | .vfmin d a b => pack3 0x41000000 (d.val) 14 (a.val) 7 (b.val) 0
  | .vfmax d a b => pack3 0x41200000 (d.val) 14 (a.val) 7 (b.val) 0
  | .vfabs d a => pack2 0x41800000 (d.val) 14 (a.val) 7
  | .vfneg d a => pack2 0x41A00000 (d.val) 14 (a.val) 7
  | .vfcpys d a b => pack3 0x41C00000 (d.val) 14 (a.val) 7 (b.val) 0
  | .vfclass d a => pack2 0x41E00000 (d.val) 14 (a.val) 7
  | .vfrnd d a => pack2 0x42000000 (d.val) 14 (a.val) 7
  | .vrcp la d a => pack3 0x48000000 (la.val) 23 (d.val) 11 (a.val) 4
  | .vrsq la d a => pack3 0x48040000 (la.val) 23 (d.val) 11 (a.val) 4
  | .vsqrt la d a => pack3 0x48080000 (la.val) 23 (d.val) 11 (a.val) 4
  | .vdiv la d a => pack3 0x480C0000 (la.val) 23 (d.val) 11 (a.val) 4
  | .vexp2 la d a => pack3 0x48100000 (la.val) 23 (d.val) 11 (a.val) 4
  | .vlog2 la d a => pack3 0x48140000 (la.val) 23 (d.val) 11 (a.val) 4
  | .vsin la d a => pack3 0x48180000 (la.val) 23 (d.val) 11 (a.val) 4
  | .vcos la d a => pack3 0x481C0000 (la.val) 23 (d.val) 11 (a.val) 4
  | .vtanh la d a => pack3 0x48200000 (la.val) 23 (d.val) 11 (a.val) 4
  | .vcvt d a t => pack3 0x50000000 (d.val) 14 (a.val) 7 (t.val) 0
  | .vcvtef d a b => pack3 0x50200000 (d.val) 14 (a.val) 7 (b.val) 0
  | .vcvti d a t => pack3 0x50400000 (d.val) 14 (a.val) 7 (t.val) 0
  | .vcvtf d a t => pack3 0x50600000 (d.val) 14 (a.val) 7 (t.val) 0
  | .vpk d a b => pack3 0x50800000 (d.val) 14 (a.val) 7 (b.val) 0
  | .vupk d a n => pack3 0x50A00000 (d.val) 14 (a.val) 7 (n.val) 0
  | .vscale d a b => pack3 0x50C00000 (d.val) 14 (a.val) 7 (b.val) 0
  | .vbs d a => pack2 0x58000000 (d.val) 14 (a.val) 7
  | .vrd d a b => pack3 0x58200000 (d.val) 14 (a.val) 7 (b.val) 0
  | .vwr d a b => pack3 0x58400000 (d.val) 14 (a.val) 7 (b.val) 0
  | .vshfl d a b => pack3 0x58600000 (d.val) 14 (a.val) 7 (b.val) 0
  | .vshfx d a b => pack3 0x58800000 (d.val) 14 (a.val) 7 (b.val) 0
  | .vrot d a b => pack3 0x58A00000 (d.val) 14 (a.val) 7 (b.val) 0
  | .vredadd d a => pack2 0x59000000 (d.val) 14 (a.val) 7
  | .vredmin d a => pack2 0x59200000 (d.val) 14 (a.val) 7
  | .vredmax d a => pack2 0x59400000 (d.val) 14 (a.val) 7
  | .vredminx d a b => pack3 0x59600000 (d.val) 14 (a.val) 7 (b.val) 0
  | .vredmaxx d a b => pack3 0x59800000 (d.val) 14 (a.val) 7 (b.val) 0
  | .vscan d a => pack2 0x59A00000 (d.val) 14 (a.val) 7
  | .vredand d a => pack2 0x59C00000 (d.val) 14 (a.val) 7
  | .vredor d a => pack2 0x59E00000 (d.val) 14 (a.val) 7
  | .vredxor d a => pack2 0x5A000000 (d.val) 14 (a.val) 7
  | .vcmp c p m a b => pack5 0x60000000 (c.code) 21 (p.val) 18 (m.code) 14 (a.val) 7 (b.val) 0
  | .vcmpn c p m a b => pack5 0x61000000 (c.code) 21 (p.val) 18 (m.code) 14 (a.val) 7 (b.val) 0
  | .vfcmp c p m a b => pack5 0x62000000 (c.code) 21 (p.val) 18 (m.code) 14 (a.val) 7 (b.val) 0
  | .vfcmpn c p m a b => pack5 0x63000000 (c.code) 21 (p.val) 18 (m.code) 14 (a.val) 7 (b.val) 0
  | .ldb la v a i => pack4 0x68000000 (la.val) 23 (v.val) 12 (a.val) 6 (i.toNat) 0
  | .ldbs la v a i => pack4 0x68080000 (la.val) 23 (v.val) 12 (a.val) 6 (i.toNat) 0
  | .ldh la v a i => pack4 0x68100000 (la.val) 23 (v.val) 12 (a.val) 6 (i.toNat) 0
  | .ldhs la v a i => pack4 0x68180000 (la.val) 23 (v.val) 12 (a.val) 6 (i.toNat) 0
  | .ldw la v a i => pack4 0x68200000 (la.val) 23 (v.val) 12 (a.val) 6 (i.toNat) 0
  | .ldd la v a i => pack4 0x68280000 (la.val) 23 (v.val) 12 (a.val) 6 (i.toNat) 0
  | .ldq la v a i => pack4 0x68300000 (la.val) 23 (v.val) 12 (a.val) 6 (i.toNat) 0
  | .lds la d a i => pack4 0x68380000 (la.val) 23 (d.val) 12 (a.val) 6 (i.toNat) 0
  | .ldx la v a i => pack4 0x68400000 (la.val) 23 (v.val) 12 (a.val) 6 (i.toNat) 0
  | .ldwAcq la v a c => pack4 0x68600000 (la.val) 23 (v.val) 12 (a.val) 6 (c.code) 3
  | .lddAcq la v a c => pack4 0x68680000 (la.val) 23 (v.val) 12 (a.val) 6 (c.code) 3
  | .ldsAcq la d a c => pack4 0x68700000 (la.val) 23 (d.val) 12 (a.val) 6 (c.code) 3
  | .stb r v a i => pack4 0x70000000 (relBits r) 23 (v.val) 12 (a.val) 6 (i.toNat) 0
  | .sth r v a i => pack4 0x70100000 (relBits r) 23 (v.val) 12 (a.val) 6 (i.toNat) 0
  | .stw r v a i => pack4 0x70200000 (relBits r) 23 (v.val) 12 (a.val) 6 (i.toNat) 0
  | .std r v a i => pack4 0x70280000 (relBits r) 23 (v.val) 12 (a.val) 6 (i.toNat) 0
  | .stq r v a i => pack4 0x70300000 (relBits r) 23 (v.val) 12 (a.val) 6 (i.toNat) 0
  | .sts r v a i => pack4 0x70380000 (relBits r) 23 (v.val) 12 (a.val) 6 (i.toNat) 0
  | .stx v a i => pack3 0x70400000 (v.val) 12 (a.val) 6 (i.toNat) 0
  | .fld la e d o => pack4 0x78000000 (la.val) 23 (e.val) 20 (d.val) 14 (o.toNat) 0
  | .fst r e v o => pack4 0x80000000 (relBits r) 23 (e.val) 20 (v.val) 14 (o.toNat) 0
  | .fla e d o => pack3 0xD0000000 (e.val) 20 (d.val) 14 (o.toNat) 0
  | .spat a k => pack2 0x88000000 (a.val) 4 (k.val) 0
  | .sld la d k => pack3 0x88040000 (la.val) 23 (d.val) 11 (k.val) 0
  | .sst v k => pack2 0x88080000 (v.val) 4 (k.val) 0
  | .sreset k => pack1 0x880C0000 (k.val) 0
  | .aadd la v a o => pack4 0x90000000 (la.val) 23 (v.val) 12 (a.val) 6 (o.toNat) 0
  | .aaddNr r v a o => pack4 0x90000020 (relBits r) 23 (v.val) 12 (a.val) 6 (o.toNat) 0
  | .amin la v a o => pack4 0x90080000 (la.val) 23 (v.val) 12 (a.val) 6 (o.toNat) 0
  | .aminNr r v a o => pack4 0x90080020 (relBits r) 23 (v.val) 12 (a.val) 6 (o.toNat) 0
  | .amax la v a o => pack4 0x90100000 (la.val) 23 (v.val) 12 (a.val) 6 (o.toNat) 0
  | .amaxNr r v a o => pack4 0x90100020 (relBits r) 23 (v.val) 12 (a.val) 6 (o.toNat) 0
  | .aminn la v a o => pack4 0x90180000 (la.val) 23 (v.val) 12 (a.val) 6 (o.toNat) 0
  | .aminnNr r v a o => pack4 0x90180020 (relBits r) 23 (v.val) 12 (a.val) 6 (o.toNat) 0
  | .amaxn la v a o => pack4 0x90200000 (la.val) 23 (v.val) 12 (a.val) 6 (o.toNat) 0
  | .amaxnNr r v a o => pack4 0x90200020 (relBits r) 23 (v.val) 12 (a.val) 6 (o.toNat) 0
  | .aand la v a o => pack4 0x90280000 (la.val) 23 (v.val) 12 (a.val) 6 (o.toNat) 0
  | .aandNr r v a o => pack4 0x90280020 (relBits r) 23 (v.val) 12 (a.val) 6 (o.toNat) 0
  | .aor la v a o => pack4 0x90300000 (la.val) 23 (v.val) 12 (a.val) 6 (o.toNat) 0
  | .aorNr r v a o => pack4 0x90300020 (relBits r) 23 (v.val) 12 (a.val) 6 (o.toNat) 0
  | .axor la v a o => pack4 0x90380000 (la.val) 23 (v.val) 12 (a.val) 6 (o.toNat) 0
  | .axorNr r v a o => pack4 0x90380020 (relBits r) 23 (v.val) 12 (a.val) 6 (o.toNat) 0
  | .axchg la v a o => pack4 0x90400000 (la.val) 23 (v.val) 12 (a.val) 6 (o.toNat) 0
  | .axchgNr r v a o => pack4 0x90400020 (relBits r) 23 (v.val) 12 (a.val) 6 (o.toNat) 0
  | .acas la v a o => pack4 0x90480000 (la.val) 23 (v.val) 12 (a.val) 6 (o.toNat) 0
  | .acasNr r v a o => pack4 0x90480020 (relBits r) 23 (v.val) 12 (a.val) 6 (o.toNat) 0
  | .ainc la v a o => pack4 0x90500000 (la.val) 23 (v.val) 12 (a.val) 6 (o.toNat) 0
  | .aincNr r v a o => pack4 0x90500020 (relBits r) 23 (v.val) 12 (a.val) 6 (o.toNat) 0
  | .afadd la v a o => pack4 0x90580000 (la.val) 23 (v.val) 12 (a.val) 6 (o.toNat) 0
  | .afaddNr r v a o => pack4 0x90580020 (relBits r) 23 (v.val) 12 (a.val) 6 (o.toNat) 0
  | .cpy4 d a c => pack3 0x98000000 (d.val) 12 (a.val) 6 (c.val) 0
  | .cpy8 d a c => pack3 0x98040000 (d.val) 12 (a.val) 6 (c.val) 0
  | .cpy16 d a c => pack3 0x98080000 (d.val) 12 (a.val) 6 (c.val) 0
  | .cpt t a c => pack3 0x98100000 (t.val) 12 (a.val) 6 (c.val) 0
  | .cpz r c => pack2 0x98140000 (r.val) 12 (c.val) 6
  | .cntadd c v => pack2 0x98200000 (c.val) 12 (v.val) 6
  | .cntw c g => pack2 0x98240000 (c.val) 12 (g.val) 6
  | .cntrd d c => pack2 0x98280000 (d.val) 12 (c.val) 6
  | .tdef a => pack1 0xA0000000 (a.val) 6
  | .tfill t => pack1 0xA0040000 (t.val) 6
  | .tcommit t => pack1 0xA0080000 (t.val) 6
  | .tdrain t => pack1 0xA00C0000 (t.val) 6
  | .trel t => pack1 0xA0100000 (t.val) 6
  | .tstate d t => pack2 0xA0140000 (d.val) 12 (t.val) 6
  | .tstAon t m => pack2 0xA0180000 (t.val) 6 (m.val) 0
  | .tldVer d t c => pack3 0xA01C0000 (d.val) 12 (t.val) 6 (c.val) 0
  | .cbdef b a => pack2 0xA0200000 (b.val) 6 (a.val) 0
  | .cbpush b n => pack2 0xA0240000 (b.val) 6 (n.val) 0
  | .cbpop b n => pack2 0xA0280000 (b.val) 6 (n.val) 0
  | .cbwait b n m => pack3 0xA02C0000 (b.val) 12 (n.val) 6 (m.val) 0
  | .cbpeek d b f => pack3 0xA0300000 (d.val) 12 (b.val) 6 (f.val) 0
  | .fence c k => pack2 0xA8000000 (c.code) 6 (k.toNat) 0
  | .pfence u d => pack2 0xA8040000 (u.toNat) 6 (d.toNat) 0
  | .swrel w g => pack2 0xA8080000 (w.val) 6 (g.val) 0
  | .swacq w g => pack2 0xA80C0000 (w.val) 6 (g.val) 0
  | .mfmt i p q r => pack4 0xB0000000 (i.val) 18 (p.val) 12 (q.val) 6 (r.val) 0
  | .wld i p q r => pack4 0xB1000000 (i.val) 18 (p.val) 12 (q.val) 6 (r.val) 0
  | .mloop i p q r => pack4 0xB2000000 (i.val) 18 (p.val) 12 (q.val) 6 (r.val) 0
  | .mzero i p q r => pack4 0xB3000000 (i.val) 18 (p.val) 12 (q.val) 6 (r.val) 0
  | .mld i p q r => pack4 0xB4000000 (i.val) 18 (p.val) 12 (q.val) 6 (r.val) 0
  | .mst i p q r => pack4 0xB5000000 (i.val) 18 (p.val) 12 (q.val) 6 (r.val) 0
  | .mwait i => pack1 0xB6000000 (i.val) 18
  | .mquery i d => pack2 0xB7000000 (i.val) 18 (d.val) 0
  | .launch d r => pack2 0xB8000000 (d.val) 12 (r.val) 6
  | .lwait d h => pack2 0xB8040000 (d.val) 12 (h.val) 6
  | .exit => pack0 0xB8080000
  | .dsp d l => pack2 0xB80C0000 (d.val) 12 (l.val) 6
  | .gbind d g b => pack3 0xB8100000 (d.val) 12 (g.val) 6 (b.val) 0
  | .gstart h => pack1 0xB8140000 (h.val) 6
  | .gstop h m => pack2 0xB8180000 (h.val) 6 (m.val) 0
  | .grebind d h g => pack3 0xB81C0000 (d.val) 12 (h.val) 6 (g.val) 0
  | .qput t q => pack2 0xB8200000 (t.val) 12 (q.val) 6
  | .rep n m => pack2 0xC0000000 (n.val) 21 (m.toNat) 18
  | .limm i => pack1 0xC8000000 (i.toNat) 0
  | .gbarUnblock _ _ => none
  | .regroupTimeout _ => none
  | .fusionComplete _ _ => none
  | .resultArrival _ _ => none
  | .cntwWake _ _ => none
  | .cbwaitWake _ _ => none
  | .swacqWake _ _ => none
  | .lwaitWake _ _ => none
  | .mwaitWake _ _ => none
  | .tcommitWake _ _ => none
  | .trelWake _ _ => none
  | .tstAonOpenWake _ _ => none
  | .tstAonCloseWake _ _ => none
  | .tldVerWake _ _ => none
  | .tileStoreWake _ _ => none
  | .tornBracketClose _ _ => none
  | .launchWaitWake _ _ => none
  | .qputWaitWake _ _ => none
  | .mtxPostWake _ _ => none
  | .gbindAnswer _ _ => none
  | .gstopWaitWake _ _ => none
  | .matrixCommandIssue _ _ => none
  | .mloopStep _ => none
  | .wldImage _ => none
  | .mstRow _ => none
  | .mldTransfer _ => none
  | .matrixOperandAbandon _ _ => none
  | .copyLineOperation _ => none
  | .tileCopyLine _ => none
  | .czPack _ => none
  | .czExpandCheck _ => none
  | .czExpandLine _ _ => none
  | .atomicRequestAccept _ => none
  | .hotStoreFill _ _ => none
  | .pageWalkFill _ _ => none
  | .eccReadRetry _ => none
  | .cacheLineExpiry _ _ => none
  | .remoteLineExpiry _ _ => none
  | .bandwidthWindow _ => none
  | .leaseBoundary _ => none
  | .logReplay _ _ => none
  | .faultRecordWrite _ => none
  | .launchQueueDoorbell _ _ _ => none
  | .queueRecordSkip _ _ => none
  | .queueRecordLaunch _ _ => none
  | .queueRecordTemplate _ _ => none
  | .queueRecordTaskQueue _ _ => none
  | .bindStart _ _ => none
  | .bindRestore _ _ => none
  | .bindPreempt _ _ => none
  | .bindInvalid _ _ => none
  | .preemptAtBoundary _ => none
  | .boundarySave _ => none
  | .resultRedirect _ => none
  | .saveComplete _ => none
  | .restoreComplete _ => none
  | .drainReport _ _ => none
  | .launchCompletion _ => none
  | .deadlineWorkExpiry _ => none
  | .taskDispatch _ _ => none
  | .graphFiringStart _ _ => none
  | .graphFiringEnd _ _ _ => none
  | .graphAllowExpiry _ _ _ => none
  | .faultDoorbellReplay _ _ => none
  | .faultDoorbellDeliver _ _ => none
  | .faultDoorbellKill _ _ => none
  | .faultDoorbellIgnore _ _ => none
  | .create _ _ => none
  | .createInitDone _ => none
  | .destroy _ => none
  | .update _ => none
  | .shootdown _ => none
  | .shootdownAck _ => none
  | .propose _ => none
  | .accept _ _ => none
  | .close _ => none
  | .attest _ => none
  | .life _ => none
  | .kilnBadOp _ => none
  | .loadCodeObject _ => none
  | .hostMemoryRead _ _ _ => none
  | .hostMemoryWrite _ _ _ => none
  | .registerWrite _ _ => none
  | .powerLimitSet _ => none
  | .warmReset => none
  | .coldReset => none
  | .devsetLock _ => none
  | .isoWrite _ _ => none
  | .collectiveSlotConsume _ => none
  | .collectiveComplete _ => none
  | .collectiveTimeout _ => none
  | .remoteRequest _ => none
  | .remoteAck _ => none
  | .flitReceive _ _ => none
  | .portSilenceTimeout _ => none
  | .idleFlitTimer _ => none
  | .powerEstimateWindow _ => none
  | .idleTimeout => none
  | .thermalAlarm => none
  | .thermalTrip => none
  | .illegalInstructionWord _ => none
  | .arithmeticClock => none
  | .mzeroMfmtRetire _ => none
  | .thermalStateEnd => none
  | .portUp _ => none

end Sys2Proof
end

