-- ==== Sys2Proof/Machine/State.lean ====
section
/-!
DEFINITION. The state of the machine: every piece of state that the spec names, as plain data. A table (`Tab`) holds
sparse storage: an absent entry stands for the value its docstring names. The model's own fields are `agenda`, `cur`,
`fresh` and `nextId` (log 2, log 3).
-/
namespace Sys2Proof.Machine

/-- Reasons for a stop. There is none: the spec gives every instruction and every step of the device an effect, and a turn that
names a slot without a band, an event that is not enabled, or a turn of a device that is held in reset changes nothing. -/
inductive Fault where
  deriving DecidableEq, Repr

/-- Reasons for a refusal. -/
inductive Refusal where
  /-- The instruction has no meaning in this model yet. Safe. -/
  | notModelled (mnemonic : String)
  /-- `exec` was given an instruction word while the slot `cur` holds no band: the spec gives such an instruction no
  state to act on. Raised by every meaning of an instruction word. Safe. -/
  | noBand
  deriving DecidableEq, Repr

/-- Memory: a list of (address, byte), addresses strictly rising, no entry equal to the byte 0, which an unlisted
address reads as (R456 wipes every memory; R444: a line never written reads as zero bytes). -/
abbrev Memory := List Host.Cell

/-- What an unlisted address reads as. -/
def Memory.blank : Byte := 0

/-- The canonical form. -/
def Memory.wf (m : Memory) : Bool := Tab.wf Memory.blank m

/-- Where an access goes: a scratchpad byte by global address, memory of this device, memory of another. -/
inductive Loc where
  | spad (a : Nat)
  | mem (pa : Nat)
  | remote (dev pa : Nat)
  deriving DecidableEq, Repr

/-- Who makes an access, and with which heap triple (R41). `cls` is the engine class of R405: 0 B, 1 C, 2 M, 3 G, 4 X,
5 A. `heap` is false for an access that never uses a tensor heap (R475). -/
structure Issuer where
  part : Nat
  core : Nat
  quad : Nat
  thb  : Nat
  thl  : Nat
  tho  : Nat
  cls  : Nat
  heap : Bool
  /-- A DEADLINE launch makes no remote access (R373). -/
  deadline : Bool
  deriving DecidableEq, Repr

/-! ## Bands -/

/-- A reference to a band: launch and BID name it for life; the slot is the one it held when it was made. -/
structure BandRef where
  lnch : Word
  bid  : Word
  slot : Nat
  deriving DecidableEq, Repr

/-- A stream pattern record (R191). -/
structure StreamRec where
  base  : Nat
  ibase : Nat
  n     : List Nat
  lim   : List Nat
  st    : List Int
  esz   : Nat
  sx    : Bool
  ind   : Bool
  bnd   : Bool
  ilvl  : Nat
  deriving DecidableEq, Repr

/-- What a form captures at its issue (R12, R38): its word, the address of its unit, MR, the format register that
MR.FR names, the enabled lanes, the activity mask, and the values of its scalar and vector sources in field order. -/
structure Captured where
  word    : Word
  pc      : Addr
  mr      : Word
  fmt     : Word
  lanes   : Lanes
  mask    : Lanes
  scalars : List Word
  vecs    : List (Tab Word)
  la      : Nat
  wide    : Option (BitVec 27)
  /-- The heap triple: an access that has issued uses the old one after an mtsr (R139). -/
  thb     : Nat
  thl     : Nat
  tho     : Nat
  /-- The record and position of the stream that sld and sst walk (R194). -/
  stream  : Option StreamRec
  pos     : Nat
  deriving DecidableEq, Repr

/-- What a held path waits for (R291). -/
inductive WaitKind where
  | rcv | gbar | regroup | cntw | cbwait | swacq | lwait | mwait | tcommit | trel | tstOpen | tstClose | tldVer
  | tileStore | launch | qput | mtxPost | gbind | gstop
  /-- An instruction fetch that met a translation fault (R409). -/
  | fetch
  deriving DecidableEq, Repr

/-- A waiting path: the captured issue, and what the kind needs: the phases of gbar (entry and phase at arrival,
R148), the clocks a regroup has left (R153), the record number of a fetch fault. -/
structure Wait where
  /-- The sequence number that stood next when the form began to wait: a pfence tells earlier forms by it (R220). -/
  order  : Nat
  kind   : WaitKind
  cap    : Captured
  phases : List (Nat × Bool)
  left   : Nat
  rid    : Nat
  /-- The sequence number in the queue that took the record: Kiln's or the partition's (R410); and the record. -/
  seq    : Option (Bool × Word)
  rcd    : List Word
  deriving DecidableEq, Repr

/-- REP state of a path (R35): the count, the repetitions that remain, and the step mask. -/
structure Rep where
  count     : Nat
  remaining : Nat
  mask      : BitVec 3
  deriving DecidableEq, Repr

/-- A path table entry (R16), with its wait (R133, R291) and the prefix state of the path (R35, R36). -/
structure PathEntry where
  v    : Bool
  /-- Word address of the next instruction. -/
  pc   : BitVec 46
  mask : Lanes
  age  : BitVec 12
  wait : Option Wait
  rep  : Option Rep
  limm : Option (BitVec 27)
  deriving DecidableEq, Repr

/-- An invalid entry. -/
def PathEntry.empty : PathEntry :=
  { v := false, pc := 0, mask := 0, age := 0, wait := none, rep := none, limm := none }

/-- A register write: of one scalar register (`mask` unused, value at key 0), or of the lanes of one vector
register. -/
structure RegWrite where
  vec  : Bool
  reg  : Nat
  mask : Lanes
  vals : Tab Word
  deriving DecidableEq, Repr

/-- One of the 8 result entries of a band (R87, R293). -/
structure ResultEntry where
  id      : Nat
  /-- The place of its instruction in the order of issue: its number, but for a replay that of the log entry (R301). -/
  order   : Nat
  inTrap  : Bool
  /-- The path that issued the instruction: a write of s60 to s62 is one of its mask (R16). -/
  path    : Nat
  /-- The instruction is one of R84, and counts among the 8 of R87; a cntrd is none. -/
  long    : Bool
  /-- The weight that its retirement is charged (R440, R441), once its unit has issued. -/
  weight  : Option Nat
  /-- The paths that the window goes along, with the units that it has still to issue on each (R84): the path that issued
  the instruction, and those that a pbr has split from it. -/
  windows : Tab Nat
  writes  : List RegWrite
  arrived : Bool
  /-- Line requests of a returning atomic that its engine has not applied yet (R353). -/
  pending : Nat
  deriving DecidableEq, Repr

/-- An operand log entry (R38, R408). `cap.lanes` is its MASK; `order` is the issue order. -/
structure LogEntry where
  wait  : Bool
  cap   : Captured
  path  : Nat
  order : Nat
  code  : Nat
  /-- The window of its instruction, which a fault does not cancel (R88): as in a result entry. -/
  windows : Tab Nat
  /-- Registers and lanes written by younger units, which the replay must not write (R88). -/
  drops : List RegWrite
  rid   : Nat
  seq   : Option (Bool × Word)
  /-- The record that a translation fault sent (R410). -/
  rcd    : List Word
  deriving DecidableEq, Repr

/-- A stream generator that is set (R193). -/
structure Stream where
  rcd : StreamRec
  pos : Nat
  deriving DecidableEq, Repr

/-- Read latch and write latch of a LO/HI pair (R33); none stands for a clear bit. -/
structure PairLatch where
  read  : Option Word
  write : Option Word
  deriving DecidableEq, Repr

/-- How the last command posted with an id ended (R227, R247). -/
structure CmdEnd where
  fn     : Nat
  done   : Nat
  failed : Bool
  code   : Nat
  deriving DecidableEq, Repr

/-- A matrix fault not yet delivered (R249). -/
structure MatrixFault where
  order : Nat
  rcd   : List Word
  code  : Nat
  deriving DecidableEq, Repr

/-- A fault record that an action 1 delivers to a path (R410). -/
structure Delivery where
  path : Nat
  rcd  : List Word
  code : Nat
  deriving DecidableEq, Repr

/-- A pfence: operations of the source classes issued before `upto` come before later ones of the destination
classes (R220). Bits of the masks as in R79. `bid` is the band that issued it: a fusion keeps the fences of both bands. -/
structure ClassFence where
  src  : BitVec 6
  dst  : BitVec 6
  upto : Nat
  bid  : Word
  deriving DecidableEq, Repr

/-- A band: bound to a slot, or saved. -/
structure Band where
  lnch  : Word
  bid   : Word
  level : Nat
  cls   : Nat
  part  : Nat
  /-- The slot that the band holds, or held last. -/
  slot  : Nat
  /-- Registers allocated: 32, 64 or 128 (R23), and the first register unit (R283). -/
  rf    : Nat
  unit  : Nat
  role  : Nat
  work  : Nat
  /-- Occupancy mask (R10) and activity mask s60..s62 (R11). -/
  occ   : Lanes
  mask  : Lanes
  /-- Path tables: 8 program entries, 4 trap entries; the current entry of each; trap mode (R16, R18). -/
  prog  : Tab PathEntry
  trp   : Tab PathEntry
  pcur  : Nat
  tcur  : Nat
  inTrap : Bool
  /-- s1 to s59 and s63; an absent register reads 0. -/
  sregs : Tab Word
  /-- Register r, lane l at key 96 r + l; absent reads 0. -/
  vregs : Tab Word
  /-- d0..d7; absent reads 0 (R26). -/
  disp  : Tab Addr
  /-- f0..f15; absent reads the reset format (R27, R51). -/
  fmts  : Tab Word
  mr    : Word
  /-- TID per lane (R9), absent 0; gang entry per lane, absent for none (R19). -/
  tids  : Tab Word
  gang  : Tab Nat
  /-- Streams that are set. -/
  streams : Tab Stream
  olog    : Tab LogEntry
  results : List ResultEntry
  /-- Scoreboard (R289): clocks until a result is readable, scalar register r at key r, vector register at 128 + r. -/
  board   : Tab Nat
  thb : Nat
  thl : Nat
  tho : Nat
  /-- The energy counter (48 bits) and its 10-bit fraction, together in units of 2^-10 nJ (R441). -/
  energy  : Nat
  latches : Tab PairLatch
  tpc    : Addr
  tmr    : Word
  tcause : Word
  tmask  : Lanes
  /-- FREC0..31; absent 0. -/
  frec   : Tab Word
  /-- Rewind state (R37). -/
  rwpc   : Addr
  rwset  : Tab Word
  rwn    : Nat
  rwmr   : Word
  rwmask : Lanes
  boundary : Bool
  cmdEnds  : Tab CmdEnd
  mfaults  : List MatrixFault
  deliveries : List Delivery
  /-- A kill that an answer has decided while the band was saved, with its record (R410). -/
  doom : Option (List Word)
  /-- Child table (R262), recorded kills and those beyond 64 (R268). -/
  children : List Word
  kills    : List Word
  killsExtra : Nat
  fences : List ClassFence
  /-- Clock of the first issue (R373), clock of the PRE record (R423). -/
  first  : Option Nat
  preAt  : Option Nat
  /-- The partner while a fusion's register move runs (R298). -/
  fusing : Option Nat
  /-- Kind of the save, chosen at the request: flashback or boundary (R420); the band has stopped for it (R423, step 1). -/
  flash  : Bool
  stopped : Bool
  /-- Matrix commands suspended with the band: sequence numbers (R251). -/
  suspended : List Nat
  /-- Redirected results whose values are still to come (R423). -/
  redirected : List Nat
  /-- Why and in which order the band was pre-empted (R369, R429): 0 system software, 1 a reservation, 2 a HIGH launch. -/
  preWhy : Nat
  preSeq : Nat
  /-- What a save takes from the quadrant and the core (R211, R424): owned tiles, their elements and formats, tiles with
  an open bracket (1024 core + tile). -/
  accTiles : List Nat
  accSaved : Tab DWord
  accFmts  : Tab Nat
  brackets : List Nat
  deriving DecidableEq, Repr

/-- The status register of a slot (R371), its wait count (R287), and the saved band that a restore brings. -/
structure SlotState where
  refuse : Nat
  state  : Nat
  preq   : Bool
  count  : BitVec 8
  /-- The save area of a save or restore in progress, and whether the state is being moved to it (R423, step 4). -/
  area   : Nat
  moving : Bool
  deriving DecidableEq, Repr

/-! ## Quadrants: accumulators, Saggar, sequencer -/

/-- Who owns an accumulator tile (R28, R386). -/
inductive AccOwner where
  | band (r : BandRef)
  | graph (part : Nat) (handle : Word)
  deriving DecidableEq, Repr

/-- A step image of the Saggar (R236, R238): its length in units of 64 bytes, the operand format and scaling it
carries, its columns as element codes (0 for an element that reads as +0), and per column the block scales. -/
structure SagImage where
  units  : Nat
  kind   : Nat
  desc   : Word
  blk    : Nat
  scaled : Bool
  elems  : Tab DWord
  scales : Tab Byte
  /-- A lasting error has poisoned one of its words (R357). -/
  bad    : Bool
  deriving DecidableEq, Repr

/-- The stage of a posted command (R224). -/
inductive CmdStage where
  | posted | running | suspended
  deriving DecidableEq, Repr

/-- A matrix command in a quadrant's queue (R224, R225). -/
structure Cmd where
  seq    : Nat
  ref    : BandRef
  u      : Issuer
  id     : Nat
  fn     : Nat
  rcd    : List Word
  mr     : Word
  /-- Unretired predecessors (R227) and earlier commands that R228 puts before this one, by sequence number. -/
  preds  : List Nat
  after  : List Nat
  /-- Accumulator tiles named (R226), the circular buffer of its A operand, tiles that it reads while it runs. -/
  accs   : List Nat
  cb     : Option Nat
  reads  : List Nat
  stage  : CmdStage
  done   : Nat
  /-- Saggar range of R228, for WLD and MLOOP. -/
  lo     : Nat
  hi     : Nat
  pc     : Addr
  word   : Word
  mask   : Lanes
  /-- Format-block halves, read at issue (R232): kind and descriptor, log2 block, flags, stride, scale address. -/
  fb     : List Word
  /-- Posted for a graph firing: handle and stage. -/
  firing : Option (Word × Nat)
  deriving DecidableEq, Repr

structure Quad where
  /-- Partition that holds the quadrant; 0 for none (R430). -/
  owner  : Nat
  /-- Element (t, i, j) at key 1024 t + 32 i + j; absent 0 (R28). -/
  acc    : Tab DWord
  /-- 1 for a binary64 tile, absent for binary32 (R231). -/
  accFmt : Tab Nat
  accOwn : Tab AccOwner
  /-- Tiles of a graph that hold a poisoned value (R358). -/
  accBad : Tab Unit
  queue  : List Cmd
  /-- Images by start offset (R238). -/
  images : Tab SagImage
  /-- Clocks for which pipes S, V, F, M are still held (R285), keys 0 to 3; absent 0. -/
  pipes  : Tab Nat
  /-- The launches that reserve the quadrant, in admission order, with their bounds and the clock of admission
  (R375). -/
  reserved : List (Word × Nat × Nat)
  deriving DecidableEq, Repr

/-! ## Cores and clusters -/

/-- A tile table entry that is defined or not empty (R204). -/
structure Tile where
  base    : Nat
  len     : Nat
  /-- 0 empty, 1 filling, 2 ready, 3 draining. -/
  state   : Nat
  readers : Nat
  ver     : Nat
  torn    : Bool
  /-- Slot of the band that opened the bracket; 4096 once that band is gone and the close is still to come,
  4097 while that band is saved (R211). -/
  opener  : Nat
  deriving DecidableEq, Repr

/-- What serves one end of a circular buffer (R215, R241, R387). -/
inductive EndOwner where
  | band (r : BandRef)
  | graph (part : Nat) (handle : Word) (stage : Nat)
  deriving DecidableEq, Repr

/-- A defined circular buffer (R212, R213). -/
structure CircBuf where
  tile0 : Nat
  nslot : Nat
  recsz : Nat
  pp    : Word
  cp    : Word
  prod  : Option EndOwner
  cons  : Option EndOwner
  deriving DecidableEq, Repr

/-- A valid gang table entry (R19). -/
structure GangEntry where
  count    : Nat
  arrivals : Nat
  phase    : Bool
  deriving DecidableEq, Repr

/-- A drain table entry (R377). -/
structure Drain where
  count : Nat
  bands : Nat
  deriving DecidableEq, Repr

/-- A line held in the L1 or the frame cache (R345): the partition whose reads it serves, its key (physical line address, or
that of a remote line), its bytes, and the cluster clock of its fill. -/
structure CacheLine where
  frame  : Bool
  owner  : Nat
  line   : Nat
  remote : Bool
  data   : List Byte
  filled : Nat
  deriving DecidableEq, Repr

/-- A line of a cluster's L2, in a share of its owner (R347). The value of a line of this device is that of memory in every L2;
a remote line has the bytes of its copy (R326) and the cluster clock of its fill. -/
structure L2Line where
  owner  : Nat
  line   : Nat
  remote : Bool
  data   : List Byte
  filled : Nat
  deriving DecidableEq, Repr

/-- What is left of a beat at a slice of the core (R340, R343): the clock of its arrival, the slice, the quadrant of the core whose
band sent it, or 4 for an engine, and the words of the slice still to serve. -/
structure Beat where
  arrival : Nat
  slice   : Nat
  quad    : Nat
  words   : List Nat
  deriving DecidableEq, Repr

structure CoreState where
  /-- Tile number (10 bits) to entry; an absent tile is undefined and empty. -/
  tiles : Tab Tile
  cbs   : Tab CircBuf
  gangs : Tab GangEntry
  drain : Tab Drain
  cache : List CacheLine
  /-- Beats at the four slices, in the order in which they are served (R343). -/
  beats : List Beat
  deriving DecidableEq, Repr

/-- The operations of the atomic engines: those of R217 on a word, and the addition to a 64-bit counter and its read (R198). -/
inductive AtomicOp where
  | add | min | max | minn | maxn | and | or | xor | xchg | cas | inc | fadd | count | read
  deriving DecidableEq, Repr

/-- One lane of a line request: its lane (127 for a uniform operation), its physical address, the operand and the new value of
acas, or the two words of an addend, and the ordering kind of its page (R308): 0 SO, 1 RC, 2 UN. -/
structure LaneOp where
  lane : Nat
  pa   : Nat
  x    : Word
  y    : Word
  ord  : Nat
  deriving DecidableEq, Repr

/-- A line request of an atomic or of a counter operation (R353). `cls` is its class: 5 A, or 6 for an
addition by an engine, which no pfence waits for (R220). `dev` names the
home device of a remote line, `entry` is the result entry that takes the old words, and `owners` are the threads that a uniform
operation belongs to (R300). -/
structure LineReq where
  seq    : Nat
  /-- The operation that made it: its own number, or that of a copy line or a collective. -/
  orig   : Nat
  ref    : BandRef
  part   : Nat
  core   : Nat
  cls    : Nat
  line   : Nat
  dev    : Option Nat
  op     : AtomicOp
  lanes  : List LaneOp
  entry  : Option Nat
  owners : Lanes
  deriving DecidableEq, Repr

/-- A line of a hot store (R352) with the owner and the band of the request that dirtied it last. Every access to the line is routed to the
engine, so that its bytes are those of memory. Most recently used first in its list. -/
structure HotLine where
  line  : Nat
  dirty : Bool
  owner : Nat
  writer : BandRef
  deriving DecidableEq, Repr

/-- A TLB entry: a combined translation (R415). `unit` is the quadrant, or 512 + the core, that holds it. The page
starts at `va` and has `size` bytes; `rights1` and `rights2` are R, W, X of the two stages. -/
structure TlbEntry where
  unit  : Nat
  part  : Nat
  va    : Nat
  size  : Nat
  pa    : Nat
  dev   : Option Nat
  ord   : Nat
  rights1 : Nat
  rights2 : Nat
  deriving DecidableEq, Repr

/-- A page walk in flight (R415, R416): who started it, the page, the generation, and the entry that it read. -/
structure Walk where
  unit : Nat
  part : Nat
  va   : Nat
  gen  : Nat
  got  : Option TlbEntry
  deriving DecidableEq, Repr

structure ClusterState where
  clk   : DWord
  gen   : Word
  /-- Port accepted from last (R353), clocks for which the engine is still held. -/
  port  : Nat
  busy  : Nat
  fifos : Tab (List LineReq)
  hot   : List HotLine
  l2    : List L2Line
  /-- The miss buffer: requests accepted and waiting for their line, oldest first. -/
  miss  : List LineReq
  walks : Tab Walk
  deriving DecidableEq, Repr

/-! ## Engine work -/

/-- One lane copy of a line operation (R195). -/
structure CopyPart where
  src : Nat
  dst : Nat
  n   : Nat
  deriving DecidableEq, Repr

/-- The elements of a cpt that one of its line operations moves (R197): the record, the first scratchpad byte of the
tile by global address, the direction, the element numbers. -/
structure TilePart where
  rcd    : StreamRec
  base   : Nat
  toTile : Bool
  elems  : List Nat
  deriving DecidableEq, Repr

/-- A queued line operation of cpy or cpt (R196, R197): its work, its byte count, its counter. -/
structure CopyOp where
  seq   : Nat
  ref   : BandRef
  u     : Issuer
  parts : List CopyPart
  tile  : Option TilePart
  count : Nat
  cnt   : Nat
  pc    : Addr
  word  : Word
  deriving DecidableEq, Repr

/-- A pack or expand in progress (R200, R202). `lines` are the destination lines still to write, once an expand's
stream has been checked. -/
structure CzOp where
  seq   : Nat
  ref   : BandRef
  u     : Issuer
  cls   : Nat
  src   : Nat
  dst   : Nat
  nline : Nat
  cap   : Nat
  expand : Bool
  cnt   : Nat
  checked : Bool
  lines : List (Nat × List Byte)
  pc    : Addr
  word  : Word
  deriving DecidableEq, Repr

/-- A remote operation on its way (R325): a write of bytes, or an atomic's line. `orig` is the sequence number of the operation
that made it: its own, or that of a copy line, a matrix command or a collective (R335). -/
structure RemoteOp where
  seq   : Nat
  orig  : Nat
  ref   : BandRef
  part  : Nat
  core  : Nat
  dev   : Nat
  pa    : Nat
  data  : List Byte
  req   : Option LineReq
  performed : Bool
  /-- Its class and the kind of its page (R324). -/
  cls    : Nat
  ord    : Nat
  /-- The count that a copy line adds once all its bytes have been acknowledged (R336): the line, the counter's place, the kind of
  its page and the number. -/
  count  : Option (Nat × (Loc × Nat) × Nat)
  deriving DecidableEq, Repr

/-- A collective that the engine has taken (R465, R466): its record and how far it has come. The contributions of
the other members arrive from outside, rank by rank. -/
structure Collective where
  seq   : Nat
  part  : Nat
  ref   : Option BandRef
  op    : Nat
  red   : Nat
  typ   : Nat
  group : Nat
  src   : Nat
  dst   : Nat
  count : Nat
  root  : Nat
  cnt   : Nat
  arrivedAt : Nat
  gseq  : Nat
  members : List Nat
  arrived : List (Nat × List Byte)
  since : Nat
  /-- 0 until its output is written; 1 while other devices have still to acknowledge that, before CNT grows (R336); 2 while the
  addition to CNT is under way (R338). -/
  stage : Nat
  deriving DecidableEq, Repr

/-! ## Launches and partitions -/

/-- What a launch was made by. -/
inductive LaunchKind where
  | queue (q : Nat)
  | child (parent : BandRef)
  | task (q : Nat)
  | firing (handle : Word) (stage : Nat)
  deriving DecidableEq, Repr

/-- A launch that has not completed (R6, R261, R371). -/
structure Launch where
  part  : Nat
  kind  : LaunchKind
  level : Nat
  cls   : Nat
  home  : Nat
  entry : Addr
  n     : Nat
  rf    : Nat
  cw    : Nat
  /-- The heap triple of the band that named CW (R41); none, with thl 0, for a queue record (R475). -/
  thb   : Nat
  thl   : Nat
  tho   : Nat
  work  : Nat
  bound : Nat
  /-- Body address of its frame, and whether it has one. -/
  frame : Addr
  /-- The display of the context block (R371). -/
  disp  : Tab Addr
  /-- Address of the context block. -/
  ctx   : Nat
  /-- Bands bound so far (in ascending BID, R368) and bands that have exited. -/
  nbound : Nat
  exited : Nat
  killed : Option Nat
  /-- The addition to CW is under way (R267). -/
  counted : Bool
  /-- Clock of the home cluster at admission. -/
  since : Nat
  /-- DEADLINE bands that have exited, with the clock of their first issue (R373). -/
  left : List (BandRef × Nat)
  deriving DecidableEq, Repr

/-- A launch queue (R363, R369). -/
structure LaunchQueue where
  ring   : Nat
  size   : Nat
  home   : Nat
  cmax   : Nat
  weight : Nat
  head   : Word
  tail   : Word
  state  : Nat
  deriving DecidableEq, Repr

/-- A task queue that has been set up (R276, R379). `wr` and `rd` count words of the ring. -/
structure TaskQueue where
  ring : Nat
  words : Nat
  cls  : Nat
  home : Nat
  wr   : Nat
  rd   : Nat
  /-- Last task appended and last task read: template, node, instance. -/
  lastW : Option (Nat × Nat × Word)
  lastR : Option (Nat × Nat × Word)
  stopped : Bool
  /-- Tasks read from the ring and not yet in a task launch: node reference and instance, oldest first (R278). -/
  read : List (Word × Word)
  deriving DecidableEq, Repr

/-- A stage of a declaration (R381, R382): its kind; for an entry its address, frame units and allocation; for a copy
or stream its record's address and words; for a matrix stage its tile descriptor and its seven record words. -/
structure StageDecl where
  kind  : Nat
  addr  : Nat
  units : Nat
  rf    : Nat
  tile  : List Byte
  words : List Word
  deriving DecidableEq, Repr

structure EdgeDecl where
  frm   : Nat
  dst   : Nat
  prod  : Nat
  cons  : Nat
  recsz : Nat
  deriving DecidableEq, Repr

/-- An entry of the graph table that is in use (R272, R381); `ok` is false for a record that breaks the limits. -/
structure GraphDecl where
  ok     : Bool
  stages : List StageDecl
  edges  : List EdgeDecl
  deriving DecidableEq, Repr

/-- A placed edge (R387, R388). -/
structure EdgePlace where
  cb    : Nat
  nslot : Nat
  tile0 : Nat
  deriving DecidableEq, Repr

/-- A placed stage (R386, R388): its repetition count, slot (0xFFFF none), role, firing time, reserved frame,
element position, whether a grebind has set that to 0 since its firing started, firings started in the current period, the
period of the last one, whether a firing runs, with the clock of its start and the
counts of its ends (PP or CP) there, followed for an engine by its position and its record, the launch of an entry
firing, and the code with which it was killed. -/
structure StagePlace where
  q     : Nat
  slot  : Nat
  role  : Nat
  time  : Nat
  quad  : Nat
  frame : Nat
  pos   : Nat
  renewed : Bool
  fired : Nat
  period : Nat
  running : Option (Nat × List Word)
  lnch  : Option Word
  killed : Option Nat
  deriving DecidableEq, Repr

/-- A bound graph (R272, R388, R395). `state`: 0 bound, 1 running, 2 stopping, 3 stopped. -/
structure BoundGraph where
  gnum    : Nat
  decl    : GraphDecl
  state   : Nat
  cls     : Nat
  cluster : Nat
  ccore   : Nat
  lcore   : Nat
  score   : Nat
  allow   : Nat
  pbound  : Nat
  budget  : Nat
  table   : Nat
  stages  : List StagePlace
  edges   : List EdgePlace
  sequence : List Nat
  /-- Firings of the current period that have started, its number, periods begun. -/
  started : Nat
  period  : Nat
  pnum    : DWord
  /-- A deferred rebinding (R397). -/
  rebind  : Option (Nat × GraphDecl)
  faulted : Bool
  deriving DecidableEq, Repr

/-- A fault record bound for a queue, waiting there (R410). -/
structure Record where
  rid  : Nat
  rcd  : List Word
  /-- A Q record, which the band keeps, is not dropped by a full buffer. -/
  kept : Bool
  deriving DecidableEq, Repr

/-- A scarf window proposal (R448), with the TAG of its command. -/
structure Proposal where
  id      : Nat
  tag     : Word
  peer    : Nat
  len     : Nat
  backing : Nat
  map     : Nat
  deriving DecidableEq, Repr

structure Partition where
  /-- 1 active, 2 retiring (R431). -/
  state  : Nat
  serial : Word
  /-- Physical address of the partition object. -/
  object : Nat
  quads  : List Nat
  bench  : List Nat
  groups : List Nat
  ports  : Nat
  l2     : Nat
  /-- Slots that it may count on in each window of a bulk channel (R354). -/
  floor  : Nat
  fhbase : Nat
  fhlen  : Nat
  svbase : Nat
  svlen  : Nat
  leases : List Nat
  signers : List (List Byte)
  weights : Tab Word
  handler : Addr
  root1  : Nat
  root2  : Nat
  thb    : Nat
  thl    : Nat
  tho    : Nat
  fqring : Nat
  fqsize : Nat
  fqtail : Word
  fqhead : Word
  energy : Nat
  caps   : Tab Word
  objHash : List Byte
  queues : Tab LaunchQueue
  /-- Records waiting for room in the ring, and the lost-record, corrected, transient and lasting counters (R410,
  R418). -/
  waiting : List Record
  lost    : Word
  corrected : Word
  transient : Word
  lasting   : Word
  graphTable : Tab GraphDecl
  graphs  : Tab BoundGraph
  templates : Tab (Nat × Nat)
  tasks   : Tab TaskQueue
  /-- Frame heap: allocated blocks, offset and length in bytes (R257). -/
  heap    : Tab Nat
  cring   : Nat
  csize   : Nat
  cdoor   : Nat
  gtab    : Nat
  /-- Next SEQ of each collective group; the bands that wrote the TICK of ring slots not yet consumed, with the sequence number
  of the write (R338, R465). -/
  nextSeq : Tab Nat
  ticks   : Tab (BandRef × Nat)
  proposals : List Proposal
  /-- CREATE's response is still to come (R434). -/
  initialising : Bool
  initTag : Word
  initPage : Nat
  /-- Queue served last in each class and the credits left in the round, per the rotation of R369: by class, and by
  64 class + queue; an absent credit is the queue's WEIGHT. -/
  served : Tab Nat
  credits : Tab Nat
  deriving DecidableEq, Repr

/-- A line transfer that waits at a bulk channel: the owner that it counts against, and the band that pays for it (R355, R440). -/
structure ChanReq where
  part : Nat
  ref  : BandRef
  deriving DecidableEq, Repr

/-- A bulk channel (R354): the slots of the window that have passed, those used by each owner, the owner served last in rotation,
and the requests pending. -/
structure Channel where
  moved   : Nat
  used    : Tab Nat
  last    : Nat
  pending : List ChanReq
  deriving DecidableEq, Repr

/-- A channel at the start of a window, with nothing pending. -/
def Channel.idle : Channel := { moved := 0, used := [], last := 0, pending := [] }

/-- A scarf window (R331, R448, R449): the partitions, the physical pages of 64 KiB of the two images in order, the
generation, the dirty lines of each tenant, the random words of the handles, the mapped intermediate addresses, and the
second-stage leaves that mapped the pages in A's backing range, with their places. -/
structure Window where
  a : Nat
  b : Nat
  working   : List Nat
  published : List Nat
  gen  : Word
  dirtyA : List Nat
  dirtyB : List Nat
  keyA : Word
  keyB : Word
  mapA : Nat
  mapB : Nat
  leaves : List (Nat × DWord)
  deriving DecidableEq, Repr

/-- A shoot-down that has not been acknowledged (R416). -/
structure Shootdown where
  part  : Nat
  page  : Nat
  va    : Nat
  pages : Nat
  gens  : List Word
  tag   : Word
  /-- The mailbox page of the command, and the sequence number at which it was issued. -/
  mailPage : Nat
  seq   : Nat
  deriving DecidableEq, Repr

/-- A block of Glaze counters (R443): MAJOR and the MINOR of each line that is not 0. -/
structure CounterBlock where
  major : Nat
  minor : Tab Nat
  deriving DecidableEq, Repr

/-- A fabric port: up, failed retransmissions, clocks without a flit received and without a flit sent (R464). -/
structure PortState where
  up     : Bool
  failed : Nat
  silent : Nat
  idle   : Nat
  deriving DecidableEq, Repr

/-- What the device keeps over a reset: fuses (R452, R455). -/
structure Fuses where
  life      : Nat
  /-- The number of the identity key that Kiln has generated (R453); none while there is no key. -/
  identity  : Option Nat
  minKiln   : Nat
  minWheel  : Nat
  disabledQuads : List Nat
  disabledBench : List Nat
  deriving DecidableEq, Repr

/-- Where a fill ends: in the cluster's L2 only, in the L1, or in the frame cache. -/
inductive FillInto where
  | l2 | l1 | frame
  deriving DecidableEq, Repr

/-- A turn that the environment has chosen (log 2). -/
inductive Turn where
  /-- The band of a slot issues its next unit, if it can. -/
  | band (slot : Nat)
  /-- A step of the opcode table that has no word. -/
  | event (i : Instr)
  /-- A line that a partition reads at an address is filled into the L2 of a core's cluster, and into the core's L1, or its frame
  cache (R345, R347). -/
  | fill (core : Nat) (part : Nat) (va : Nat) (into : FillInto)
  /-- A cluster starts a page walk for a quadrant (R415). -/
  | walk (quad : Nat) (part : Nat) (va : Nat)
  /-- A contribution of another member arrives (R467). -/
  | contribution (index : Nat) (rank : Nat) (data : List Byte)
  /-- Another member aborts a collective, for a reason of R468. -/
  | abort (index : Nat) (reason : Nat)
  /-- A slot of a bulk channel's window comes (R354). -/
  | transfer (channel : Nat)
  /-- A flit moves for a partition, for the band of a slot or for none (R440). -/
  | flit (part : Nat) (slot : Option Nat)
  /-- A line of bulk memory moves that no instruction names: for a partition, for the band of a slot or for none, or for Glaze (R355). -/
  | traffic (part : Nat) (slot : Option Nat) (pa : Nat) (glaze : Bool)
  /-- A write by device `src`: to this device's memory for an owner (R355), or to the memory of another (R324, R469). -/
  | outside (src : Nat) (part : Nat) (dev : Option Nat) (pa : Nat) (data : List Byte)
  /-- An atomic by device `src` on words of one line of this device's memory (R324), for an owner: it comes to port 9 (R353). -/
  | outsideAtomic (src : Nat) (part : Nat) (op : AtomicOp) (line : Nat) (lanes : List LaneOp)
  /-- The host reads the register window (R460). -/
  | registerRead (offset : Nat) (size : Nat)
  /-- System software reads and clears the error counters of a partition (R418). -/
  | counters (part : Nat)
  /-- Something alters what Glaze has stored in bulk memory (R447): a level and number of `glazeKey` of a channel. -/
  | tamper (level : Nat) (channel : Nat) (index : Nat)
  deriving DecidableEq, Repr

structure State where
  /-- The model's own: turns chosen, oldest first; the slot whose band `exec` acts on; the count of free values
  drawn; the next sequence number. -/
  agenda : List Turn
  cur    : Nat
  fresh  : Nat
  nextId : Nat
  /-- Slot table (absent: free, all fields 0) and the bands bound to slots. -/
  slots  : Tab SlotState
  bands  : Tab Band
  /-- Saved bands, by 2^48 partition + the address of their save area (R424). -/
  saved  : Tab Band
  /-- Quadrants, cores and clusters; an absent one is as at reset. -/
  quads    : Tab Quad
  cores    : Tab CoreState
  clusters : Tab ClusterState
  tlb      : List TlbEntry
  /-- Scratchpads: byte a of core k at 0x110000 k + a. -/
  spad : Memory
  /-- Bench and bulk memory by physical address (log 6). -/
  mem  : Memory
  /-- Memory of other devices: byte a of device d at 2^43 d + a (R324). -/
  rmem : Memory
  /-- Poison marks (R358): by the first physical address of a protected unit of memory its bytes (8, or a line of bulk) and the
  structure whose error it was; bank words of scratchpads by global byte address / 16 (R357). -/
  poison : Tab (Nat × Nat)
  spadPoison : Tab Unit
  /-- Glaze counter blocks by channel * 2^18 + block; absent: all zero (R444). -/
  glaze  : Tab CounterBlock
  /-- The counter tree above them (R446): nodes by 2^40 level + channel * 2^18 + index; absent: all zero. -/
  glazeTree : Tab CounterBlock
  /-- What has been altered in bulk memory since Glaze wrote it, by `glazeKey` (R447). -/
  tampered : Tab Unit
  /-- Key slots of the Glaze instances that hold keys (R442): slot p of partition p, 128 + w of window w; each holds the
  number of the random draw of its data key, and of its metadata key. -/
  keys : Tab (Nat × Nat)
  /-- Physical addresses of the headers of frames (R258), which only the Joiner writes. -/
  headers : Tab Unit
  launches : Tab Launch
  lnchNext : Word
  parts    : Tab Partition
  copies   : List CopyOp
  czs      : List CzOp
  remotes  : List RemoteOp
  collectives : List Collective
  /-- Matrix faults and other work of exited bands need no more than the queues hold. Engines of a die's pool:
  holder by 128 die + 32 kind + engine (R438), standing leases of graphs, partition served last by 4 die + kind. -/
  engines  : Tab Nat
  standing : Tab Nat
  lastServed : Tab Nat
  /-- Kiln: mailbox pages (128 bytes each: command, response), the doorbells not yet served, windows, shoot-downs,
  the sequence number of Kiln's fault queue and the records sent there, proposals' next number. -/
  mail     : Memory
  doorbells : List Nat
  windows  : Tab Window
  shootdowns : List Shootdown
  kilnSeq  : Word
  kilnRecords : List (List Word)
  /-- The records that Wheel has been sent, oldest first: those of killed launches, and the reports of TASK_ENTRY (R403, R404). -/
  wheelRecords : List (List Word)
  serial   : Word
  proposalNext : Nat
  /-- Bulk channels; an absent one has nothing pending at the start of a window (R354). -/
  channels : Tab Channel
  /-- Device control page (R462). -/
  limit    : Nat
  capOn    : Bool
  power    : Nat
  locked   : Bool
  devid    : Nat
  ports    : Tab PortState
  iso      : Tab Nat
  /-- Clocks for which no slot has been occupied (R472). -/
  idle     : Nat
  /-- Units of the device that the control page reports: READY and BOOTERR (R461); held in reset (R471). -/
  ready    : Bool
  booterr  : Nat
  held     : Bool
  kilnVersion  : Word
  wheelVersion : Word
  kilnRollback  : Nat
  wheelRollback : Nat
  /-- The numbers of the images that run (R452): those of the resets that found them. -/
  kilnRun  : Nat
  wheelRun : Nat
  fuses    : Fuses
  /-- Vectors of the notifications sent to the host, oldest first (R463), and what its last reads returned. -/
  notes    : List Nat
  hostReads : List (List Byte)
  /-- Codes that the loader has reported, oldest first; 0 for an object that it has loaded (R119). -/
  loads : List Nat
  deriving DecidableEq, Repr

/-- The machine after the reset sequence (R456, R471): no partition, launch, band, window or key exists, every memory
is zero, READY is 1. The values for which the spec gives none are named in log 8: the cluster clocks and walk
generations, the fuses (a deployed device with nothing disabled), the firmware VERSIONs. -/
def State.reset : State where
  agenda := []
  cur := 0
  fresh := 0
  nextId := 1
  slots := []
  bands := []
  saved := []
  quads := []
  cores := []
  clusters := []
  tlb := []
  spad := []
  mem := []
  rmem := []
  poison := []
  spadPoison := []
  glaze := []
  glazeTree := []
  tampered := []
  keys := []
  headers := []
  launches := []
  lnchNext := 1
  parts := []
  copies := []
  czs := []
  remotes := []
  collectives := []
  engines := []
  standing := []
  lastServed := []
  mail := []
  doorbells := []
  windows := []
  shootdowns := []
  kilnSeq := 0
  kilnRecords := []
  wheelRecords := []
  serial := 0
  proposalNext := 1
  channels := []
  limit := 2400
  capOn := false
  power := 0
  locked := false
  devid := 0
  ports := []
  iso := []
  idle := 0
  ready := true
  booterr := 0
  held := false
  kilnVersion := 0
  wheelVersion := 0
  kilnRollback := 0
  wheelRollback := 0
  kilnRun := 0
  wheelRun := 0
  fuses := { life := 1, identity := some 0, minKiln := 0, minWheel := 0, disabledQuads := [], disabledBench := [] }
  notes := []
  hostReads := []
  loads := []

/-- A quadrant, core, cluster and slot as at reset. -/
def Quad.init : Quad :=
  { owner := 0, acc := [], accFmt := [], accOwn := [], accBad := [], queue := [], images := [], pipes := [], reserved := [] }
def CoreState.init : CoreState := { tiles := [], cbs := [], gangs := [], drain := [], cache := [], beats := [] }
def ClusterState.init : ClusterState :=
  { clk := 0, gen := 0, port := 9, busy := 0, fifos := [], hot := [], l2 := [], miss := [], walks := [] }
def SlotState.init : SlotState := { refuse := 0, state := 0, preq := false, count := 0, area := 0, moving := false }

/-- The tile entry of a tile that nothing has defined (R204). -/
def Tile.undefined : Tile := { base := 0, len := 0, state := 0, readers := 0, ver := 0, torn := false, opener := 0 }

end Sys2Proof.Machine
end

