-- ==== Sys2Proof/Machine/Bytes.lean ====
section
/-!
DEFINITION. Bits and bytes: fields of words, masks of lanes, little-endian byte strings (R3) and the bytes of the
model's sparse memories.
-/
namespace Sys2Proof.Machine

/-- Bits [hi:lo] of a number. -/
def field (x hi lo : Nat) : Nat := x / 2 ^ lo % 2 ^ (hi + 1 - lo)

/-- Bits [hi:lo] of a word. -/
def wfield (w : Word) (hi lo : Nat) : Nat := field w.toNat hi lo

def wbit (w : Word) (k : Nat) : Bool := w.getLsbD k

/-- A word from a number, modulo 2^32. -/
def w32 (n : Nat) : Word := BitVec.ofNat 32 n

def w32i (z : Int) : Word := BitVec.ofInt 32 z

def boolWord (c : Bool) : Word := if c then 1 else 0

/-- A number of n bytes in little-endian order. -/
def leBytes : Nat → Nat → List Byte
  | 0, _ => []
  | k + 1, x => BitVec.ofNat 8 x :: leBytes k (x / 256)

/-- The number that little-endian bytes stand for. -/
def leNat : List Byte → Nat
  | [] => 0
  | b :: bs => b.toNat + 256 * leNat bs

/-- Words of a byte string, four bytes each. -/
def leWords : Nat → List Byte → List Word
  | 0, _ => []
  | k + 1, bs => w32 (leNat (bs.take 4)) :: leWords k (bs.drop 4)

def wordsBytes (ws : List Word) : List Byte := ws.flatMap fun w => leBytes 4 w.toNat

/-- Bytes [off, off + n) of a byte string, as a number. -/
def leAt (bs : List Byte) (off n : Nat) : Nat := leNat ((bs.drop off).take n)

/-- Bytes cut where lines end. The fuel is the number of bytes. -/
def lineChunks : Nat → Nat → List Byte → List (Nat × List Byte)
  | 0, _, _ => []
  | n + 1, a, bs =>
    if bs.isEmpty then []
    else
      let k := 128 - a % 128
      (a, bs.take k) :: lineChunks n (a + k) (bs.drop k)

/-- The pieces of n bytes from an address on, one for each line: the address and the length of each. -/
def lineRuns : Nat → Nat → Nat → List (Nat × Nat)
  | 0, _, _ => []
  | f + 1, a, n =>
    if n = 0 then []
    else
      let k := min n (128 - a % 128)
      (a, k) :: lineRuns f (a + k) (n - k)

/-! ## Lanes -/

/-- Beat k of a mask (R8). -/
def beat (m : Lanes) (k : Nat) : Word := BitVec.ofNat 32 (m.toNat / 2 ^ (32 * k))

/-- The mask with beat k replaced. -/
def setBeat (m : Lanes) (k : Nat) (v : Word) : Lanes :=
  let keep : Lanes := ~~~((BitVec.ofNat 96 (2 ^ 32 - 1)) <<< (32 * k))
  (m &&& keep) ||| ((v.setWidth 96) <<< (32 * k))

/-- The mask of three beats. -/
def lanesOf (b0 b1 b2 : Word) : Lanes := b2 ++ b1 ++ b0

/-- The lanes of a mask, ascending. -/
def laneList (m : Lanes) : List Nat := (List.range 96).filter fun l => m.getLsbD l

def maskOf (ls : List Nat) : Lanes := ls.foldl (fun m l => m ||| BitVec.twoPow 96 l) 0

/-- The lowest lane of a mask. -/
def lowLane (m : Lanes) : Option Nat := (laneList m).head?

def popcount (m : Lanes) : Nat := (laneList m).length

/-- The lanes for which a condition holds. -/
def lanesWhere (f : Nat → Bool) : Lanes := maskOf ((List.range 96).filter f)

/-- The first n lanes. -/
def firstLanes (n : Nat) : Lanes := BitVec.ofNat 96 (2 ^ n - 1)

/-! ## Sparse memory -/

namespace Memory

/-- Reads one byte. -/
def byte (m : Memory) (a : Nat) : Byte := Tab.getD m a blank

/-- Writes one byte, keeping the canonical form. -/
def setByte (m : Memory) (a : Nat) (b : Byte) : Memory := Tab.setD m a b blank

/-- Reads n bytes from a. -/
def bytes (m : Memory) (a : Nat) : Nat → List Byte
  | 0 => []
  | n + 1 => m.byte a :: bytes m (a + 1) n

/-- Writes bytes from a on. -/
def setBytes (m : Memory) (a : Nat) : List Byte → Memory
  | [] => m
  | b :: bs => setBytes (m.setByte a b) (a + 1) bs

def num (m : Memory) (a n : Nat) : Nat := leNat (m.bytes a n)

/-- Drops every byte of [lo, hi): those addresses read as blank. -/
def wipe (m : Memory) (lo hi : Nat) : Memory := m.filter fun e => e.1 < lo || hi ≤ e.1

end Memory

end Sys2Proof.Machine

/-! ## Tables -/

namespace Sys2Proof.Tab

/-- A table of marks. -/
def has {α : Type} (t : Tab α) (k : Nat) : Bool := (t.find? k).isSome

def keys {α : Type} (t : Tab α) : List Nat := t.map Prod.fst

/-- Changes the entry of a key, starting from a default. -/
def modify {α : Type} (t : Tab α) (k : Nat) (dflt : α) (f : α → α) : Tab α := t.put k (f (t.getD k dflt))

/-- Changes the entry of a key if there is one. -/
def adjust {α : Type} (t : Tab α) (k : Nat) (f : α → α) : Tab α :=
  t.map fun e => if e.1 = k then (k, f e.2) else e

/-- Drops the entries whose key lies in [lo, hi). -/
def drop {α : Type} (t : Tab α) (lo hi : Nat) : Tab α := t.filter fun e => e.1 < lo || hi ≤ e.1

/-- The key of the first entry that meets a condition. -/
def keyWhere {α : Type} (t : Tab α) (p : Nat → α → Bool) : Option Nat :=
  (List.find? (fun e : Nat × α => p e.1 e.2) t).map Prod.fst

/-- The lowest key below n that has no entry. -/
def free? {α : Type} (t : Tab α) (n : Nat) : Option Nat := (List.range n).find? fun k => !t.has k

end Sys2Proof.Tab
end

