-- ==== Sys2Proof/Machine/Regs.lean ====
section
/-!
DEFINITION. The registers of a band and the parts of the machine that a slot lies in: every read and write of a
register goes through here, so that s0, the activity mask (R11, R20), the discards of R86 and the boundary bit of R37
are settled once.
-/
namespace Sys2Proof.Machine

/-- A band with nothing in it. -/
def Band.blank : Band where
  lnch := 0
  bid := 0
  level := 0
  cls := 0
  part := 0
  slot := 0
  rf := 32
  unit := 0
  role := 0
  work := 0
  occ := 0
  mask := 0
  prog := []
  trp := []
  pcur := 0
  tcur := 0
  inTrap := false
  sregs := []
  vregs := []
  disp := []
  fmts := []
  mr := 4
  tids := []
  gang := []
  streams := []
  olog := []
  results := []
  board := []
  thb := 0
  thl := 0
  tho := 0
  energy := 0
  latches := []
  tpc := 0
  tmr := 0
  tcause := 0
  tmask := 0
  frec := []
  rwpc := 0
  rwset := []
  rwn := 0
  rwmr := 4
  rwmask := 0
  boundary := false
  cmdEnds := []
  mfaults := []
  deliveries := []
  doom := none
  children := []
  kills := []
  killsExtra := 0
  fences := []
  first := none
  preAt := none
  fusing := none
  flash := false
  stopped := false
  suspended := []
  redirected := []
  preWhy := 0
  preSeq := 0
  accTiles := []
  accSaved := []
  accFmts := []
  brackets := []

/-! ## Where a slot lies (R32, R371) -/

def quadOf (slot : Nat) : Nat := slot / 8
def coreOf (slot : Nat) : Nat := slot / 32
def clusterOf (slot : Nat) : Nat := slot / 256
def dieOfCluster (c : Nat) : Nat := c / 8

namespace State

/-- The band that `exec` acts on. -/
def band (s : State) : Band := (s.bands.find? s.cur).getD Band.blank

def setBand (s : State) (b : Band) : State := { s with bands := s.bands.put s.cur b }

def modBand (s : State) (f : Band → Band) : State := s.setBand (f s.band)

def quad (s : State) (q : Nat) : Quad := s.quads.getD q Quad.init
def setQuad (s : State) (q : Nat) (v : Quad) : State := { s with quads := s.quads.put q v }
def core (s : State) (k : Nat) : CoreState := s.cores.getD k CoreState.init
def setCore (s : State) (k : Nat) (v : CoreState) : State := { s with cores := s.cores.put k v }
def cluster (s : State) (c : Nat) : ClusterState := s.clusters.getD c ClusterState.init
def setCluster (s : State) (c : Nat) (v : ClusterState) : State := { s with clusters := s.clusters.put c v }
def slot (s : State) (n : Nat) : SlotState := s.slots.getD n SlotState.init
def setSlot (s : State) (n : Nat) (v : SlotState) : State := { s with slots := s.slots.put n v }
def setPart (s : State) (p : Nat) (v : Partition) : State := { s with parts := s.parts.put p v }
def modPart (s : State) (p : Nat) (f : Partition → Partition) : State := { s with parts := s.parts.adjust p f }
def modLaunch (s : State) (l : Word) (f : Launch → Launch) : State := { s with launches := s.launches.adjust l.toNat f }

/-- Acts on the band of a slot, and leaves `cur` as it was. -/
def onSlot (s : State) (n : Nat) (f : State → State) : State := { f { s with cur := n } with cur := s.cur }

/-- Draws a free value (log 3). -/
def draw (s : State) : Word × State := (Config.freeWord s.fresh, { s with fresh := s.fresh + 1 })

/-- Draws the next sequence number of an operation. -/
def nextSeq (s : State) : Nat × State := (s.nextId, { s with nextId := s.nextId + 1 })

/-- The quadrant, core and cluster of `cur`. -/
def myQuad (s : State) : Nat := quadOf s.cur
def myCore (s : State) : Nat := coreOf s.cur
def myCluster (s : State) : Nat := clusterOf s.cur

/-- A reference to the band of `cur`. -/
def me (s : State) : BandRef := { lnch := s.band.lnch, bid := s.band.bid, slot := s.cur }

/-- The slot that now holds a band, if any does. -/
def slotOf? (s : State) (r : BandRef) : Option Nat :=
  s.bands.keyWhere fun _ b => b.lnch = r.lnch && b.bid = r.bid

end State

namespace Band

/-! ## The path table (R16) -/

def table (b : Band) : Tab PathEntry := if b.inTrap then b.trp else b.prog
def tableSize (b : Band) : Nat := if b.inTrap then 4 else 8
def ix (b : Band) : Nat := if b.inTrap then b.tcur else b.pcur
def entry (b : Band) (k : Nat) : PathEntry := b.table.getD k PathEntry.empty
def path (b : Band) : PathEntry := b.entry b.ix

def setEntry (b : Band) (k : Nat) (p : PathEntry) : Band :=
  if b.inTrap then { b with trp := b.trp.setD k p PathEntry.empty }
  else { b with prog := b.prog.setD k p PathEntry.empty }

def setPath (b : Band) (p : PathEntry) : Band := b.setEntry b.ix p

/-- Valid entries of the table in use, ascending. -/
def valid (b : Band) : List Nat := (List.range b.tableSize).filter fun k => (b.entry k).v

/-- Valid program entries. -/
def programPaths (b : Band) : Nat := ((List.range 8).filter fun k => (b.prog.getD k PathEntry.empty).v).length

/-- Byte address of the current path's next word, and of its unit (R36). -/
def pc (b : Band) : Addr := b.path.pc ++ (0 : BitVec 2)
def unitPC (b : Band) : Addr := if b.path.limm.isSome then b.pc - 4 else b.pc

/-- The word address of a byte address. -/
def wordAddr (a : Addr) : BitVec 46 := a.extractLsb' 2 46

/-- Switches to another entry of the table in use (R16). -/
def switchTo (b : Band) (k : Nat) : Band :=
  if k = b.ix then b else
  let out := b.setPath { b.path with mask := b.mask }
  let b := if b.inTrap then { out with tcur := k } else { out with pcur := k }
  { b with mask := b.path.mask &&& b.occ }

/-- Moves the current path to an address. A pending prefix is spent. -/
def goto (b : Band) (a : Addr) : Band :=
  b.setPath { b.path with pc := wordAddr a, rep := none, limm := none, wait := none }

/-- The unit of the current path is done (R92): a repetition that leaves others keeps the PC. -/
def advance (b : Band) : Band :=
  let p := b.path
  match p.rep with
  | some r =>
    if r.remaining > 1 then b.setPath { p with rep := some { r with remaining := r.remaining - 1 }, wait := none }
    else b.setPath { p with pc := p.pc + 1, rep := none, limm := none, wait := none }
  | none => b.setPath { p with pc := p.pc + 1, limm := none, wait := none }

/-! ## Scalar registers (R20) and predicates (R21) -/

def sreg (b : Band) (r : Nat) : Word :=
  if r = 0 then 0
  else if 60 ≤ r ∧ r ≤ 62 then beat b.mask (r - 60)
  else b.sregs.getD r 0

/-- The bare write: s0 discards, s60 to s62 keep only occupied lanes. -/
def setSreg (b : Band) (r : Nat) (v : Word) : Band :=
  if r = 0 then b
  else if 60 ≤ r ∧ r ≤ 62 then { b with mask := setBeat b.mask (r - 60) (v &&& beat b.occ (r - 60)) }
  else { b with sregs := b.sregs.setD r v 0 }

/-- A pair as a 64-bit number. -/
def spair (b : Band) (r : Nat) : Nat := (b.sreg r).toNat + 2 ^ 32 * (b.sreg (r + 1)).toNat

/-- The lanes of predicate k. -/
def pred (b : Band) (k : Nat) : Lanes :=
  lanesOf (b.sregs.getD (36 + 3 * k) 0) (b.sregs.getD (37 + 3 * k) 0) (b.sregs.getD (38 + 3 * k) 0)

/-! ## Vector registers (R23) -/

def vlane (b : Band) (r l : Nat) : Word := b.vregs.getD (96 * r + l) 0

def setVlane (b : Band) (r l : Nat) (v : Word) : Band := { b with vregs := b.vregs.setD (96 * r + l) v 0 }

/-- All 96 lanes of a vector register. -/
def vreg (b : Band) (r : Nat) : Tab Word := (List.range 96).filterMap fun l =>
  let x := b.vlane r l
  if x = 0 then none else some (l, x)

def setVreg (b : Band) (r : Nat) (m : Lanes) (vals : Tab Word) : Band :=
  (laneList m).foldl (fun b l => b.setVlane r l (vals.getD l 0)) b

/-! ## Other registers -/

def disp1 (b : Band) (k : Nat) : Addr := b.disp.getD k 0

/-- Format register k, with the reset format of R27 and R51: S 1, E 4, M 3, BIAS 7, SV 10, NZ 0. -/
def fmtReset : Word := w32 (1 + 4 * 2 + 3 * 2 ^ 4 + 7 * 2 ^ 7 + 2 * 2 ^ 15)

def fmtReg (b : Band) (k : Nat) : Word := b.fmts.getD k fmtReset

/-! ## Notes on writes (R37, R86, R88) -/

/-- The names of the pinned set (R37): bit 7 for a vector register. -/
def pinned (b : Band) : List Nat :=
  (List.range b.rwn).map fun j => field ((b.rwset.getD (j / 4) 0).toNat) (8 * (j % 4) + 7) (8 * (j % 4))

def isPinned (b : Band) (vec : Bool) (r : Nat) : Bool := b.pinned.any fun n => n = (if vec then 128 else 0) + r

/-- A write of a register takes lanes out of another write of it. -/
def RegWrite.less (vec : Bool) (r : Nat) (m : Lanes) (w : RegWrite) : RegWrite :=
  if w.vec = vec ∧ w.reg = r then { w with mask := w.mask &&& ~~~m } else w

/-- s60 to s62 are the mask of the path that names them: on two paths they are two registers (R16). -/
def apart (vec : Bool) (r p q : Nat) : Bool := !vec && 60 ≤ r && r ≤ 62 && p ≠ q

/-- The unit that now issues writes a register in the lanes m (all lanes for a scalar): results that are still to be written
lose the register in those lanes, and so does the replay of a logged instruction (R86, R88, R294). -/
def dropWrite (b : Band) (vec : Bool) (r : Nat) (m : Lanes) : Band :=
  { b with
    results := b.results.map fun e =>
      if e.inTrap = b.inTrap && !apart vec r e.path b.ix then { e with writes := e.writes.map (RegWrite.less vec r m) } else e
    olog := if b.inTrap then b.olog else b.olog.map fun e =>
      if apart vec r e.2.path b.ix then e
      else (e.1, { e.2 with drops := e.2.drops ++ [{ vec := vec, reg := r, mask := m, vals := [] }] }) }

/-- The unit that now issues has written a register in the lanes m, and has retired: the pinned set is checked too (R37,
R144). A form with no enabled lane has written nothing (R14). -/
def noteWrite (b : Band) (vec : Bool) (r : Nat) (m : Lanes) : Band :=
  { b.dropWrite vec r m with boundary := b.boundary || (m ≠ 0 && b.isPinned vec r) }

/-- A scalar write by the unit that issues. -/
def writeS (b : Band) (r : Nat) (v : Word) : Band := (b.setSreg r v).noteWrite false r (firstLanes 96)

/-- A vector write by the unit that issues, in the lanes m. -/
def writeV (b : Band) (r : Nat) (m : Lanes) (vals : Tab Word) : Band := (b.setVreg r m vals).noteWrite true r m

/-- A predicate write in the lanes m: the other bits keep their values (R14). -/
def writeP (b : Band) (k : Nat) (m x : Lanes) : Band :=
  let y := (b.pred k &&& ~~~m) ||| (x &&& m)
  if m = 0 then b else
  ((b.writeS (36 + 3 * k) (beat y 0)).writeS (37 + 3 * k) (beat y 1)).writeS (38 + 3 * k) (beat y 2)

/-- Applies a register write that was computed, except in lanes that were dropped. -/
def applyWrite (b : Band) (w : RegWrite) : Band :=
  if w.vec then b.setVreg w.reg w.mask w.vals
  else if w.mask = 0 then b else b.setSreg w.reg (w.vals.getD 0 0)

/-- The same of an instruction of path k, whose mask need not be the current one (R16). -/
def applyWriteOn (k : Nat) (b : Band) (w : RegWrite) : Band :=
  if apart w.vec w.reg k b.ix then
    let p := b.entry k
    if w.mask = 0 || !p.v then b
    else b.setEntry k { p with mask := setBeat p.mask (w.reg - 60) (w.vals.getD 0 0 &&& beat b.occ (w.reg - 60)) }
  else b.applyWrite w

/-- The boundary-required bit of R37. -/
def needBoundary (b : Band) : Band := { b with boundary := true }

end Band

/-- Vector values given lane by lane. -/
def laneVals (m : Lanes) (f : Nat → Word) : Tab Word := (laneList m).map fun l => (l, f l)

/-! ## Windows of long-latency results (R84, R85, R293) -/

/-- A window is closed on every path that it goes along. -/
def ResultEntry.closed (e : ResultEntry) : Bool := e.windows.all fun x => x.2 = 0

/-- The window is open for a path, which then reads the registers as they were before the instruction (R85). -/
def ResultEntry.opensFor (e : ResultEntry) (k : Nat) : Bool := 0 < e.windows.getD k 0

/-- A unit has issued on path k. -/
def countWindow (k : Nat) (t : Tab Nat) : Tab Nat := t.adjust k fun n => n - 1
def ResultEntry.count (k : Nat) (e : ResultEntry) : ResultEntry := { e with windows := countWindow k e.windows }

namespace Band

/-- Results that have arrived and whose windows are closed are written (R293). -/
def writeClosed (b : Band) : Band :=
  let done (e : ResultEntry) : Bool := e.arrived && e.closed
  { (b.results.filter done).foldl (fun b e => e.writes.foldl (Band.applyWriteOn e.path) b) b with
    results := b.results.filter fun e => !done e }

/-- A result retires with the writes that are left of it; a pinned register counts as written (R37, R144). -/
def retires (b : Band) (e : ResultEntry) : Band :=
  { b with boundary := b.boundary || e.writes.any fun w => w.mask ≠ 0 && b.isPinned w.vec w.reg }

/-- The windows of the results of the current mode, and of the logged instructions of the program, change together (R84, R88). -/
def mapWindows (b : Band) (f : Tab Nat → Tab Nat) : Band :=
  { b with
    results := b.results.map fun r => if r.inTrap = b.inTrap then { r with windows := f r.windows } else r
    olog := if b.inTrap then b.olog else b.olog.map fun e => (e.1, { e.2 with windows := f e.2.windows }) }

/-- Windows go along the new entry e too when a pbr splits it from the current path, of which the pbr was a unit (R84). -/
def splitWindows (b : Band) (e : Nat) : Band :=
  b.mapWindows fun t => match t.find? b.ix with
    | none => t
    | some n => t.put e (n - 1)

/-- Windows of the entries q go on along the current path after an rcv has merged them, with the fewest units that are left on
one of them (log 60). An entry that waited at the rcv has counted it; the current path counts it at the end of this unit. -/
def mergeWindows (b : Band) (q : List Nat) : Band :=
  let left (t : Tab Nat) (k : Nat) : Option Nat :=
    (t.find? k).map fun n => if k ≠ b.ix && (b.entry k).wait.isSome then n else n - 1
  b.mapWindows fun t => match (q ++ [b.ix]).filterMap (left t) with
    | [] => t
    | n :: ns => Tab.put (t.filter fun x => !q.contains x.1) b.ix (ns.foldl min n + 1)

/-- What belongs to the entries q belongs to the current path after an rcv has merged them: their results, their logged
instructions and the records to be delivered to them (log 60). -/
def adoptPaths (b : Band) (q : List Nat) : Band :=
  let new (k : Nat) : Nat := if q.contains k then b.ix else k
  { b with
    results := b.results.map fun r => if r.inTrap = b.inTrap then { r with path := new r.path } else r
    olog := if b.inTrap then b.olog else b.olog.map fun e => (e.1, { e.2 with path := new e.2.path })
    deliveries := if b.inTrap then b.deliveries else b.deliveries.map fun d => { d with path := new d.path } }

/-- The current path ends, and with it every window along it (R84). -/
def endWindows (b : Band) : Band :=
  writeClosed (b.mapWindows fun t => t.filter fun x => x.1 ≠ b.ix)

/-- Results of the current mode that have arrived, and that path k reads although another path's window still holds them. -/
def seenBy (b : Band) (k : Nat) : List Nat :=
  (b.results.filter fun e => e.arrived && e.inTrap = b.inTrap && !e.opensFor k).map (·.id)

/-- A held write of an instruction of path k and its register change places. -/
def exchangeWrite (k : Nat) (b : Band) (w : RegWrite) : Band × RegWrite :=
  if apart w.vec w.reg k b.ix then (b, w)
  else if w.vec then (b.setVreg w.reg w.mask w.vals, { w with vals := laneVals w.mask (b.vlane w.reg) })
  else if w.mask = 0 then (b, w)
  else (b.setSreg w.reg (w.vals.getD 0 0), { w with vals := [(0, b.sreg w.reg)] })

def exchangeWrites (k : Nat) : Band → List RegWrite → Band × List RegWrite
  | b, [] => (b, [])
  | b, w :: ws =>
    let (c, x) := exchangeWrite k b w
    let (d, xs) := exchangeWrites k c ws
    (d, x :: xs)

/-- The registers as a path sees them (R289): the held results of these numbers change places with their registers. Doing it
again, less what has been written meanwhile, undoes it. -/
def exchange (ids : List Nat) (b : Band) : Band :=
  let step (a : Band × List ResultEntry) (e : ResultEntry) : Band × List ResultEntry :=
    if ids.contains e.id then
      let (c, ws) := exchangeWrites e.path a.1 e.writes
      (c, a.2 ++ [{ e with writes := ws }])
    else (a.1, a.2 ++ [e])
  let (c, es) := b.results.foldl step (b, [])
  { c with results := es }

/-- A path waits in a form of a kind. -/
def waitsIn (b : Band) (kind : WaitKind) : Bool := b.prog.any fun e => e.2.v && e.2.wait.any fun w => w.kind = kind

/-- An instruction of the program that has issued and has not retired (R142): one of long latency (R293), or a store that waits for
tile readers (R12, R208). The other held paths keep their waits, or execute their word again (R295). -/
def unretired (b : Band) : Bool := (b.results.any fun e => !e.inTrap && !e.arrived) || b.waitsIn .tileStore

end Band

/-- A scalar register write. -/
def sWrite (r : Nat) (v : Word) : RegWrite := { vec := false, reg := r, mask := firstLanes 96, vals := [(0, v)] }

/-- A pair of scalar registers. -/
def sPair (r : Nat) (v : Nat) : List RegWrite := [sWrite r (w32 v), sWrite (r + 1) (w32 (v / 2 ^ 32))]

/-- A vector register write. -/
def vWrite (r : Nat) (m : Lanes) (vals : Tab Word) : RegWrite := { vec := true, reg := r, mask := m, vals := vals }

end Sys2Proof.Machine
end

