-- ==== Sys2Proof/Machine/Flags.lean ====
section
/-!
DEFINITION. The device has no flags register (R47, R125): what stands in for flags are MR, the guard and the predicates.
Here are the fields of MR and the checks on its values (R29 to R31), the enabled lanes (R13), and the conditions and
combinations of the compares (R178).
-/
namespace Sys2Proof.Machine

/-! ## Fields of MR (R29) -/

def mr.et (m : Word) : Nat := wfield m 3 0
def mr.rm (m : Word) : Nat := wfield m 6 4
def mr.gpi (m : Word) : Nat := wfield m 10 8
def mr.gpn (m : Word) : Bool := wbit m 11
def mr.gpe (m : Word) : Bool := wbit m 12
def mr.sub (m : Word) : Bool := wbit m 13
def mr.sat (m : Word) : Bool := wbit m 14
def mr.fr (m : Word) : Nat := wfield m 18 15

/-- The values that MODE, MODEI and a write of TMR may put into MR (R31). -/
def mr.valid (m : Word) : Bool :=
  mr.et m ≤ 10 && mr.rm m ≤ 5 && !wbit m 7 && wfield m 31 19 = 0 && (mr.gpe m || (!mr.gpn m && mr.gpi m = 0))

def mr.rounding (m : Word) : Rounding := (Rounding.ofCode (mr.rm m)).getD .rne

/-! ## Lanes -/

/-- Enabled of R13 for every lane, under an MR and an activity mask. -/
def enabledUnder (b : Band) (m : Word) (mask : Lanes) : Lanes :=
  if mr.gpe m then mask &&& (if mr.gpn m then ~~~(b.pred (mr.gpi m)) else b.pred (mr.gpi m)) else mask

def Band.enabled (b : Band) : Lanes := enabledUnder b b.mr b.mask

/-! ## Compares (R79, R178) -/

/-- The integer conditions; `un` has none. -/
def condHolds (c : CC) (x y : Int) : Bool :=
  match c with
  | .eq => x = y | .ne => x ≠ y | .lt => x < y | .le => x ≤ y | .gt => x > y | .ge => x ≥ y | .un => false

/-- The conditions on decoded values: −0 = +0, and a NaN makes only `ne` and `un` true. -/
def condHoldsF (c : CC) (x y : FVal) : Bool :=
  if x.isNan || y.isNan then (match c with | .ne | .un => true | .eq | .lt | .le | .gt | .ge => false)
  else match c, FVal.cmp x y with
    | .eq, o => o = .eq | .ne, o => o ≠ .eq | .lt, o => o = .lt | .le, o => o ≠ .gt | .gt, o => o = .gt
    | .ge, o => o ≠ .lt | .un, _ => false

/-- How a compare's bit meets the old one. -/
def combine (k : Comb) (old c : Lanes) : Lanes :=
  match k with
  | .set => c | .and => old &&& c | .or => old ||| c | .xor => old ^^^ c

end Sys2Proof.Machine
end

