-- ==== Sys2Proof/Machine/Access.lean ====
section
/-!
DEFINITION. Memory accesses: translation (R41, R413, R414), the checks of R474 in their order, and the reads and writes
of bytes by their place: scratchpad, this device's memory, another device's memory.
-/
namespace Sys2Proof.Machine

/-- A partition with nothing in it. -/
def Partition.blank : Partition where
  state := 0
  serial := 0
  object := 0
  quads := []
  bench := []
  groups := []
  ports := 0
  l2 := 0
  floor := 0
  fhbase := 0
  fhlen := 0
  svbase := 0
  svlen := 0
  leases := []
  signers := []
  weights := []
  handler := 0
  root1 := 0
  root2 := 0
  thb := 0
  thl := 0
  tho := 0
  fqring := 0
  fqsize := 0
  fqtail := 0
  fqhead := 0
  energy := 0
  caps := []
  objHash := []
  queues := []
  waiting := []
  lost := 0
  corrected := 0
  transient := 0
  lasting := 0
  graphTable := []
  graphs := []
  templates := []
  tasks := []
  heap := []
  cring := 0
  csize := 0
  cdoor := 0
  gtab := 0
  nextSeq := []
  ticks := []
  proposals := []
  initialising := false
  initTag := 0
  initPage := 0
  served := []
  credits := []

def State.part (s : State) (p : Nat) : Partition := s.parts.getD p Partition.blank

/-- The fault codes of R404 that forms raise. -/
def code.illegal : Nat := 0x1
def code.illegalPriv : Nat := 0x2
def code.pathFull : Nat := 0x3
def code.doubleFault : Nat := 0x4
def code.codePoison : Nat := 0x5
def code.addrForm : Nat := 0x10
def code.align : Nat := 0x11
def code.spadRange : Nat := 0x12
def code.spadOwner : Nat := 0x13
def code.atomSpace : Nat := 0x14
def code.memOwner : Nat := 0x15
def code.memPoison : Nat := 0x16
def code.copyFault : Nat := 0x17
def code.czForm : Nat := 0x18
def code.firstAbsent : Nat := 0x20
def code.secondAbsent : Nat := 0x23
def code.frameLevel : Nat := 0x30
def code.frameBound : Nat := 0x31
def code.frameDepth : Nat := 0x32
def code.frameHeap : Nat := 0x33
def code.frameHdr : Nat := 0x34
def code.launchClass : Nat := 0x35
def code.deadlineOver : Nat := 0x36
def code.deadlineRemote : Nat := 0x37
def code.gangOwner : Nat := 0x40
def code.gangBusy : Nat := 0x41
def code.gangFull : Nat := 0x42
def code.accOwner : Nat := 0x43
def code.accFmt : Nat := 0x44
def code.mtxFmt : Nat := 0x45
def code.mtxSparse : Nat := 0x46
def code.saggarRange : Nat := 0x47
def code.saggarImage : Nat := 0x48
def code.streamRec : Nat := 0x50
def code.streamUnset : Nat := 0x51
def code.tileState : Nat := 0x52
def code.tileBound : Nat := 0x53
def code.cbState : Nat := 0x54
def code.cbBusy : Nat := 0x55
def code.cbOver : Nat := 0x56
def code.cbUnder : Nat := 0x57
def code.scarfHandle : Nat := 0x60
def code.scarfGen : Nat := 0x61
def code.graphUnknown : Nat := 0x62
def code.graphHandle : Nat := 0x63
def code.graphState : Nat := 0x64
def code.graphRate : Nat := 0x65
def code.graphDeadlock : Nat := 0x66
def code.graphFit : Nat := 0x67
def code.graphFire : Nat := 0x68
def code.taskQueue : Nat := 0x69
def code.taskNode : Nat := 0x6A
def code.taskEntry : Nat := 0x6B
def code.collectiveAbort : Nat := 0x70

/-- A fault met by one lane, or by a uniform form (lane 127), with the fields of its record (R405, R406). -/
structure FaultAt where
  code : Nat
  lane : Nat := 127
  w : Bool := false
  fetch : Bool := false
  walk : Bool := false
  rmw : Bool := false
  cls : Nat := 0
  sz : Nat := 0
  va : Nat := 0
  d : List Word := []
  ipa : Nat := 0
  deriving DecidableEq, Repr

/-- Whether a code is replayable: delivered Q or K (R403, R404). -/
def isTranslation (c : Nat) : Bool := 0x20 ≤ c && c ≤ 0x25

/-- What an access needs. -/
structure Want where
  r : Bool
  w : Bool
  x : Bool := false
  n : Nat
  deriving DecidableEq, Repr

def Want.read (n : Nat) : Want := { r := true, w := false, n := n }
def Want.write (n : Nat) : Want := { r := false, w := true, n := n }
def Want.rmw (n : Nat) : Want := { r := true, w := true, n := n }

def log2size (n : Nat) : Nat := Nat.log2 n

/-! ## The two stages of translation (R413, R414) -/

/-- Why a walk failed: the code, the level reached, the entry read, whether a table entry was being fetched, and the
intermediate address for Kiln. -/
structure WalkErr where
  code  : Nat
  level : Nat
  entry : Nat
  walk  : Bool
  ipa   : Nat
  deriving DecidableEq, Repr

/-- The end of a walk. -/
structure Leaf where
  page : Nat
  size : Nat
  dev  : Option Nat
  ord  : Nat
  /-- Bits R, W, X. -/
  rights : Nat
  /-- The leaf's entry, which a record of a missing right shows (R406). -/
  entry : Nat
  deriving DecidableEq, Repr

/-- A malformed entry (R414) at a level. -/
def badForm (second : Bool) (level e : Nat) : Bool :=
  let t := field e 1 1
  let leaf := t = 0
  let rem := field e 8 8
  (level = 1 && t = 0) || (level = 3 && t = 1)
  || field e 15 9 ≠ 0 || field e 7 7 ≠ 0
  || (rem = 1 && !(second && leaf))
  || (field e 63 43 ≠ 0 && !(second && leaf && rem = 1))
  || (field e 6 5 ≠ 0 && (second || !leaf))
  || field e 6 5 = 3
  || (level = 2 && leaf && field e 20 16 ≠ 0)

def leafOf (second : Bool) (size e : Nat) : Leaf :=
  { page := field e 42 16 * 2 ^ 16, size := size
    dev := if second && field e 8 8 = 1 then some (field e 63 43) else none
    ord := field e 6 5, rights := field e 4 2, entry := e }

/-- The walk of one stage. `read` fetches an entry at an address of the tables. -/
def walkStage (second : Bool) (read : Nat → Except WalkErr Nat) (root va : Nat) : Except WalkErr Leaf :=
  let base := if second then code.secondAbsent else code.firstAbsent
  let err (k level e : Nat) : Except WalkErr Leaf :=
    .error { code := base + k, level := level, entry := e, walk := false, ipa := va }
  match read (root + 8 * field va 47 34) with
  | .error x => .error x
  | .ok e1 =>
  if field e1 0 0 = 0 then err 0 1 e1 else if badForm second 1 e1 then err 2 1 e1 else
  match read (field e1 42 16 * 2 ^ 16 + 8 * field va 33 21) with
  | .error x => .error x
  | .ok e2 =>
  if field e2 0 0 = 0 then err 0 2 e2 else if badForm second 2 e2 then err 2 2 e2 else
  if field e2 1 1 = 0 then .ok (leafOf second (2 ^ 21) e2) else
  match read (field e2 42 16 * 2 ^ 16 + 8 * field va 20 16) with
  | .error x => .error x
  | .ok e3 =>
  if field e3 0 0 = 0 then err 0 3 e3 else if badForm second 3 e3 then err 2 3 e3 else
  .ok (leafOf second (2 ^ 16) e3)

/-- Memory of other devices is keyed by device (R324). -/
def remoteKey (dev pa : Nat) : Nat := dev * 2 ^ 43 + pa

/-- The place of an address behind a second-stage leaf: remote where the leaf names another device than this one (R324). -/
def locOf (s : State) (dev : Option Nat) (pa : Nat) : Loc :=
  match dev with
  | none => .mem pa
  | some d => if d = s.devid then .mem pa else .remote d pa

/-- The second stage: an intermediate address to a leaf. -/
def stage2 (s : State) (part ipa : Nat) : Except WalkErr Leaf :=
  walkStage true (fun a => .ok (s.mem.num a 8)) (s.part part).root2 ipa

/-- A leaf lacks a right: the level that the walk reached, and the leaf's entry (R406, R414). -/
def permErr (second : Bool) (f : Leaf) (walk : Bool) (va : Nat) : WalkErr :=
  { code := (if second then code.secondAbsent else code.firstAbsent) + 1, level := if f.size = 2 ^ 21 then 2 else 3
    entry := f.entry, walk := walk, ipa := va }

/-- A device that a valid ISO entry names (R462, R469). -/
def isolated (s : State) (dev : Nat) : Bool := s.iso.any fun e => e.2 = 2 ^ 31 + dev

/-- A port of the partition is up. -/
def fabricUp (s : State) (part : Nat) : Bool := s.ports.any fun e => e.2.up && (s.part part).ports.testBit e.1

/-- Fetches a first-stage entry, which lies at an intermediate address (R413). One at an isolated device is a poisoned read (R469). -/
def readEntry1 (s : State) (part ipa : Nat) : Except WalkErr Nat :=
  match stage2 s part ipa with
  | .error x => .error { x with walk := true }
  | .ok f =>
    if f.rights % 2 = 0 then .error (permErr true f true ipa)
    else match locOf s f.dev (f.page + ipa % f.size) with
      | .mem a | .spad a => .ok (s.mem.num a 8)
      | .remote d a =>
        if isolated s d then .error { code := code.memPoison, level := 0, entry := a, walk := true, ipa := ipa }
        else .ok (s.rmem.num (remoteKey d a) 8)

/-- The rights that an access needs, as bits R, W, X (R414). -/
def Want.bits (k : Want) : Nat := k.r.toNat + 2 * k.w.toNat + 4 * k.x.toNat

def lacks (rights need : Nat) : Bool := Nat.land need rights ≠ need

/-- The combined translation of a page (R415): what a walk finds for the unit, whatever the access needs. -/
def walkBoth (s : State) (part va : Nat) : Except WalkErr TlbEntry :=
  match walkStage false (readEntry1 s part) (s.part part).root1 va with
  | .error x => .error x
  | .ok f1 =>
  let ipa := f1.page + va % f1.size
  match stage2 s part ipa with
  | .error x => .error x
  | .ok f2 =>
  let size := min f1.size f2.size
  .ok { unit := 0, part := part, va := va / size * size, size := size, pa := f2.page + ipa % f2.size / size * size
        dev := f2.dev, ord := f1.ord, rights1 := f1.rights, rights2 := f2.rights }

/-- The TLB entry that serves an address for a quadrant: its own or its core's (R415). -/
def tlbHit (s : State) (u : Issuer) (va : Nat) : Option TlbEntry :=
  s.tlb.find? fun e => (e.unit = u.quad || e.unit = 512 + u.core) && e.part = u.part && e.va ≤ va && va < e.va + e.size

/-- The first stage of a walk. -/
def stage1Leaf (s : State) (part va : Nat) : Except WalkErr Leaf :=
  walkStage false (readEntry1 s part) (s.part part).root1 va

/-- A walk for an address needs an entry that lies at another device. -/
def remoteTables (s : State) (part va : Nat) : Bool :=
  let reads (ipa : Nat) : Except WalkErr Nat :=
    match stage2 s part ipa with
    | .error x => .error x
    | .ok f => match locOf s f.dev (f.page + ipa % f.size) with
      | .remote d _ => if isolated s d then readEntry1 s part ipa else .error { code := 0, level := 0, entry := 0, walk := true, ipa := ipa }
      | .mem _ | .spad _ => readEntry1 s part ipa
  match walkStage false reads (s.part part).root1 va with
  | .error x => x.code = 0
  | .ok _ => false

/-- Translates an address through the paged tables for an access (R413 to R415). An entry of a buffer that lacks a right is walked
anew, so that the record shows what the tables hold (R415). A right that the first stage lacks is found before any fault of the
second (R474). -/
def paged (s : State) (u : Issuer) (va need : Nat) : Except WalkErr (Loc × Nat) :=
  match (tlbHit s u va).filter fun e => !lacks e.rights1 need && !lacks e.rights2 need with
  | some e => .ok (locOf s e.dev (e.pa + (va - e.va)), e.ord)
  | none =>
    match stage1Leaf s u.part va with
    | .error x => .error x
    | .ok f1 =>
    if lacks f1.rights need then .error (permErr false f1 false va)
    else
    let ipa := f1.page + va % f1.size
    match stage2 s u.part ipa with
    | .error x => .error x
    | .ok f2 =>
    if lacks f2.rights need then .error (permErr true f2 false ipa)
    else
    .ok (locOf s f2.dev (f2.page + ipa % f2.size), f1.ord)

/-! ## Owners and places -/

/-- The bulk channel of a physical address (log 6). -/
def channelOf (pa : Nat) : Nat := (pa - Config.bulkBase) / Config.bulkChannelBytes

def isBulk (pa : Nat) : Bool :=
  Config.bulkBase ≤ pa && channelOf pa < 256 && (pa - Config.bulkBase) % Config.bulkChannelBytes < Config.bulkChannelData

def isBench (pa : Nat) : Bool := pa < Config.benchUnits * Config.benchUnitBytes

/-- Where line n of an owner's bulk space lies: the channel and its line (R349). -/
def bulkLine (groups : List Nat) (n : Nat) : Nat × Nat :=
  let g := groups.flatMap fun k => (List.range 8).map fun j => 8 * k + j
  (g.getD (n % g.length) 0, n / g.length)

/-- The memory that a partition was granted (R430, R413). -/
def granted (s : State) (part pa : Nat) : Bool :=
  (isBench pa && (s.part part).bench.contains (pa / Config.benchUnitBytes))
  || (isBulk pa && (s.part part).groups.contains (channelOf pa / 8))

/-- MEM_OWNER after a paged translation: the unit's tag (R348). A place that is neither bench nor bulk memory has no
owner. -/
def foreign (s : State) (part pa : Nat) : Bool :=
  if isBench pa then !(s.part part).bench.contains (pa / Config.benchUnitBytes) else !isBulk pa

def inHeap (u : Issuer) (va : Nat) : Bool := u.heap && u.thb ≤ va && va - u.thb < u.thl

/-- A scratchpad address (R180). -/
def isSpad (va : Nat) : Bool := va / 2 ^ 32 = 0xFFFF

/-- Global scratchpad address. -/
def spadAt (core a : Nat) : Nat := Config.spadBytes * core + a

/-- The partition that owns slice q of a core (R344). -/
def sliceOwner (s : State) (core q : Nat) : Nat := (s.quad (4 * core + q)).owner

/-- The first address of the protected unit of a physical address (R357), and its bytes: a line of bulk memory, or 64 bits. -/
def unitOf (pa : Nat) : Nat × Nat := if isBulk pa then (pa / 128 * 128, 128) else (pa / 8 * 8, 8)

/-- The bulk channel of a physical address, and its line there: those of the owner's bulk space (R349, log 6). -/
def glazeLine (s : State) (pa : Nat) : Nat × Nat :=
  let c := channelOf pa
  let n := (pa - Config.bulkBase) % Config.bulkChannelBytes / 128
  match List.find? (fun e : Nat × Partition => e.2.groups.contains (c / 8)) s.parts with
  | none => (c, n)
  | some e => bulkLine e.2.groups ((8 * e.2.groups.idxOf (c / 8) + c % 8) * (Config.bulkChannelData / 128) + n)

/-- What Glaze has stored and checks on a read (R443, R447): level 0 a line with its tag, 1 a counter block, 2 and 3 the nodes of the
tree. The key of number `idx` of a channel. -/
def glazeKey (level ch idx : Nat) : Nat := 2 ^ 48 * level + 2 ^ 24 * ch + idx

/-- A line of bulk memory that has been written (R444). -/
def everWritten (s : State) (ch n : Nat) : Bool :=
  match s.glaze.find? (2 ^ 18 * ch + n / 64) with
  | none => false
  | some c => c.major ≠ 0 || c.minor.getD (n % 64) 0 ≠ 0

/-- The check of a line's read fails: its tag, where the line has been written, its counter block, or a node above it has been altered in
memory (R444, R447). -/
def glazeFails (s : State) (pa : Nat) : Bool :=
  !s.tampered.isEmpty && isBulk pa &&
    (let (ch, n) := glazeLine s pa
     (everWritten s ch n && s.tampered.has (glazeKey 0 ch n)) || s.tampered.has (glazeKey 1 ch (n / 64))
     || s.tampered.has (glazeKey 2 ch (n / 4096)) || s.tampered.has (glazeKey 3 ch (n / 262144)))

/-- The first poisoned unit that a range within one line touches: its address and the structure. A line of bulk memory whose check fails
reads as one (R447). -/
def poisoned? (s : State) (pa n : Nat) : Option (Nat × Nat) :=
  match List.find? (fun e : Nat × (Nat × Nat) => e.1 < pa + n && pa < e.1 + e.2.1) s.poison with
  | some e => some (e.1, e.2.2)
  | none => if glazeFails s pa then some (pa / 128 * 128, 5) else none

/-- The first byte of a range of a scratchpad that lies in a poisoned bank word. -/
def spadPoisoned? (s : State) (g n : Nat) : Option Nat :=
  if s.spadPoison.isEmpty then none
  else (List.range n).findSome? fun k => if s.spadPoison.has ((g + k) / 16) then some (g + k) else none

/-- Whether a byte of a range lies in a frame header (R259). -/
def touchesHeader (s : State) (pa n : Nat) : Bool :=
  (List.range n).any fun k => s.headers.has ((pa + k) / 64 * 64)

/-- The detail words of a poisoned read (R406). -/
def poisonDetail (pa kind : Nat) : List Word := [w32 pa, w32 (field pa 42 32), w32 kind]

/-- The offsets in a partition's collective ring at which a place of this device's memory lies, whatever address has led there: those
of the ring's 64 KiB pages whose place holds it (R465). -/
def ringOffsets (s : State) (part pa : Nat) : List Nat :=
  let p := s.part part
  if p.csize = 0 then []
  else (List.range ((p.cring % 2 ^ 16 + 64 * p.csize + 65535) / 2 ^ 16)).filterMap fun k =>
    let page := p.cring / 2 ^ 16 * 2 ^ 16 + 2 ^ 16 * k
    match walkBoth s part page with
    | .error _ => none
    | .ok e => match locOf s e.dev (e.pa + (page - e.va)) with
      | .mem a =>
        let va := page + (pa - a)
        if a ≤ pa && pa < a + 2 ^ 16 && p.cring ≤ va && va < p.cring + 64 * p.csize then some (va - p.cring) else none
      | .spad _ | .remote _ _ => none

/-- A TICK word of the collective ring lies among n bytes of this device's memory: its write issues a collective (R465). -/
def touchesTick (s : State) (part pa n : Nat) : Bool :=
  (s.part part).csize ≠ 0 && (List.range n).any fun k => (ringOffsets s part (pa + k)).any fun o => 60 ≤ o % 64

/-- Translation of an address that is no scratchpad address, and the checks after it (R474, 8 to 11). `hdr` says
whether a write of a header is refused, which it is for everyone but the Joiner. A DEADLINE launch makes no remote access and
issues no collective (R373, log 15). -/
def resolve (s : State) (u : Issuer) (va : Nat) (k : Want) (hdr : Bool) : Except FaultAt (Loc × Nat) :=
  let f : FaultAt := { code := 0, w := k.w, fetch := k.x, rmw := k.r && k.w, cls := u.cls, sz := log2size k.n, va := va }
  let after (pa ord : Nat) : Except FaultAt (Loc × Nat) :=
    if u.deadline && k.w && touchesTick s u.part pa k.n then .error { f with code := code.deadlineRemote }
    else if k.w && hdr && touchesHeader s pa k.n then .error { f with code := code.frameHdr }
    else match (if k.r || k.x then poisoned? s pa k.n else none) with
      | some e => .error { f with code := if k.x then code.codePoison else code.memPoison, d := poisonDetail e.1 e.2 }
      | none => .ok (.mem pa, ord)
  if inHeap u va then
    let pa := (va + u.tho) % 2 ^ 48
    if granted s u.part pa then after pa 1 else .error { f with code := code.memOwner }
  else
    match paged s u va k.bits with
    | .error x => .error { f with code := x.code, walk := x.walk, ipa := x.ipa
                                  d := if x.code = code.memPoison then poisonDetail x.entry 5
                                    else [w32 x.level, w32 x.entry, w32 (x.entry / 2 ^ 32), (s.cluster (u.core / 8)).gen] }
    | .ok (.mem pa, ord) =>
      if foreign s u.part pa then .error { f with code := code.memOwner }
      else after pa ord
    | .ok (.remote d pa, ord) =>
      if u.deadline then .error { f with code := code.deadlineRemote }
      else if isolated s d && (k.x || (k.r && !k.w)) then .error { f with code := code.memPoison, d := poisonDetail pa 5 }
      else .ok (.remote d pa, ord)
    | .ok (l, ord) => .ok (l, ord)

/-- A scratchpad access (R40): range, owner, poison. -/
def spadCheck (s : State) (u : Issuer) (va : Nat) (k : Want) : Except FaultAt (Loc × Nat) :=
  let f : FaultAt := { code := 0, w := k.w, cls := u.cls, sz := log2size k.n, va := va }
  let a := va % 2 ^ 32
  if a + k.n > Config.spadBytes then .error { f with code := code.spadRange }
  else if sliceOwner s u.core (a / Config.sliceBytes) ≠ u.part then .error { f with code := code.spadOwner }
  else match (if k.r then spadPoisoned? s (spadAt u.core a) k.n else none) with
    | some g => .error { f with code := code.memPoison, d := poisonDetail (g - spadAt u.core 0) 1 }
    | none => .ok (.spad (spadAt u.core a), 1)

/-- The checks of one access of a band in the order of R474, from ALIGN on. `atomic` refuses scratchpad addresses. -/
def access (s : State) (u : Issuer) (va : Nat) (k : Want) (atomic : Bool) : Except FaultAt (Loc × Nat) :=
  let f : FaultAt := { code := 0, w := k.w, rmw := k.r && k.w, cls := u.cls, sz := log2size k.n, va := va }
  if va % k.n ≠ 0 then .error { f with code := code.align }
  else if isSpad va then
    if atomic then .error { f with code := code.atomSpace } else spadCheck s u va k
  else resolve s u va k true

/-! ## Reading and writing bytes -/

/-- Bytes of a page of a window's images. -/
def pageBytes : Nat := 65536

/-- The window whose working image holds a physical address, and the offset of the byte in it (R331). -/
def windowAt (s : State) (pa : Nat) : Option (Nat × Window × Nat) :=
  let page := pa / pageBytes * pageBytes
  s.windows.findSome? fun (e : Nat × Window) =>
    (e.2.working.idxOf? page).map fun k => (e.1, e.2, k * pageBytes + pa % pageBytes)

/-- The physical address of an offset in an image. -/
def imageAt (pages : List Nat) (off : Nat) : Nat := pages.getD (off / pageBytes) 0 + off % pageBytes

/-- Where a read by a partition goes: the published image of a window line that is not dirty for it (R331). -/
def readPlace (s : State) (part pa : Nat) : Nat :=
  match windowAt s pa with
  | none => pa
  | some (_, w, off) =>
    if (if part = w.a then w.dirtyA else w.dirtyB).contains (off / 128) then pa else imageAt w.published off

/-- Marks the lines of a write to a window as dirty for its tenant (R331). -/
def markDirty (s : State) (part pa : Nat) : State :=
  match windowAt s pa with
  | none => s
  | some (n, w, off) =>
    let line := off / 128
    let add (ls : List Nat) : List Nat := if ls.contains line then ls else ls ++ [line]
    let w := if part = w.a then { w with dirtyA := add w.dirtyA } else { w with dirtyB := add w.dirtyB }
    { s with windows := s.windows.put n w }

/-- One more write of child k of a counter block (R445). -/
def CounterBlock.bump (c : CounterBlock) (k : Nat) : CounterBlock :=
  let m := c.minor.getD k 0
  if m = 127 then { major := c.major + 1, minor := [(k, 1)] } else { c with minor := c.minor.put k (m + 1) }

def CounterBlock.zero : CounterBlock := { major := 0, minor := [] }

/-- A write of a bulk line: its counter and the versions up to the root (R445, R446). -/
def glazeWrite (s : State) (pa : Nat) : State :=
  if isBulk pa then
    let (ch, n) := glazeLine s pa
    let tree (t : Tab CounterBlock) (level idx k : Nat) : Tab CounterBlock :=
      t.modify (2 ^ 40 * level + ch * 2 ^ 18 + idx) CounterBlock.zero fun c => c.bump k
    let l1 := tree s.glazeTree 1 (n / 4096) (n / 64 % 64)
    let l2 := tree l1 2 (n / 262144) (n / 4096 % 64)
    { s with glaze := s.glaze.modify (ch * 2 ^ 18 + n / 64) CounterBlock.zero (fun c => c.bump (n % 64)),
             glazeTree := tree l2 3 0 (n / 262144) }
  else s

/-- Clears the poison of the units that a write covers whole (R358). A line of bulk memory that is written whole has a new tag. -/
def unpoison (s : State) (pa n : Nat) : State :=
  { s with poison := s.poison.filter (fun e => !(pa ≤ e.1 && e.1 + e.2.1 ≤ pa + n))
           tampered := if n < 128 || s.tampered.isEmpty || !isBulk pa then s.tampered
             else let (ch, n) := glazeLine s pa; s.tampered.del (glazeKey 0 ch n) }

/-- The same of a scratchpad's bank words. -/
def unpoisonSpad (t : Tab Unit) (a n : Nat) : Tab Unit := t.filter fun e => !(a ≤ 16 * e.1 && 16 * e.1 + 16 ≤ a + n)

/-- Clocks after its fill at which a copy is given up at the latest (R326, R346). -/
def lineClocks : Nat := 65536

/-- A copy that was filled then may still serve. -/
def young (s : State) (core filled : Nat) : Bool := (s.cluster (core / 8)).clk.toNat < filled + lineClocks

/-- The bytes of the copy of a line in a core's L1, or in its frame cache, that serves a partition (R345). -/
def cached? (s : State) (u : Issuer) (frame : Bool) (key : Nat) : Option (List Byte) :=
  ((s.core u.core).cache.find? fun c => c.frame = frame && c.owner = u.part && c.line = key && young s u.core c.filled).map
    CacheLine.data

/-- The copy of a remote line in the L2 of a core's cluster (R326). -/
def l2Copy? (s : State) (u : Issuer) (key : Nat) : Option (List Byte) :=
  ((s.cluster (u.core / 8)).l2.find? fun c => c.remote && c.owner = u.part && c.line = key && young s u.core c.filled).map L2Line.data

/-- Bytes of a list replaced from an offset on. -/
def patch (bs : List Byte) (off : Nat) (new : List Byte) : List Byte :=
  bs.take off ++ new ++ bs.drop (off + new.length)

/-- A cluster's L2 gives up its copy of a remote line. -/
def dropL2 (s : State) (core key : Nat) : State :=
  let c := s.cluster (core / 8)
  if c.l2.isEmpty then s
  else s.setCluster (core / 8) { c with l2 := c.l2.filter fun x => !x.remote || x.line ≠ key }

/-- A write by a core reaches the copy that it holds (R345). A line of a window has one image for each tenant, so that
its copy is given up. -/
def writeCopy (s : State) (core key : Nat) (new : List Byte) (drop : Bool) : State :=
  let k := s.core core
  if k.cache.isEmpty then s else
  let cache :=
    if drop then k.cache.filter fun c => c.line ≠ key / 128 * 128
    else k.cache.map fun c => if c.line = key / 128 * 128 then { c with data := patch c.data (key % 128) new } else c
  s.setCore core { k with cache := cache }

/-- Bytes of this device's memory as a partition reads them. -/
def readMem (s : State) (part pa n : Nat) : List Byte := s.mem.bytes (readPlace s part pa) n

/-- The cluster whose engine owns a line (R351). -/
def owningCluster (pa : Nat) : Nat :=
  Nat.xor (Nat.xor (field pa 10 7) (field pa 14 11)) (Nat.xor (field pa 18 15) (field pa 22 19))

/-- A write to a line of a hot store makes it dirty (R352). The band of its last atomic stays the one that a writeback counts
against (R355). -/
def hotWrite (s : State) (pa : Nat) : State :=
  let line := pa / 128 * 128
  let c := s.cluster (owningCluster line)
  if c.hot.any fun h => h.line = line && !h.dirty then
    s.setCluster (owningCluster line) { c with hot := c.hot.map fun h => if h.line = line then { h with dirty := true } else h }
  else s

/-- Writes bytes of one line of this device's memory for a partition; `core` is the core that writes, if one does. -/
def writeMem (s : State) (part : Nat) (core : Option Nat) (pa : Nat) (bs : List Byte) : State :=
  let win := (windowAt s pa).isSome
  let s := hotWrite (glazeWrite (unpoison { markDirty s part pa with mem := s.mem.setBytes pa bs } pa bs.length) pa) pa
  match core with
  | none => s
  | some k => writeCopy s k pa bs win

/-- Bytes of another device as a core sees them: with its own writes that are still on their way (R325). -/
def withPosted (s : State) (core dev pa : Nat) (bs : List Byte) : List Byte :=
  s.remotes.foldl (fun bs r =>
    if r.core = core && r.dev = dev && !r.performed && r.req.isNone
    then (List.range bs.length).map fun k =>
      if r.pa ≤ pa + k && pa + k < r.pa + r.data.length then r.data.getD (pa + k - r.pa) 0 else bs.getD k 0
    else bs) bs

def readRemote (s : State) (core dev pa n : Nat) : List Byte :=
  withPosted s core dev pa (s.rmem.bytes (remoteKey dev pa) n)

/-- Which copies may serve a read: those of the core's L1, of its frame cache, or none (R326, R345). -/
inductive ReadBy where
  | l1 | frame | memory
  deriving DecidableEq, Repr

/-- The copy in the core that serves a read: none for an engine, and none for an SO page. -/
def ownCopy? (s : State) (u : Issuer) (by_ : ReadBy) (ord key : Nat) : Option (List Byte) :=
  if ord = 0 || u.cls ≠ 0 || by_ = .memory then none else cached? s u (by_ = .frame) key

/-- A read of n bytes within one line: by a copy in the core, for a remote line by one in its cluster's L2, or of the memory
(R326, R345). -/
def readAt (s : State) (u : Issuer) (l : Loc) (ord n : Nat) (by_ : ReadBy := .l1) : List Byte :=
  match l with
  | .spad a => s.spad.bytes a n
  | .mem pa =>
    match ownCopy? s u by_ ord (pa / 128 * 128) with
    | some c => (c.drop (pa % 128)).take n
    | none => readMem s u.part pa n
  | .remote d pa =>
    let key := remoteKey d (pa / 128 * 128)
    match ownCopy? s u by_ ord key with
    | some c => (c.drop (pa % 128)).take n
    | none => match (if ord = 0 || u.cls ≠ 0 || by_ = .memory then none else l2Copy? s u key) with
      | some c => withPosted s u.core d pa ((c.drop (pa % 128)).take n)
      | none => readRemote s u.core d pa n

/-- The key of the line that a place lies in. -/
def lineKey : Loc → Option Nat
  | .spad _ => none
  | .mem pa => some (pa / 128 * 128)
  | .remote d pa => some (remoteKey d (pa / 128 * 128))

/-- A read that the core's own cache does not serve has met a newer value than a copy in its other cache may hold: that copy is
given up, so that no later read of the thread goes back (R303). -/
def readThrough (s : State) (u : Issuer) (frame : Bool) (l : Loc) : State :=
  let k := s.core u.core
  if k.cache.all fun c => c.frame = frame then s
  else match lineKey l with
    | none => s
    | some key =>
      if (cached? s u frame key).isSome then s
      else s.setCore u.core { k with cache := k.cache.filter fun c => c.frame = frame || c.line ≠ key }

/-! ## Drain tables (R338, R377) -/

def modDrain (s : State) (core : Nat) (l : Word) (f : Drain → Drain) : State :=
  let k := s.core core
  s.setCore core { k with drain := k.drain.adjust l.toNat f }

def drainAdd (s : State) (core : Nat) (l : Word) (n : Nat) : State :=
  modDrain s core l fun d => { d with count := d.count + n }

def drainSub (s : State) (core : Nat) (l : Word) (n : Nat) : State :=
  modDrain s core l fun d => { d with count := d.count - n }

/-- Engines (classes C, M and X) write past the caches of the core; the core's own writes reach its copies (R345). -/
def Issuer.cores (u : Issuer) : Bool := u.cls = 0 || u.cls = 3

/-- A write of bytes within one line. A remote write is posted (R325): it waits among the remote operations. -/
def writeAt (s : State) (u : Issuer) (ref : BandRef) (l : Loc) (bs : List Byte) (ord : Nat := 1) : State :=
  match l with
  | .spad a => { s with spad := s.spad.setBytes a bs, spadPoison := unpoisonSpad s.spadPoison a bs.length }
  | .mem pa => writeMem s u.part (if u.cores then some u.core else none) pa bs
  | .remote d pa =>
    let (seq, s) := s.nextSeq
    let op : RemoteOp := { seq := seq, orig := seq, ref := ref, part := u.part, core := u.core, dev := d, pa := pa, data := bs,
                           req := none, performed := false, cls := u.cls, ord := ord, count := none }
    let s := dropL2 { drainAdd s u.core ref.lnch 1 with remotes := s.remotes ++ [op] } u.core (remoteKey d (pa / 128 * 128))
    if u.cores then writeCopy s u.core (remoteKey d pa) bs false else s

/-- Several writes, as of the lanes of one instruction or of a line operation, in their order (R184). Together they may cover
a protected unit whole (R358). -/
def writeMany (s : State) (u : Issuer) (ref : BandRef) (ws : List (Loc × List Byte × Nat)) : State :=
  let t := ws.foldl (fun s e => writeAt s u ref e.1 e.2.1 e.2.2) s
  if t.poison.isEmpty && t.spadPoison.isEmpty && t.tampered.isEmpty then t
  else
    let covers (a n : Nat) (spad : Bool) : Bool := (List.range n).all fun k => ws.any fun e => match e.1 with
      | .mem pa => !spad && pa ≤ a + k && a + k < pa + e.2.1.length
      | .spad g => spad && g ≤ a + k && a + k < g + e.2.1.length
      | .remote _ _ => false
    let lines := (ws.filterMap fun e => match e.1 with | .mem pa => some (pa / 128 * 128) | .spad _ | .remote _ _ => none).eraseDups
    { t with poison := t.poison.filter fun e => !covers e.1 e.2.1 false
             tampered := (lines.filter fun a => isBulk a && covers a 128 false).foldl (fun x a =>
               let (ch, n) := glazeLine t a
               x.del (glazeKey 0 ch n)) t.tampered
             spadPoison := t.spadPoison.filter fun e => !covers (16 * e.1) 16 true }

/-- The remote writes that took s to t belong to an operation (R335). -/
def owedBy (s t : State) (orig : Nat) : State :=
  { t with remotes := s.remotes ++ (t.remotes.drop s.remotes.length).map fun r => { r with orig := orig } }

/-- Line requests that no engine has applied: those in FIFOs and miss buffers. -/
def allRequests (s : State) : List LineReq :=
  s.clusters.flatMap fun (e : Nat × ClusterState) => (e.2.fifos.flatMap fun f => f.2) ++ e.2.miss

/-- Remote operations of an operation are not acknowledged yet, or its request to an engine is not performed. -/
def owes (s : State) (orig : Nat) : Bool := (s.remotes.any fun r => r.orig = orig) || (allRequests s).any fun r => r.orig = orig

/-- The issuer that the band of `cur` is, in an engine class. -/
def State.issuer (s : State) (cls : Nat) : Issuer :=
  { part := s.band.part, core := s.myCore, quad := s.myQuad, thb := s.band.thb, thl := s.band.thl, tho := s.band.tho
    cls := cls, heap := true, deadline := s.band.cls = 0 }

/-- The issuer that an engine is for a partition: it has no tensor heap and its addresses are those of R475. -/
def engineIssuer (part core cls : Nat) : Issuer :=
  { part := part, core := core, quad := 4 * core, thb := 0, thl := 0, tho := 0, cls := cls, heap := false, deadline := false }

/-- Reads the pieces of a range at device virtual addresses, each translated by its own. -/
def readRuns (s : State) (u : Issuer) (by_ : ReadBy) : List (Nat × Nat) → Except FaultAt (List Byte)
  | [] => .ok []
  | (a, n) :: rs =>
    match resolve s u (a % 2 ^ 48) (.read n) true with
    | .error f => .error f
    | .ok (l, ord) =>
      match readRuns s u by_ rs with
      | .error f => .error f
      | .ok bs => .ok (readAt s u l ord n by_ ++ bs)

/-- Reads n bytes at a device virtual address, line by line. -/
def readVirtual (s : State) (u : Issuer) (by_ : ReadBy) (va n : Nat) : Except FaultAt (List Byte) :=
  readRuns s u by_ (lineRuns n va n)

/-- The places of the pieces of a range to write. -/
def placesOf (s : State) (u : Issuer) (hdr : Bool) : List (Nat × List Byte) → Except FaultAt (List (Loc × List Byte × Nat))
  | [] => .ok []
  | (a, bs) :: rs =>
    match resolve s u (a % 2 ^ 48) (.write bs.length) hdr with
    | .error f => .error f
    | .ok (l, ord) =>
      match placesOf s u hdr rs with
      | .error f => .error f
      | .ok ws => .ok ((l, bs, ord) :: ws)

/-- Writes bytes at a device virtual address, line by line; nothing is written where a piece faults. -/
def writeVirtual (s : State) (u : Issuer) (ref : BandRef) (hdr : Bool) (va : Nat) (bs : List Byte) : Except FaultAt State :=
  match placesOf s u hdr (lineChunks bs.length va bs) with
  | .error f => .error f
  | .ok ws => .ok (writeMany s u ref ws)

end Sys2Proof.Machine
end

