-- ==== Sys2Proof/Machine/Ops.lean ====
section
/-!
DEFINITION. The shared operations: leaving gangs, ending and cancelling matrix commands, fault records and their queues,
killing a launch, taking an exception and returning from one (R142, R143, R407), and how the meaning of a form ends:
done, waiting, or faulted (R183, R295, R409).
-/
namespace Sys2Proof.Machine

/-- The outcome of a meaning. -/
abbrev Out := Host.Outcome State Fault Refusal

/-- The word of an instruction that has one. -/
def wordOf (i : Instr) : Word := w32 ((encode i).getD 0)

/-! ## Finding bands -/

/-- Changes a band wherever it is, bound or saved. -/
def modRef (s : State) (r : BandRef) (f : Band → Band) : State :=
  let g (e : Nat × Band) : Nat × Band := if e.2.lnch = r.lnch ∧ e.2.bid = r.bid then (e.1, f e.2) else e
  { s with bands := s.bands.map g, saved := s.saved.map g }

/-- Whether a band still exists. -/
def alive (s : State) (r : BandRef) : Bool :=
  (s.bands ++ s.saved).any fun e => e.2.lnch = r.lnch && e.2.bid = r.bid

/-! ## Gangs (R146 to R148) -/

/-- Check of R148: the phase flips when the arrivals reach the count. -/
def GangEntry.check (g : GangEntry) : GangEntry :=
  if g.arrivals > 0 ∧ g.arrivals ≥ g.count then { g with phase := !g.phase, arrivals := 0 } else g

/-- A gang of a core loses n members (R147). -/
def gangLose (s : State) (core g n : Nat) : State :=
  let k := s.core core
  match k.gangs.find? g with
  | none => s
  | some e =>
    if e.count ≤ n then s.setCore core { k with gangs := k.gangs.del g }
    else s.setCore core { k with gangs := k.gangs.put g { e with count := e.count - n }.check }

/-- The gangs that the lanes m of a band belong to. -/
def gangsOf (b : Band) (m : Lanes) : List Nat :=
  (List.range 64).filter fun g => (laneList m).any fun l => b.gang.find? l = some g

def membersIn (b : Band) (m : Lanes) (g : Nat) : Lanes :=
  lanesWhere fun l => m.getLsbD l && b.gang.find? l = some g

/-- The threads of the lanes m of a band leave their gangs, in the gang tables of the core. -/
def gangsLose (s : State) (core : Nat) (b : Band) (m : Lanes) : State :=
  (gangsOf b m).foldl (fun s g => gangLose s core g (popcount (membersIn b m g))) s

def Band.dropGangs (b : Band) (m : Lanes) : Band := { b with gang := b.gang.filter fun e => !m.getLsbD e.1 }

/-! ## Fault records (R405, R406) -/

/-- Pads or cuts a list of words. -/
def padWords (n : Nat) (ws : List Word) : List Word := (List.range n).map fun k => ws.getD k 0

/-- How a record is delivered (word 0, DEL). -/
def del.trap : Nat := 0
def del.guest : Nat := 1
def del.kiln : Nat := 2
def del.matrix : Nat := 3
def del.report : Nat := 4
def del.kill : Nat := 5

/-- A record. `log` is the log entry that holds the instruction; the IPA stands only in Kiln's copy. -/
def faultRecord (b : Band) (slot : Nat) (f : FaultAt) (dl : Nat) (log : Option Nat) (pc npc : Addr) (word : Word)
    (mask : Lanes) (seq : Word) : List Word :=
  let head := f.code % 2 ^ 16 + dl * 2 ^ 16 + (match log with | some j => 2 ^ 19 + j * 2 ^ 20 | none => 0)
  let bits := f.w.toNat + 2 * f.fetch.toNat + 4 * f.walk.toNat + 8 * f.rmw.toNat + 16 * f.cls + 256 * f.sz
  let ipa := if dl = del.kiln then f.ipa else 0
  [w32 head, b.lnch, w32 slot, b.bid, w32 pc.toNat, w32 (pc.toNat / 2 ^ 32), w32 npc.toNat, w32 (npc.toNat / 2 ^ 32),
   word, w32 f.lane, beat mask 0, beat mask 1, beat mask 2, w32 bits, w32 f.va, w32 (f.va / 2 ^ 32)]
  ++ padWords 8 f.d ++ [w32 ipa, w32 (ipa / 2 ^ 32), seq, w32 b.part, 0, 0, 0, 0]

/-- A record with its sequence number filled in. -/
def setSeq (rcd : List Word) (seq : Word) : List Word := rcd.set 26 seq

/-- A record waits for the partition's ring (R410). A and W records wait in a buffer of 256; one that finds it full is
dropped and counted. -/
def queueRecord (s : State) (part rid : Nat) (rcd : List Word) (kept : Bool) : State :=
  s.modPart part fun p =>
    if !kept && 256 ≤ (p.waiting.filter fun r => !r.kept).length then
      { p with lost := if p.lost = BitVec.allOnes 32 then p.lost else p.lost + 1 }
    else { p with waiting := p.waiting ++ [{ rid := rid, rcd := rcd, kept := kept }] }

/-- A record that goes to Wheel as well as to the partition's queue (R403). -/
def wheelRecord (s : State) (part : Nat) (rcd : List Word) : State :=
  queueRecord { s with wheelRecords := s.wheelRecords ++ [rcd] } part 0 rcd false

/-- An A record that no band traps for: of an engine's work for a band, or of the partition itself. -/
def reportFault (s : State) (part : Nat) (r : BandRef) (f : FaultAt) (pc : Addr) (word : Word) (mask : Lanes) : State :=
  let b := { Band.blank with lnch := r.lnch, bid := r.bid, part := part }
  queueRecord s part 0 (faultRecord b r.slot f del.report none pc pc word mask 0) false

/-! ## Energy (R440, R441) -/

/-- Adds energy to a partition's total, which saturates (R441). The argument is in units of 2^-10 nJ. -/
def addEnergy (s : State) (part e : Nat) : State :=
  s.modPart part fun p => { p with energy := min (p.energy + e) (2 ^ 64 * 1024 - 1) }

/-- Adds energy to a band's counter, which saturates. -/
def Band.addEnergy (b : Band) (e : Nat) : Band := { b with energy := min (b.energy + e) (2 ^ 48 * 1024 - 1) }

/-- Charges n times weight k: to the band, or to its partition once the band has exited. -/
def charge (s : State) (part : Nat) (r : BandRef) (k n : Nat) : State :=
  let e := n * ((s.part part).weights.getD k 0).toNat
  if e = 0 then s else if alive s r then modRef s r (·.addEnergy e) else addEnergy s part e

/-! ## The ends of matrix commands (R227, R249, R256) -/

/-- The consumer end of a buffer is unbound when the last command of a band that names it has retired (R241). -/
def freeCb (s : State) (q : Nat) (c : Cmd) : State :=
  match c.cb with
  | none => s
  | some n =>
    if c.firing.isSome || (s.quad q).queue.any fun x => x.cb = some n && x.ref.lnch = c.ref.lnch && x.ref.bid = c.ref.bid
    then s
    else
      let k := s.core (q / 4)
      s.setCore (q / 4) { k with cbs := k.cbs.adjust n fun b => { b with cons := none } }

/-- Matrix commands stop reading their tiles. -/
def dropReaders (s : State) (core : Nat) (tiles : List Nat) : State :=
  let k := s.core core
  s.setCore core { k with tiles := tiles.foldl (fun t n => t.adjust n fun x => { x with readers := x.readers - 1 }) k.tiles }

/-- A band that has threads: one whose last thread has exited may still hold its slot for results (R255). -/
def hasThreads (s : State) (r : BandRef) : Bool :=
  (s.bands ++ s.saved).any fun e => e.2.lnch = r.lnch && e.2.bid = r.bid && e.2.occ ≠ 0

/-- Frees the accumulator tiles whose band has exited and which no queued command names (R28): binary32, all zero (R231). -/
def freeAccs (s : State) (q : Nat) : State :=
  let qd := s.quad q
  let gone (e : Nat × AccOwner) : Bool :=
    match e.2 with
    | .band r => !hasThreads s r && !(qd.queue.any fun c => c.accs.contains e.1)
    | .graph _ _ => false
  let ts := (qd.accOwn.filter gone).map Prod.fst
  if ts.isEmpty then s else
  s.setQuad q { qd with
    accOwn := qd.accOwn.filter fun e => !gone e
    accFmt := qd.accFmt.filter fun e => !ts.contains e.1
    accBad := qd.accBad.filter fun e => !ts.contains e.1
    acc := qd.acc.filter fun e => !ts.contains (e.1 / 1024) }

/-- A command leaves the queue: its end is kept for its id, its tiles lose a reader, its operation is counted off. -/
def retireCmd (s : State) (q : Nat) (c : Cmd) (failed : Bool) (code : Nat) : State :=
  let qd := s.quad q
  let rest := (qd.queue.filter fun x => x.seq ≠ c.seq).map fun x =>
    if failed then x else { x with preds := x.preds.filter (· ≠ c.seq), after := x.after.filter (· ≠ c.seq) }
  let s := dropReaders (freeCb (s.setQuad q { qd with queue := rest }) q c) (q / 4) c.reads
  let s := modRef s c.ref fun b =>
    { b with cmdEnds := b.cmdEnds.put c.id { fn := c.fn, done := c.done, failed := failed, code := code } }
  freeAccs (drainSub s c.u.core c.ref.lnch 1) q

/-- Cancels commands of a quadrant until none is left that meets the condition or depends on one cancelled (R256). -/
def cancelCmds (q : Nat) : Nat → List Nat → (Cmd → Bool) → State → State
  | 0, _, _, s => s
  | n + 1, gone, p, s =>
    match (s.quad q).queue.find? fun c => p c || c.preds.any gone.contains || c.after.any gone.contains with
    | none => s
    | some c => cancelCmds q n (c.seq :: gone) p (retireCmd s q c true 0)

/-- The same of a whole queue, with the commands that are suspended in it. -/
def cancelAll (s : State) (q : Nat) (gone : List Nat) (p : Cmd → Bool) : State :=
  cancelCmds q (s.quad q).queue.length gone p s

/-- A graph takes a fault of a firing (R396, R399): it stops at the next boundary, and the fault is reported with the period of
the stage's firing. -/
def graphFault (s : State) (part : Nat) (handle : Word) (stage edge : Nat) (f : FaultAt) (d4 : Word) : State :=
  match (s.part part).graphs.find? handle.toNat with
  | none => s
  | some g =>
    let s := s.modPart part fun p => { p with graphs := p.graphs.adjust handle.toNat fun g =>
      { g with state := if g.state = 1 then 2 else g.state, faulted := true } }
    reportFault s part { lnch := 0, bid := 0, slot := 0 }
      { f with lane := 127, d := [w32 (stage + 256 * edge), 0, handle, w32 (((g.stages[stage]?).map fun x => x.period).getD g.period), d4] } 0 0 0

/-- A command faults (R249): it retires as faulted, its dependents are cancelled, and the fault waits for its band, or
becomes an A record when the band has exited. Its record names the command in D0 and D1 whatever the code (log 28). -/
def faultCmd (s : State) (q : Nat) (c : Cmd) (f : FaultAt) : State :=
  let f := { f with cls := 2, d := [w32 (c.id + 256 * c.fn), w32 c.done] ++ f.d.drop 2 }
  let s := cancelAll (retireCmd s q c true f.code) q [c.seq] fun _ => false
  match c.firing with
  | some (handle, stage) => graphFault s c.u.part handle stage 255 f 0
  | none =>
  if hasThreads s c.ref then
    modRef s c.ref fun b =>
      { b with mfaults := b.mfaults ++
        [{ order := c.seq, code := f.code
           rcd := faultRecord b c.ref.slot f del.matrix none c.pc c.pc c.word c.mask 0 }] }
  else reportFault s c.u.part c.ref f c.pc c.word c.mask

/-- The matrix faults that a band has not met become A records (R249). -/
def reportMatrix (s : State) (b : Band) : State :=
  b.mfaults.foldl (fun s f =>
    queueRecord s b.part 0 (f.rcd.set 0 (w32 (wfield (f.rcd.getD 0 0) 15 0 + del.report * 2 ^ 16))) false) s

/-! ## The end of a band and of a launch -/

/-- Brackets that a slot's band left open are abandoned: their close is still to come (R211). -/
def abandonBrackets (s : State) (slot : Nat) : State :=
  let k := s.core (coreOf slot)
  s.setCore (coreOf slot) { k with tiles := k.tiles.map fun e =>
    if e.2.ver % 2 = 1 ∧ e.2.opener = slot then (e.1, { e.2 with opener := 4096 }) else e }

/-- The open brackets of a saved band whose launch is killed are abandoned (R211). -/
def abandonSaved (s : State) (b : Band) : State :=
  b.brackets.foldl (fun s n =>
    let k := s.core (n / 1024)
    s.setCore (n / 1024) { k with tiles := k.tiles.adjust (n % 1024) fun t => { t with opener := 4096 } }) s

/-- An exited, killed or absorbed band leaves its slot (R255, R152): its brackets, its energy, its BANDS unit, its tiles. That the
brackets of an absorbed band are abandoned is the model's reading (log 18). -/
def bandGone (s : State) (slot : Nat) (b : Band) : State :=
  let s := addEnergy (abandonBrackets s slot) b.part b.energy
  let s := modDrain s (coreOf slot) b.lnch fun d => { d with bands := d.bands - 1 }
  let left := match b.cls, b.first with
    | 0, some t => [({ lnch := b.lnch, bid := b.bid, slot := slot }, t)]
    | _, _ => []
  let s := s.modLaunch b.lnch fun l => { l with exited := l.exited + 1, left := l.left ++ left }
  let old := s.slot slot
  let s := { s with bands := s.bands.del slot
                    slots := s.slots.setD slot { SlotState.init with refuse := old.refuse } SlotState.init }
  s.quads.foldl (fun s (e : Nat × Quad) => freeAccs s e.1) s

/-- The W record of a fault's record (R403): no instruction is held in a log any more. -/
def killRecord (rcd : List Word) : List Word := rcd.set 0 (w32 (wfield (rcd.getD 0 0) 15 0 + del.kill * 2 ^ 16))

/-- The W record of a band that did not fault itself (R405, R419): its NPC, and the detail of the code. -/
def plainRecord (b : Band) (slot code : Nat) (d : List Word) : List Word :=
  faultRecord b slot { code := code, lane := 0, d := d } del.kill none 0 b.unitPC 0 0 0

/-- One band of a killed launch: its W record, its gangs, its slot (R256, R419). -/
def killBand (s : State) (slot : Nat) (b : Band) (rcd : List Word) : State :=
  bandGone (gangsLose (wheelRecord s b.part rcd) (coreOf slot) b b.occ) slot b

/-- The detail word of the W records of a killed launch: WORK for a launch killed with DEADLINE_OVER (`0x36`), else
none. A firing has no WORK. -/
def killDetail (s : State) (l : Word) (code : Nat) : List Word :=
  match s.launches.find? l.toNat with
  | none => []
  | some x => match x.kind with
    | .firing _ _ => []
    | .queue _ | .child _ | .task _ => if code = 0x36 then [w32 x.work] else []

/-- Bands of a launch of n threads. -/
def bandsOf (n : Nat) : Nat := (n + 95) / 96

/-! ### The rotation of the queues of a class (R369) -/

/-- A launch with bands that are not bound yet. -/
def waitingLaunch (l : Launch) : Bool := l.killed.isNone && l.nbound < bandsOf l.n

/-- The queue that a launch counts under (R369): none for the firing of a graph, which has its slot. -/
def queueOf (l : Launch) : Option Nat :=
  match l.kind with
  | .queue q => some q
  | .child _ | .task _ => some 32
  | .firing _ _ => none

/-- The waiting launches of a class of a partition that take part in the rotation. -/
def waitersOf (s : State) (part cls : Nat) : List (Nat × Launch) :=
  s.launches.filter fun e => e.2.part = part && e.2.cls = cls && waitingLaunch e.2 && (queueOf e.2).isSome

def queueWeight (p : Partition) (q : Nat) : Nat :=
  if q = 32 then 16 else match p.queues.find? q with | none => 0 | some x => x.weight

/-- Queues of a class with waiting bands. -/
def waitingQueues (s : State) (part cls : Nat) : List Nat :=
  (List.range 33).filter fun q => (waitersOf s part cls).any fun e => queueOf e.2 = some q

def creditOf (p : Partition) (cls q : Nat) : Nat := p.credits.getD (64 * cls + q) (queueWeight p q)

/-- The credits of a new round of a class. -/
def refill (p : Partition) (cls : Nat) : Partition := { p with credits := p.credits.drop (64 * cls) (64 * cls + 64) }

/-- A round ends when queues have waiting bands and none of them has credit left; the next begins at once (log 34). -/
def endRound (s : State) (part cls : Nat) : State :=
  let qs := waitingQueues s part cls
  if qs.isEmpty || qs.any fun q => creditOf (s.part part) cls q > 0 then s else s.modPart part fun p => refill p cls

/-- A launch is killed (R256) with a code; `at_` is the BID of the band at fault, with its record. A saved
band has no slot. -/
def killLaunch (s : State) (l : Word) (code : Nat) (at_ : Option (Word × List Word)) : State :=
  let d := killDetail s l code
  let rcdOf (slot : Nat) (b : Band) : List Word :=
    match at_ with
    | some (n, r) => if n = b.bid then killRecord r else plainRecord b slot code d
    | none => plainRecord b slot code d
  let s := s.modLaunch l fun x => { x with killed := if x.killed.isSome then x.killed else some code }
  let s := (s.bands.filter fun e => e.2.lnch = l).foldl (fun s e => killBand s e.1 e.2 (rcdOf e.1 e.2)) s
  let s := (s.saved.filter fun e => e.2.lnch = l).foldl (fun s e =>
    let s := wheelRecord s e.2.part (rcdOf 0 e.2)
    let s := abandonSaved (gangsLose s (coreOf e.2.slot) e.2 e.2.occ) e.2
    let s := modDrain s ((coreOf e.2.slot)) l fun x => { x with bands := x.bands - 1 }
    let s := addEnergy s e.2.part e.2.energy
    let s := s.modLaunch l fun x => { x with exited := x.exited + 1 }
    { s with saved := s.saved.del e.1 }) s
  let s := s.quads.foldl (fun s (e : Nat × Quad) => freeAccs (cancelAll s e.1 [] fun c => c.ref.lnch = l) e.1) s
  match s.launches.find? l.toNat with
  | none => s
  | some x => endRound s x.part x.cls

/-- A poisoned value kills the launch of its band (R256, R358). -/
def poisonKills (s : State) (r : BandRef) (d : List Word) : State :=
  match List.find? (fun e : Nat × Band => e.2.lnch = r.lnch && e.2.bid = r.bid) (s.bands ++ s.saved) with
  | none => killLaunch s r.lnch code.memPoison none
  | some (_, b) => killLaunch s b.lnch code.memPoison (some (b.bid, plainRecord b b.slot code.memPoison d))

/-- A launch is killed by a record of one of its bands, with the record's code (R410). -/
def killBy (s : State) (b : Band) (rcd : List Word) : State :=
  killLaunch s b.lnch (wfield (rcd.getD 0 0) 15 0) (some (b.bid, rcd))

/-- A double fault (R412): D0 holds the cause of the fault in the handler, D1 TCAUSE. -/
def doubleFault (s : State) (cause : Word) (f : FaultAt) (pc npc : Addr) (word : Word) (mask : Lanes) : State :=
  let b := s.band
  let f := { f with code := code.doubleFault, d := [cause, b.tcause] }
  killLaunch s b.lnch code.doubleFault (some (b.bid, faultRecord b s.cur f del.kill none pc npc word mask 0))

/-! ## Taking an exception, and the return from it (R142, R143, R407, R411, R412) -/

/-- Trap entry of the band's current path: TPC, TCAUSE, TMR, TMASK and FREC are written, MR is reset, pending write
latches are cleared (R33), and trap entry 0 starts at the handler with the path's mask. -/
def Band.enterTrap (b : Band) (handler : Addr) (cause : Word) (tpc : Addr) (rcd : List Word) : Band :=
  { b with
    tpc := tpc, tcause := cause, tmr := b.mr, tmask := b.mask, mr := 4
    frec := ((List.range 32).map fun k => (k, rcd.getD k 0)).filter fun e => e.2 ≠ 0
    latches := b.latches.map fun (e : Nat × PairLatch) => (e.1, { e.2 with write := none })
    trp := [(0, { PathEntry.empty with v := true, pc := Band.wordAddr handler, mask := b.mask })]
    tcur := 0, inTrap := true }

/-- A T delivery on the current path of the band of `cur` (R403, R407). In trap mode it is a double fault (R412);
without a handler it kills the launch (R411). -/
def takeTrap (s : State) (cause : Word) (f : FaultAt) (dl : Nat) (log : Option Nat) (pc tpc : Addr) (word : Word)
    (mask : Lanes) : State :=
  let b := s.band
  if b.inTrap then doubleFault s cause f pc tpc word mask
  else
    let h := (s.part b.part).handler
    let rcd := faultRecord b s.cur f dl log pc tpc word mask 0
    if h = 0 then killLaunch s b.lnch f.code (some (b.bid, rcd)) else s.setBand (b.enterTrap h cause tpc rcd)

/-- A fault found before any lane has acted (R407): no log entry, and the word, or the LIMM of its pair, executes again
at TRET unless the handler moves TPC. -/
def trapEarly (s : State) (word : Word) (f : FaultAt) : State :=
  let b := s.band
  let pc := b.unitPC
  let b' := b.setPath { b.path with pc := Band.wordAddr pc, limm := none, wait := none }
  takeTrap (s.setBand b') (w32 f.code) f del.trap none pc pc word b.mask

/-- ILLEGAL and ILLEGAL_PRIV. -/
def trapIllegal (s : State) (word : Word) : State := trapEarly s word { code := code.illegal }
def trapPriv (s : State) (word : Word) : State := trapEarly s word { code := code.illegalPriv }

/-- A record that was made before the delivery enters the trap on the current path, between two units (R249, R410): its
PC and NPC are those of the unit that has not executed. -/
def trapRecord (s : State) (code : Nat) (rcd : List Word) : State :=
  let b := s.band
  let pc := b.unitPC
  let h := (s.part b.part).handler
  let rcd := (((rcd.set 4 (w32 pc.toNat)).set 5 (w32 (pc.toNat / 2 ^ 32))).set 6 (w32 pc.toNat)).set 7 (w32 (pc.toNat / 2 ^ 32))
  if h = 0 then killLaunch s b.lnch code (some (b.bid, rcd))
  else s.setBand ((b.setPath { b.path with pc := Band.wordAddr pc, limm := none }).enterTrap h (w32 code) pc rcd)

/-- The matrix fault of the command posted first (R249). -/
def firstFault : MatrixFault → List MatrixFault → MatrixFault
  | f, [] => f
  | f, g :: fs => firstFault (if g.order < f.order then g else f) fs

/-- Delivers a pending matrix fault, if there is one. -/
def deliverMatrix (s : State) : State :=
  match s.band.mfaults with
  | [] => s
  | f :: fs =>
    let g := firstFault f fs
    trapRecord (s.modBand fun b => { b with mfaults := b.mfaults.filter fun x => x.order ≠ g.order }) g.code g.rcd

/-- TRAP and BRK (R142): the cause, and whether TPC is the next word. -/
def takeCall (s : State) (cause : Word) (next : Bool) (word : Word) : State :=
  let b := s.band
  let pc := b.pc
  let b' := if next then b.advance else b
  takeTrap (if b.inTrap then s else s.setBand b') cause { code := cause.toNat } del.trap none pc
    (if next then pc + 4 else pc) word b.mask

/-- The return from trap mode (R143). The program path resumes at TPC, with the repetitions that are left (R92), and
in the wait that it was in (R295), unless the handler has moved TPC. -/
def Band.leaveTrap (b : Band) : Band :=
  let b' := { b with mr := b.tmr, mask := b.tmask &&& b.occ, trp := [], tcur := 0, inTrap := false,
                     latches := b.latches.map fun (e : Nat × PairLatch) => (e.1, { e.2 with write := none }) }
  let same := b'.path.pc = Band.wordAddr b.tpc
  b'.setPath { b'.path with pc := Band.wordAddr b.tpc, limm := none, rep := if same then b'.path.rep else none
                            wait := if same then b'.path.wait else none }

/-! ## How a form ends -/

/-- What a form that may wait or fault answers. -/
inductive Ans where
  /-- Done, with the register writes that its result makes. -/
  | done (ws : List RegWrite) (s : State)
  /-- The path waits in the form (R291). -/
  | wait (k : WaitKind) (phases : List (Nat × Bool)) (s : State)
  /-- Some lanes, or the form as a whole, faulted at execution: the faults, the lanes that replay (R183, R408), and
  the writes of the lanes that completed. -/
  | fault (fs : List FaultAt) (logMask : Lanes) (ws : List RegWrite) (s : State)
  /-- A fault before any lane has acted: no log entry (R407). -/
  | early (f : FaultAt)

/-- What a form captures at issue (R12, R38). -/
def capture (b : Band) (enabled : Lanes) (word : Word) (scalars vecs : List Nat) (la : Nat) : Captured :=
  { word := word, pc := b.unitPC, mr := b.mr, fmt := b.fmtReg (wfield b.mr 18 15), lanes := enabled, mask := b.mask
    scalars := scalars.map b.sreg, vecs := vecs.map b.vreg, la := la, wide := b.path.limm, thb := b.thb, thl := b.thl, tho := b.tho
    stream := none, pos := 0 }

/-- Writes results at once. -/
def Band.writeAll (b : Band) (ws : List RegWrite) : Band :=
  ws.foldl (fun b w => if w.vec then b.writeV w.reg w.mask w.vals else b.writeS w.reg (w.vals.getD 0 0)) b

/-- Delivers the results of a unit that issues: at once with LA = 0, else in a result entry (R84, R293). Results of older
units are discarded in the lanes that it writes (R86). -/
def deliver (s : State) (la : Nat) (ws : List RegWrite) : State :=
  if la = 0 then s.modBand (·.writeAll ws)
  else
    let (id, s) := s.nextSeq
    s.modBand fun b =>
      let e : ResultEntry := { id := id, order := id, inTrap := b.inTrap, path := b.ix, long := true, weight := none, windows := [(b.ix, la)]
                               writes := ws, arrived := false, pending := 0 }
      let c := ws.foldl (fun b w => b.dropWrite w.vec w.reg w.mask) b
      { c with results := c.results ++ [e] }

/-- The fault of the lowest lane (R183). -/
def lowestFault : FaultAt → List FaultAt → FaultAt
  | f, [] => f
  | f, g :: fs => lowestFault (if g.lane < f.lane then g else f) fs

/-- The lanes that a record names: those that faulted, or the activity mask for a uniform fault (R405). -/
def faultMask (c : Captured) (fs : List FaultAt) : Lanes :=
  if fs.any fun f => f.lane = 127 then c.mask else maskOf (fs.map (·.lane))

/-- A fault at execution is held in log entry j (R38, R407, R409). A translation fault lets the band run on and sends a
record to the partition's queue, or to Kiln's; any other is a trap at the next unit. -/
def logFault (s : State) (c : Captured) (j : Nat) (f : FaultAt) (mask logMask : Lanes) : State :=
  let b := s.band
  let npc := b.pc
  let (rid, s) := s.nextSeq
  let e : LogEntry := { wait := isTranslation f.code, cap := { c with lanes := logMask }, path := b.ix, order := rid
                        windows := if c.la = 0 then [] else [(b.ix, c.la)]
                        code := f.code, drops := [], rid := rid, seq := none, rcd := [] }
  let keep (e : LogEntry) (s : State) : State := s.modBand fun b => { b with olog := b.olog.put j e }
  if isTranslation f.code then
    if f.code < code.secondAbsent then
      let rcd := faultRecord b s.cur f del.guest (some j) c.pc npc c.word mask 0
      queueRecord (keep { e with rcd := rcd } s) b.part rid rcd true
    else
      let rcd := faultRecord b s.cur f del.kiln (some j) c.pc npc c.word mask s.kilnSeq
      let s := keep { e with seq := some (true, s.kilnSeq), rcd := rcd } s
      { s with kilnSeq := s.kilnSeq + 1, kilnRecords := s.kilnRecords ++ [rcd] }
  else takeTrap (keep e s) (w32 f.code) f del.trap (some j) c.pc npc c.word mask

/-- Ends the issue of a form on the current path. With every log entry in use a faulting form does not issue (R38). In trap
mode too the lanes that did not fault have had their effect (R183) when the double fault is taken. -/
def finish (c : Captured) (a : Ans) (s0 : State) : State :=
  match a with
  | .done ws s => (deliver s c.la ws).modBand Band.advance
  | .wait k ph s => s.modBand fun b =>
      b.setPath { b.path with wait := some { order := s.nextId, kind := k, cap := c, phases := ph, left := 0, rid := 0, seq := none, rcd := [] } }
  | .early f => trapEarly s0 c.word f
  | .fault [] _ ws s => (deliver s c.la ws).modBand Band.advance
  | .fault (f :: fs) logMask ws s =>
    let g := lowestFault f fs
    if s0.band.inTrap then takeTrap s (w32 g.code) g del.trap none c.pc c.pc c.word (faultMask c (f :: fs))
    else match s0.band.olog.free? 4 with
      | none => s0
      | some j =>
        let s := (if ws.isEmpty then s else deliver s c.la ws).modBand Band.advance
        logFault s c j g (faultMask c (f :: fs)) logMask

/-- Runs something on a path of the band of `cur` that need not be the current one (R16), and switches back. -/
def onPath (s : State) (k : Nat) (f : State → State) : State :=
  let i := s.band.ix
  let s' := f (s.modBand (·.switchTo k))
  if s'.bands.has s.cur && s'.band.inTrap = s.band.inTrap && (s'.band.entry i).v then s'.modBand (·.switchTo i) else s'

/-- The wait of a path, if it waits in a form of this kind. -/
def waiting? (b : Band) (k : Nat) (kind : WaitKind) : Option Wait :=
  match (b.entry k).wait with
  | some w => if w.kind = kind ∧ (b.entry k).v then some w else none
  | none => none

/-- The wait of a path of a band that runs: a save or a restore of the band keeps it (R295). A store that has issued is performed
before the save (R423, step 3). -/
def waitOf (s : State) (slot k : Nat) (kind : WaitKind) : Option Wait :=
  if (s.slot slot).state = 1 then (s.bands.find? slot).bind fun b => if b.stopped && kind ≠ .tileStore then none else waiting? b k kind
  else none

/-- What took s to t entered trap mode in a slot's band while instructions of the program had not retired: it has to wait
until they have (R142, R407). A store that what happened has just performed is no such instruction any more. -/
def trapHeld (slot : Nat) (s t : State) : Bool :=
  match s.bands.find? slot, t.bands.find? slot with
  | some b, some c => !b.inTrap && c.inTrap && ((b.results.any fun e => !e.inTrap && !e.arrived) || c.waitsIn .tileStore)
  | _, _ => false

/-- The state of an answer, changed. -/
def Ans.mapState (f : State → State) : Ans → Ans
  | .done ws s => .done ws (f s)
  | .wait k ph s => .wait k ph (f s)
  | .fault fs m ws s => .fault fs m ws (f s)
  | .early x => .early x

/-- The heap triple of the band of `cur`, where there is one. -/
def State.setHeap (s : State) (thb thl tho : Nat) : State :=
  if s.bands.has s.cur then s.modBand fun b => { b with thb := thb, thl := thl, tho := tho } else s

/-- What a form does with the heap triple of its issue, where the band has another one by now (R139). -/
def withHeap (form : Captured → State → Ans) (c : Captured) (s : State) : Ans :=
  let b := s.band
  if b.thb = c.thb && b.thl = c.thl && b.tho = c.tho then form c s
  else (form c (s.setHeap c.thb c.thl c.tho)).mapState fun t => t.setHeap b.thb b.thl b.tho

/-- A wait ends: the form goes on with what it captured (R12, R139). While its condition does not hold, nothing changes. -/
def wake (slot k : Nat) (kind : WaitKind) (form : Captured → State → Ans) (s : State) : State :=
  match waitOf s slot k kind with
  | none => s
  | some w =>
    let t := { s with cur := slot }
    match withHeap form w.cap (t.modBand (·.switchTo k)) with
    | .wait _ _ _ => s
    | a =>
      let u := { onPath t k (finish w.cap a) with cur := s.cur }
      if trapHeld slot s u then s else u

/-! ## Issuing -/

/-- Every meaning of an instruction word starts here: it needs a band in the slot, and its fields and operands must be
legal (R77, R78, R83), whatever lanes are enabled (R15). -/
def issue (i : Instr) (s : State) (legal : Band → Bool) (k : Band → State) : Out :=
  match s.bands.find? s.cur with
  | none => .refused .noBand
  | some b => if i.wf && legal b then .next (k b) else .next (trapIllegal s (wordOf i))

/-- A unit that only changes the band, and goes on to the next. -/
def unit (i : Instr) (s : State) (legal : Band → Bool) (f : Band → Band) : Out :=
  issue i s legal fun b => s.setBand (f b).advance

/-- A form with captured operands, which may wait or fault. -/
def form (i : Instr) (s : State) (legal : Band → Bool) (cap : Band → Captured) (k : Captured → State → Ans) : Out :=
  issue i s legal fun b => finish (cap b) (k (cap b) s) s

/-- A form that needs no more than its enabled lanes. -/
def always (_ : Band) : Bool := true

end Sys2Proof.Machine
end

