-- ==== Sys2Proof/Machine/Operands.lean ====
section
/-!
DEFINITION. Operand forms: immediates and their widening (R94), scalar pairs as addresses (R22, R179), elements of vector
registers under MR.ET (R24, R46, R155, R157), and which register numbers are legal for a band (R23, R24).
-/
namespace Sys2Proof.Machine

/-! ## Immediates -/

/-- A signed immediate, or the widened one after a LIMM (R94). -/
def wideImm {n : Nat} (limm : Option (BitVec 27)) (x : BitVec n) : Word :=
  match limm with
  | none => x.signExtend 32
  | some h => w32 (h.toNat * 32 + x.toNat % 32)

def Band.imm {n : Nat} (b : Band) (x : BitVec n) : Word := wideImm b.path.limm x

/-- The byte offset of a memory operand: the scaled field, or the sign-extended imm32 after a LIMM (R94, R179). -/
def memOffset {n : Nat} (limm : Option (BitVec 27)) (x : BitVec n) (size : Nat) : Int :=
  match limm with
  | none => (x.toNat * size : Nat)
  | some _ => (wideImm limm x).toInt

/-! ## Address pairs (R22) -/

/-- The address of a pair of words, unless bits [31:16] of the high word are set. -/
def pairAddr (lo hi : Word) : Option Nat :=
  if wfield hi 31 16 = 0 then some (lo.toNat + 2 ^ 32 * hi.toNat) else none

/-- A base address plus a signed offset, modulo 2^48 (R179). -/
def ea (base : Nat) (off : Int) : Nat := ((base + off) % 2 ^ 48).toNat

/-- A uniform ADDR_FORM fault (R179). -/
def addrForm (cls : Nat) (w rmw : Bool) (sz : Nat) : FaultAt :=
  { code := code.addrForm, cls := cls, w := w, rmw := rmw, sz := sz }

/-! ## Element types (R155) -/

/-- An element type with the descriptor that goes with it. -/
structure Ty where
  et  : ET
  fmt : Fmt
  deriving DecidableEq, Repr

/-- The type of an ET code, with the format register's value for fmt. -/
def Ty.of (code : Nat) (fr : Word) : Ty :=
  match (ET.ofCode code).getD .i32 with
  | .f16 => { et := .f16, fmt := Fmt.binary16 }
  | .bf16 => { et := .bf16, fmt := Fmt.bfloat16 }
  | .f32 => { et := .f32, fmt := Fmt.binary32 }
  | .f64 => { et := .f64, fmt := Fmt.binary64 }
  | .fmt => { et := .fmt, fmt := Fmt.ofReg fr }
  | e => { et := e, fmt := Fmt.binary32 }

/-- The lane width W. -/
def Ty.width (t : Ty) : Nat :=
  match t.et with
  | .i8 | .n8 => 8
  | .i16 | .n16 | .f16 | .bf16 => 16
  | .i32 | .n32 | .f32 => 32
  | .f64 => 64
  | .fmt => t.fmt.width

def Ty.isInt (t : Ty) : Bool := t.et.isInt
def Ty.isFloat (t : Ty) : Bool := !t.et.isInt
def Ty.is64 (t : Ty) : Bool := t.et = .f64
def Ty.signed (t : Ty) : Bool := t.et.signed

/-- The type that MR selects, and any other ET code under the same MR.FR (R168). -/
def Band.tyCode (b : Band) (c : Nat) : Ty := Ty.of c (b.fmtReg (mr.fr b.mr))
def Band.ty (b : Band) : Ty := b.tyCode (mr.et b.mr)

/-- The W-bit code that register v holds in lane l; a pair for f64 (R157). -/
def Band.code (b : Band) (t : Ty) (v l : Nat) : Nat :=
  if t.is64 then (b.vlane v l).toNat + 2 ^ 32 * (b.vlane (v + 1) l).toNat else (b.vlane v l).toNat % 2 ^ t.width

/-- A code read as an integer of the type, and in either view. -/
def intOf (signed : Bool) (w code : Nat) : Int := wrapInt code signed w
def Band.rdInt (b : Band) (t : Ty) (v l : Nat) : Int := intOf t.signed t.width (b.code t v l)

/-- Rd for the float kinds (R157), with the flush of MR.SUB. -/
def Band.rdVal (b : Band) (t : Ty) (v l : Nat) : FVal := fread (mr.sub b.mr) (b.code t v l) t.fmt

/-- An integer as a code of w bits. -/
def codeOf (x : Int) (w : Nat) : Nat := (x % 2 ^ w).toNat

/-- The 32-bit register value that Wr puts for a code of a type of at most 32 bits (R46). -/
def wrWord (t : Ty) (code : Nat) : Word :=
  let c := code % 2 ^ t.width
  if t.signed then w32i (wrapInt c true t.width) else w32 c

/-- Wr in the lanes m (R157): the register, or the pair for f64. The values are those of before the write. -/
def Band.wr (_ : Band) (t : Ty) (v : Nat) (m : Lanes) (f : Nat → Nat) : List RegWrite :=
  let codes := (laneList m).map fun l => (l, f l)
  if t.is64 then
    [vWrite v m (codes.map fun e => (e.1, w32 e.2)), vWrite (v + 1) m (codes.map fun e => (e.1, w32 (e.2 / 2 ^ 32)))]
  else [vWrite v m (codes.map fun e => (e.1, wrWord t e.2))]

/-- A scalar result of a type: one register, or the pair for f64 (R175). -/
def scalarResult (t : Ty) (d code : Nat) : List RegWrite :=
  if t.is64 then sPair d code else [sWrite d (wrWord t code)]

/-! ## Register numbers -/

/-- n vector registers from v lie within the allocation (R23). -/
def Band.vregs? (b : Band) (v n : Nat) : Bool := v + n ≤ b.rf

/-- An element operand: one register, or an even pair for f64 (R24). -/
def Band.elem? (b : Band) (t : Ty) (v : Nat) : Bool :=
  if t.is64 then v % 2 = 0 && b.vregs? v 2 else b.vregs? v 1

/-- A scalar that carries an element: even for f64. -/
def scalarElem? (t : Ty) (r : Nat) : Bool := !t.is64 || r % 2 = 0

/-- The word at the unit's fields and the lanes enabled now: the captured operands of a form (R12). -/
def Band.cap (b : Band) (i : Instr) (scalars vecs : List Nat) (la : Nat) : Captured :=
  capture b b.enabled (wordOf i) scalars vecs la

end Sys2Proof.Machine
end

