-- ==== Sys2Proof/Machine/Traffic.lean ====
section
/-!
DEFINITION. What accesses ask of the banks of a scratchpad slice (R340 to R343) and of the bulk channels (R354 to R356). Both
order requests in time only: an access has its effect where its own rule says (log 10, log 58).
-/
namespace Sys2Proof.Machine

/-! ## Who and when -/

/-- The band as launches and requests name it. -/
def refOf (b : Band) : BandRef := { lnch := b.lnch, bid := b.bid, slot := b.slot }

/-- No band. -/
def nobody : BandRef := { lnch := 0, bid := 0, slot := 0 }

/-- The cycle counter of a cluster (R34). -/
def clockOf (s : State) (cluster : Nat) : Nat := (s.cluster cluster).clk.toNat

/-! ## Slices (R340 to R343) -/

/-- The slice, counted over the device, and the words there, of some bytes of a scratchpad (R340). -/
def spadWords (g n : Nat) : List (Nat × Nat) :=
  (List.range ((g % 16 + n + 15) / 16)).map fun k => ((g / 16 + k) / 17408, (g / 16 + k) % 17408)

/-- A beat takes its place behind those that arrived before it, and of one clock those of a lower quadrant (R343). -/
def insertBeat (b : Beat) (l : List Beat) : List Beat :=
  let before (x : Beat) : Bool := x.arrival < b.arrival || (x.arrival = b.arrival && x.quad ≤ b.quad)
  l.filter before ++ [b] ++ l.filter fun x => !before x

/-- The words that one beat touches go to their slices; lanes that touch one word are served together (R341). -/
def sendBeat (s : State) (core quad arrival : Nat) (ws : List (Nat × Nat)) : State :=
  (List.range 4).foldl (fun s k =>
    let words := ((ws.filter fun e => e.1 = 4 * core + k).map Prod.snd).eraseDups
    if words.isEmpty then s
    else s.setCore core { s.core core with beats := insertBeat { arrival := arrival, slice := k, quad := quad, words := words } (s.core core).beats }) s

/-- The number of a quadrant in the order of R343 for requests of the core's copy engine, which are no quadrant's: above those of the
four quadrants. -/
def noQuad : Nat := 4

/-- Pending beats that a slice holds at most from one quadrant (R343). -/
def beatLimit : Nat := 8

/-- The beats that a slice takes in a clock: one that arrives while the slice holds as many of its quadrant as it can comes a clock
later. -/
def admitBeats (now : Nat) (l : List Beat) : List Beat :=
  l.foldl (fun acc b =>
    let mine := acc.filter fun x => x.slice = b.slice && x.quad = b.quad && x.arrival ≤ now
    insertBeat (if b.arrival = now && b.quad ≠ noQuad && beatLimit ≤ mine.length then { b with arrival := now + 1 } else b) acc) []

/-- Some slice of the core holds as many pending beats of a quadrant as it can (R343). -/
def slicesFull (s : State) (quad : Nat) : Bool :=
  let now := clockOf s (quad / 32)
  let mine := (s.core (quad / 4)).beats.filter fun b => b.quad = quad % 4 && b.arrival ≤ now
  (List.range 4).any fun k => beatLimit ≤ (mine.filter fun b => b.slice = k).length

/-- One bank word per bank in a clock: the words of a beat that are left, and the banks then taken (R341). -/
def serveWords (slice : Nat) : List Nat → List (Nat × Nat) → List Nat × List (Nat × Nat)
  | [], used => ([], used)
  | w :: ws, used =>
    let bank := (slice, w % 17)
    if used.contains bank then
      let r := serveWords slice ws used
      (w :: r.1, r.2)
    else serveWords slice ws (bank :: used)

/-- Clocks that a request waits behind the A fetch at most (R343). -/
def fetchWait : Nat := 17

/-- The beats that are left after one clock, in which the A fetches claim some banks. -/
def serveBeats (now : Nat) (claimed : List (Nat × Nat)) : List Beat → List (Nat × Nat) → List Beat
  | [], _ => []
  | b :: bs, used =>
    if now < b.arrival then b :: serveBeats now claimed bs used
    else
      let late := b.arrival + fetchWait ≤ now
      let r := serveWords b.slice b.words (if late then used else claimed ++ used)
      let used := if late then r.2 else r.2.filter fun x => used.contains x || !claimed.contains x
      let rest := serveBeats now claimed bs used
      if r.1.isEmpty then rest else { b with words := r.1 } :: rest

/-! ## Bulk channels (R354 to R356) -/

/-- Line transfers of a window, and the most that floors may take of it (R354). -/
def windowLines : Nat := 1024
def floorLines : Nat := 921

/-- Some L2 holds a line of this device's memory, and serves it without its channel (R347). -/
def inL2 (s : State) (line : Nat) : Bool := s.clusters.any fun e => e.2.l2.any fun x => x.line = line && !x.remote

/-- A line of bulk memory asks its channel (R349) for a transfer that counts against an owner (R355), and for a band's account if one
asks (R440). -/
def demandLine (s : State) (part : Nat) (ref : BandRef) (line : Nat) : State :=
  if isBulk line then
    { s with channels := s.channels.modify (glazeLine s line).1 Channel.idle fun c => { c with pending := c.pending ++ [{ part := part, ref := ref }] } }
  else s

/-- The lines of this device's memory among some pieces, each once. -/
def linesOf (ps : List (Loc × Nat)) : List Nat :=
  (ps.filterMap fun p => match p.1 with | .mem pa => some (pa / 128 * 128) | .spad _ | .remote _ _ => none).eraseDups

/-- The words of a scratchpad among some pieces. -/
def wordsOf (ps : List (Loc × Nat)) : List (Nat × Nat) :=
  ps.flatMap fun p => match p.1 with | .spad g => spadWords g p.2 | .mem _ | .remote _ _ => []

/-- The port of a core at a cluster's engine. -/
def corePort (core n : Nat) : Nat := if core / 8 = n then core % 8 else 8

/-- Plain accesses to a line that is hot are accepted by its engine (R352, R353): the line is the most recently used. Those of a core come
by its port. -/
def hotAccess (s : State) (core : Option Nat) (line : Nat) : State :=
  let n := owningCluster line
  let c := s.cluster n
  match c.hot.find? fun h => h.line = line with
  | none => s
  | some h =>
    let c := { c with hot := h :: c.hot.filter fun h => h.line ≠ line }
    s.setCluster n (match core with
      | none => c
      | some k => { c with busy := c.busy + 1, port := corePort k n })

/-- The lines of other devices among some pieces, each once. -/
def remoteLines (ps : List (Loc × Nat)) : List (Nat × Nat) :=
  (ps.filterMap fun p => match p.1 with | .remote d pa => some (d, pa / 128) | .spad _ | .mem _ => none).eraseDups

/-- A line of another device that is read or written takes one request flit (R464), charged by weight 14 (R440). -/
def chargeFlits (s : State) (part : Nat) (ref : BandRef) (ps : List (Loc × Nat)) : State :=
  if (remoteLines ps).isEmpty then s else charge s part ref 14 (remoteLines ps).length

/-- The pieces that an engine reads and writes for a band or a partition ask the slices and the channels. Those of matrix commands
are requests of their quadrant (R343). -/
def touch (s : State) (u : Issuer) (ref : BandRef) (ps : List (Loc × Nat)) : State :=
  let s := chargeFlits ((linesOf ps).foldl (fun s l => hotAccess (if inL2 s l then s else demandLine s u.part ref l) none l) s) u.part ref ps
  sendBeat s u.core (if u.cls = 2 then u.quad % 4 else noQuad) (clockOf s (u.core / 8)) (wordsOf ps)

/-- The same of pieces at device virtual addresses; one that faults asks for nothing. -/
def touchAt (s : State) (u : Issuer) (ref : BandRef) (ps : List (Nat × Nat)) : State :=
  touch s u ref (ps.filterMap fun p =>
    match access s u (p.1 % 2 ^ 48) { r := false, w := false, n := p.2 } false with
    | .ok (l, _) => some (l, p.2)
    | .error _ => none)

/-- A request of an owner below its floor comes first: the one with the least part of its floor used, then the lowest owner
(R354). -/
def Channel.floored (floor : Nat → Nat) (c : Channel) : Option ChanReq :=
  let used (p : Nat) : Nat := c.used.getD p 0
  let less (p q : Nat) : Bool := used p * floor q < used q * floor p || (used p * floor q = used q * floor p && p < q)
  (c.pending.filter fun r => used r.part < floor r.part).foldl (fun m r => match m with
    | none => some r
    | some x => if less r.part x.part then some r else some x) none

/-- Else the owners are served in rotation after the one served last so. -/
def Channel.rotated (c : Channel) : Option ChanReq :=
  ((List.range 128).map fun i => (c.last + 1 + i) % 128).findSome? fun p => c.pending.find? fun r => r.part = p

/-- The request that the next slot of a window serves, and the channel after it. A slot with no request pending passes. -/
def Channel.slot (floor : Nat → Nat) (c : Channel) : Option ChanReq × Channel :=
  let served (r : ChanReq) (last : Nat) : Option ChanReq × Channel :=
    (some r, { moved := c.moved + 1, used := c.used.modify r.part 0 (· + 1), last := last, pending := c.pending.erase r })
  match c.floored floor with
  | some r => served r c.last
  | none => match c.rotated with
    | some r => served r r.part
    | none => (none, { c with moved := c.moved + 1 })

/-- A slot of a channel's window: a line moves, and weight 13 is charged (R440). A window that is full has no more. -/
def transfer (s : State) (channel : Nat) : State :=
  let c := s.channels.getD channel Channel.idle
  if windowLines ≤ c.moved then s
  else
    let (r, c) := c.slot fun p => (s.part p).floor
    let s := { s with channels := s.channels.put channel c }
    match r with
    | none => s
    | some r => charge s r.part r.ref 13 1

/-- A flit moves for a partition, for the band of a slot or for none: weight 14 (R440). -/
def moveFlit (s : State) (part : Nat) (slot : Option Nat) : State :=
  charge s part (match slot.bind s.bands.find? with
    | none => nobody
    | some b => if b.part = part then refOf b else nobody) 14 1

/-- Traffic that no instruction names: an instruction fetch, a page walk or a read of Wheel's for a partition, which counts
against it, or Glaze's own for a data line, which counts against the line's owner (R355). -/
def otherTraffic (s : State) (part : Nat) (slot : Option Nat) (pa : Nat) (glaze : Bool) : State :=
  let owner := match List.find? (fun e : Nat × Partition => e.2.groups.contains (channelOf pa / 8)) s.parts with
    | none => 0
    | some e => e.1
  if glaze then demandLine s owner nobody pa
  else demandLine s part (match slot.bind s.bands.find? with
    | none => nobody
    | some b => if b.part = part then refOf b else nobody) pa

/-- A window of a channel ends after its last slot; the requests still pending stay. -/
def execBandwidthWindow (channel : Nat) (s : State) : Out :=
  .next <|
  let c := s.channels.getD channel Channel.idle
  if c.moved < windowLines then s else { s with channels := s.channels.put channel { c with moved := 0, used := [] } }

/-- The floor that CREATE grants: what the configuration wants of what the floors of others leave (R354). -/
def grantFloor (s : State) (part : Nat) : Nat :=
  min (Config.bandwidthFloor part) (floorLines - (s.parts.foldl (fun n e => if e.1 = part then n else n + e.2.floor) 0))

/-- The requests of an owner that has gone. -/
def dropRequests (s : State) (part : Nat) : State :=
  { s with channels := s.channels.map fun e => (e.1, { e.2 with pending := e.2.pending.filter fun r => r.part ≠ part }) }

end Sys2Proof.Machine
end

