-- ==== Sys2Proof/Machine/LoadStore.lean ====
section
/-!
DEFINITION. LD and ST (R179 to R189) and the frame forms (R190).
-/
namespace Sys2Proof.Machine

/-! ## Scopes: what an acquire does here (R314, R326, R346) -/

/-- Whether a scope reaches the cluster or further. -/
def wideScope : Scope → Bool
  | .cluster | .device | .fabric => true
  | .thread | .band | .gang | .core => false

/-- A core gives up the lines of its L1 and frame cache (R346). -/
def dropCache (s : State) (core : Nat) : State :=
  let k := s.core core
  if k.cache.isEmpty then s else s.setCore core { k with cache := [] }

/-- A cluster gives up its copies of remote lines, in its L2 and in its cores (R326). -/
def dropRemote (s : State) (cluster : Nat) : State :=
  let c := s.cluster cluster
  let s := if c.l2.isEmpty then s else s.setCluster cluster { c with l2 := c.l2.filter fun x => !x.remote }
  (List.range 8).foldl (fun s i =>
    let k := s.core (8 * cluster + i)
    if k.cache.isEmpty then s else s.setCore (8 * cluster + i) { k with cache := k.cache.filter fun c => !c.remote }) s

/-- An acquire at a scope by a thread of a core: cached copies are given up, so that later reads see what memory
holds. -/
def acquire (s : State) (core : Nat) (c : Scope) : State :=
  let s := if wideScope c then dropCache s core else s
  if c = .fabric then dropRemote s (core / 8) else s

/-- An acquire by accesses to some addresses: one wider than CORE acts as CORE on scratchpad addresses (R309), and discards
nothing. -/
def acquireAt (s : State) (core : Nat) (acq : Option Scope) (addrs : List Nat) : State :=
  match acq with
  | none => s
  | some c => if addrs.all isSpad then s else acquire s core c

/-- An access to an SO page is a fence: no later read of the thread is served by an older copy (R303, R305, R327). -/
def strong (s : State) (core : Nat) (ords : List Nat) : State := if ords.contains 0 then acquire s core .fabric else s

/-- What reads of class B leave behind in the core. -/
def afterReads (s : State) (u : Issuer) (frame : Bool) (ps : List (Loc × Nat)) : State :=
  strong (ps.foldl (fun s p => readThrough s u frame p.1) s) u.core (ps.map Prod.snd)

/-- Reads of class G pass by every copy: those of the lines that they read are given up, so that no later read of the thread goes
back (R303). -/
def afterPast (s : State) (u : Issuer) (ps : List (Loc × Nat)) : State :=
  strong (ps.foldl (fun s p => match lineKey p.1 with
    | none => s
    | some key => dropL2 (writeCopy s u.core key [] true) u.core key) s) u.core (ps.map Prod.snd)

/-! ## The shape of a per-lane access -/

/-- The base of a memory operand whose pair was captured, or the uniform ADDR_FORM fault (R179). -/
def baseOf (c : Captured) (k : Nat) (off : Int) : Option Nat :=
  (pairAddr (c.scalars.getD k 0) (c.scalars.getD (k + 1) 0)).map fun a => ea a off

/-- What each enabled lane's checks say. -/
def laneChecks (s : State) (u : Issuer) (c : Captured) (k : Want) (atomic : Bool) (addr : Nat → Nat) :
    List (Nat × Except FaultAt (Loc × Nat)) :=
  (laneList c.lanes).map fun l => (l, access s u (addr l) k atomic)

/-- The faults of the lanes that fail, each with its lane. -/
def laneFaults (cs : List (Nat × Except FaultAt (Loc × Nat))) : List FaultAt :=
  cs.filterMap fun e => match e.2 with | .error f => some { f with lane := e.1 } | .ok _ => none

/-- The lanes that pass, with their places. -/
def laneOks (cs : List (Nat × Except FaultAt (Loc × Nat))) : List (Nat × Loc × Nat) :=
  cs.filterMap fun e => match e.2 with | .ok p => some (e.1, p) | .error _ => none

/-- Done, or faulted in some lanes; the log keeps the faulted lanes (R183). -/
def endLanes (fs : List FaultAt) (ws : List RegWrite) (s : State) : Ans :=
  if fs.isEmpty then .done ws s else .fault fs (maskOf (fs.map (·.lane))) ws s

/-- A tile with matrix readers outstanding, ready, that holds a byte of a scratchpad range (R208). -/
def busyTile (s : State) (a n : Nat) : Bool :=
  let core := a / Config.spadBytes
  (s.core core).tiles.any fun e =>
    let lo := spadAt core (e.1 / 256 * Config.sliceBytes + 16 * e.2.base)
    e.2.state = 2 && e.2.readers > 0 && lo < a + n && a < lo + 16 * e.2.len

def busyLoc (s : State) (n : Nat) : Loc → Bool
  | .spad a => busyTile s a n
  | .mem _ | .remote _ _ => false

/-! ## Loads -/

/-- How the bytes of a lane become register values. -/
inductive LoadKind where
  | zero | sign | words
  deriving DecidableEq, Repr

/-- The value of register j of a lane's destination. -/
def loadValue (k : LoadKind) (bs : List Byte) (j : Nat) : Word :=
  match k with
  | .zero => w32 (leNat bs)
  | .sign => w32i (wrapInt (leNat bs) true (8 * bs.length))
  | .words => w32 (leAt bs (4 * j) 4)

/-- A per-lane load of n bytes into `regs` registers from v (R185, R187, R189). Lane addresses come from the base and
the captured vector sources. -/
def loadCore (v n regs : Nat) (kind : LoadKind) (off : Option (BitVec 27) → Int) (addr : Captured → Nat → Nat → Nat)
    (acq : Option Scope) (c : Captured) (s : State) : Ans :=
  let u := s.issuer 0
  match baseOf c 0 (off c.wide) with
  | none => .fault [addrForm 0 false false (log2size n)] c.lanes [] s
  | some base =>
    let s := acquireAt s u.core acq ((laneList c.lanes).map (addr c base))
    let cs := laneChecks s u c (.read n) false (addr c base)
    let vals := (laneOks cs).map fun e => (e.1, readAt s u e.2.1 e.2.2 n)
    let s := afterReads s u false ((laneOks cs).map Prod.snd)
    let m := maskOf (vals.map (·.1))
    let ws := (List.range regs).map fun j => vWrite (v + j) m (vals.map fun e => (e.1, loadValue kind e.2 j))
    endLanes (laneFaults cs) (if vals.isEmpty then [] else ws) s

/-- Lane l reads at EA + l × n (R185). -/
def linear (n : Nat) (_ : Captured) (base l : Nat) : Nat := (base + l * n) % 2 ^ 48

/-- Lane l reads at EA plus its own offset, the captured vector source k (R187, R216). -/
def indexed (k : Nat) (c : Captured) (base l : Nat) : Nat := (base + ((c.vecs.getD k []).getD l 0).toNat) % 2 ^ 48

def plainLoad (v : VReg) (n regs : Nat) (kind : LoadKind) (i : BitVec 6) : Captured → State → Ans :=
  loadCore v.val n regs kind (fun w => memOffset w i n) (linear n) none

def gatherLoad (v : VReg) (i : BitVec 6) : Captured → State → Ans :=
  loadCore v.val 4 1 .words (fun w => memOffset w i 4) (indexed 0) none

def acqLoad (v : VReg) (n regs : Nat) (k : Scope) : Captured → State → Ans :=
  loadCore v.val n regs .words (fun _ => 0) (linear n) (some k)

/-- The pair of scalar registers of a memory operand. -/
def pairOf (a : SReg) : List Nat := [a.val, a.val + 1]

def loadForm (i : Instr) (la : LA) (v : VReg) (a : SReg) (regs : Nat) (vecs : List Nat) (k : Captured → State → Ans)
    (s : State) : Out :=
  form i s (·.vregs? v.val regs) (fun b => b.cap i (pairOf a) vecs la.val) k

def execLdb (la : LA) (v : VReg) (a : SReg) (i : BitVec 6) (s : State) : Out :=
  loadForm (.ldb la v a i) la v a 1 [] (plainLoad v 1 1 .zero i) s
def execLdbs (la : LA) (v : VReg) (a : SReg) (i : BitVec 6) (s : State) : Out :=
  loadForm (.ldbs la v a i) la v a 1 [] (plainLoad v 1 1 .sign i) s
def execLdh (la : LA) (v : VReg) (a : SReg) (i : BitVec 6) (s : State) : Out :=
  loadForm (.ldh la v a i) la v a 1 [] (plainLoad v 2 1 .zero i) s
def execLdhs (la : LA) (v : VReg) (a : SReg) (i : BitVec 6) (s : State) : Out :=
  loadForm (.ldhs la v a i) la v a 1 [] (plainLoad v 2 1 .sign i) s
def execLdw (la : LA) (v : VReg) (a : SReg) (i : BitVec 6) (s : State) : Out :=
  loadForm (.ldw la v a i) la v a 1 [] (plainLoad v 4 1 .words i) s
def execLdd (la : LA) (v : VReg) (a : SReg) (i : BitVec 6) (s : State) : Out :=
  loadForm (.ldd la v a i) la v a 2 [] (plainLoad v 8 2 .words i) s
def execLdq (la : LA) (v : VReg) (a : SReg) (i : BitVec 6) (s : State) : Out :=
  loadForm (.ldq la v a i) la v a 4 [] (plainLoad v 16 4 .words i) s
/-- ldx: the offsets are the old values of the destination (R187). -/
def execLdx (la : LA) (v : VReg) (a : SReg) (i : BitVec 6) (s : State) : Out :=
  loadForm (.ldx la v a i) la v a 1 [v.val] (gatherLoad v i) s
def execLdwAcq (la : LA) (v : VReg) (a : SReg) (c : Scope) (s : State) : Out :=
  loadForm (.ldwAcq la v a c) la v a 1 [] (acqLoad v 4 1 c) s
def execLddAcq (la : LA) (v : VReg) (a : SReg) (c : Scope) (s : State) : Out :=
  loadForm (.lddAcq la v a c) la v a 2 [] (acqLoad v 8 2 c) s

/-- A uniform load of a word (R188, R189). -/
def loadScalar (d : SReg) (off : Option (BitVec 27) → Int) (acq : Option Scope) (c : Captured) (s : State) : Ans :=
  let u := s.issuer 0
  match baseOf c 0 (off c.wide) with
  | none => .fault [addrForm 0 false false 2] c.mask [] s
  | some a =>
    let s := acquireAt s u.core acq [a]
    match access s u a (.read 4) false with
    | .error f => .fault [f] c.mask [] s
    | .ok (l, ord) => .done [sWrite d.val (w32 (leNat (readAt s u l ord 4)))] (afterReads s u false [(l, ord)])

def execLds (la : LA) (d a : SReg) (i : BitVec 6) (s : State) : Out :=
  form (.lds la d a i) s always (fun b => b.cap (.lds la d a i) (pairOf a) [] la.val)
    (loadScalar d (fun w => memOffset w i 4) none)
def execLdsAcq (la : LA) (d a : SReg) (c : Scope) (s : State) : Out :=
  form (.ldsAcq la d a c) s always (fun b => b.cap (.ldsAcq la d a c) (pairOf a) [] la.val)
    (loadScalar d (fun _ => 0) (some c))

/-! ## Stores -/

/-- A per-lane store (R186, R187): lanes are written in ascending order, so that of two lanes that write one byte the
higher stays (R184). A store into a ready tile with matrix readers waits (R208). -/
def storeCore (n : Nat) (off : Option (BitVec 27) → Int) (addr : Captured → Nat → Nat → Nat)
    (value : Captured → Nat → List Byte) (c : Captured) (s : State) : Ans :=
  let u := s.issuer 0
  match baseOf c 0 (off c.wide) with
  | none => .fault [addrForm 0 true false (log2size n)] c.lanes [] s
  | some base =>
    let cs := laneChecks s u c (.write n) false (addr c base)
    let oks := laneOks cs
    if oks.any fun e => busyLoc s n e.2.1 then .wait .tileStore [] s
    else endLanes (laneFaults cs) [] (strong (writeMany s u s.me (oks.map fun e => (e.2.1, value c e.1, e.2.2))) u.core (oks.map (·.2.2)))

/-- The low n bytes of a lane's captured sources, in register order. -/
def laneBytes (n : Nat) (c : Captured) (l : Nat) : List Byte :=
  (c.vecs.flatMap fun v => leBytes 4 (v.getD l 0).toNat).take n

def plainStore (n : Nat) (i : BitVec 6) : Captured → State → Ans :=
  storeCore n (fun w => memOffset w i n) (linear n) (laneBytes n)

/-- stx: the value is source 0, the offset source 1. -/
def scatterStore (i : BitVec 6) : Captured → State → Ans :=
  storeCore 4 (fun w => memOffset w i 4) (indexed 1) (laneBytes 4)

def storeForm (i : Instr) (v : VReg) (a : SReg) (regs : Nat) (k : Captured → State → Ans) (s : State) : Out :=
  form i s (·.vregs? v.val regs) (fun b => b.cap i (pairOf a) ((List.range regs).map (v.val + ·)) 0) k

/-- The slot of the partition's collective ring whose TICK word a band's address leads to (R465). -/
def tickSlot (s : State) (va : Nat) : Option Nat :=
  if (s.part s.band.part).csize = 0 then none
  else match access s (s.issuer 0) va { r := false, w := false, n := 4 } false with
  | .ok (.mem pa, _) => ((ringOffsets s s.band.part pa).find? fun o => o % 64 = 60).map fun o => o / 64
  | _ => none

/-- A release of a TICK word issues a collective: it counts as outstanding for the launch of the band (R338). -/
def noteTick (s : State) (va : Nat) : State :=
  let part := s.band.part
  match tickSlot s va with
  | none => s
  | some k =>
    if (s.part part).ticks.has k then s
    else
      let (seq, s) := s.nextSeq
      drainAdd (s.modPart part fun p => { p with ticks := p.ticks.put k (s.me, seq) }) s.myCore s.band.lnch 1

/-- A store that has been done notes the TICK words that it released. -/
def noteTicks (r : Option Scope) (addrs : Lanes → List Nat) (a : Ans) : Ans :=
  if r ≠ some .device && r ≠ some .fabric then a
  else match a with
  | .done ws s => .done ws ((addrs 0).foldl noteTick s)
  | .fault fs m ws s => .fault fs m ws ((addrs m).foldl noteTick s)
  | .wait _ _ _ | .early _ => a

/-- stw, whose releases may issue collectives (R465). -/
def wordStore (r : Option Scope) (i : BitVec 6) (c : Captured) (s : State) : Ans :=
  noteTicks r (fun m => match baseOf c 0 (memOffset c.wide i 4) with
    | none => []
    | some base => (laneList (c.lanes &&& ~~~m)).map (linear 4 c base)) (plainStore 4 i c s)

def execStb (r : Option Scope) (v : VReg) (a : SReg) (i : BitVec 6) (s : State) : Out :=
  storeForm (.stb r v a i) v a 1 (plainStore 1 i) s
def execSth (r : Option Scope) (v : VReg) (a : SReg) (i : BitVec 6) (s : State) : Out :=
  storeForm (.sth r v a i) v a 1 (plainStore 2 i) s
def execStw (r : Option Scope) (v : VReg) (a : SReg) (i : BitVec 6) (s : State) : Out :=
  storeForm (.stw r v a i) v a 1 (wordStore r i) s
def execStd (r : Option Scope) (v : VReg) (a : SReg) (i : BitVec 6) (s : State) : Out :=
  storeForm (.std r v a i) v a 2 (plainStore 8 i) s
def execStq (r : Option Scope) (v : VReg) (a : SReg) (i : BitVec 6) (s : State) : Out :=
  storeForm (.stq r v a i) v a 4 (plainStore 16 i) s
def execStx (v : VReg) (a : SReg) (i : BitVec 6) (s : State) : Out :=
  storeForm (.stx v a i) v a 2 (scatterStore i) s

/-- A uniform store of a word at an address; the value is captured scalar k. -/
def storeWord (a k : Nat) (c : Captured) (s : State) : Ans :=
  let u := s.issuer 0
  match access s u a (.write 4) false with
  | .error f => .fault [f] c.mask [] s
  | .ok (l, ord) =>
    if busyLoc s 4 l then .wait .tileStore [] s
    else .done [] (strong (writeAt s u s.me l (leBytes 4 (c.scalars.getD k 0).toNat) ord) u.core [ord])

/-- sts; a faulted one has released no TICK word. -/
def storeScalar (r : Option Scope) (i : BitVec 6) (c : Captured) (s : State) : Ans :=
  match baseOf c 1 (memOffset c.wide i 4) with
  | none => .fault [addrForm 0 true false 2] c.mask [] s
  | some a => noteTicks r (fun m => if m = 0 then [a] else []) (storeWord a 0 c s)

def execSts (r : Option Scope) (v a : SReg) (i : BitVec 6) (s : State) : Out :=
  form (.sts r v a i) s always (fun b => b.cap (.sts r v a i) (v.val :: pairOf a) [] 0) (storeScalar r i)

/-! ## Frames (R190) -/

/-- The header address of a frame from its body address (R39). -/
def headerOf (d : Addr) : Nat := (d - 64).toNat

/-- The declared size of the level-e frame in bytes, read from its header (R190, R258). -/
def frameSize (s : State) (e : Nat) : Except FaultAt Nat :=
  match readVirtual s (s.issuer 0) .frame (headerOf (s.band.disp1 e) + 12) 2 with
  | .error f => .error f
  | .ok bs => .ok (64 * leNat bs)

/-- The address of a lexical operand after its checks in order (R190). -/
def lexical (s : State) (e off : Nat) (w : Bool) : Except FaultAt Nat :=
  let a := ea (s.band.disp1 e).toNat off
  let f : FaultAt := { code := 0, w := w, sz := 2, va := a }
  if e > s.band.level then .error { f with code := code.frameLevel }
  else match frameSize s e with
    | .error f => .error f
    | .ok size => if off + 4 > size then .error { f with code := code.frameBound } else .ok a

def loadFrame (e : Fin 8) (d : SReg) (o : BitVec 14) (c : Captured) (s : State) : Ans :=
  let u := s.issuer 0
  match lexical s e.val (4 * o.toNat) false with
  | .error f => .fault [f] c.mask [] s
  | .ok a => match access s u a (.read 4) false with
    | .error f => .fault [f] c.mask [] s
    | .ok (l, ord) => .done [sWrite d.val (w32 (leNat (readAt s u l ord 4 .frame)))] (afterReads s u true [(l, ord)])

def storeFrame (e : Fin 8) (o : BitVec 14) (c : Captured) (s : State) : Ans :=
  match lexical s e.val (4 * o.toNat) true with
  | .error f => .fault [f] c.mask [] s
  | .ok a => storeWord a 0 c s

/-- fla makes no access: it checks the address as a 4-byte access would. -/
def frameAddress (e : Fin 8) (d : SReg) (o : BitVec 14) (c : Captured) (s : State) : Ans :=
  match lexical s e.val (4 * o.toNat) false with
  | .error f => .fault [f] c.mask [] s
  | .ok a => .done (sPair d.val a) s

def execFld (la : LA) (e : Fin 8) (d : SReg) (o : BitVec 14) (s : State) : Out :=
  form (.fld la e d o) s always (fun b => b.cap (.fld la e d o) [] [] la.val) (loadFrame e d o)
def execFst (r : Option Scope) (e : Fin 8) (v : SReg) (o : BitVec 14) (s : State) : Out :=
  form (.fst r e v o) s always (fun b => b.cap (.fst r e v o) [v.val] [] 0) (storeFrame e o)
def execFla (e : Fin 8) (d : SReg) (o : BitVec 14) (s : State) : Out :=
  form (.fla e d o) s always (fun b => b.cap (.fla e d o) [] [] 0) (frameAddress e d o)

end Sys2Proof.Machine
end

