-- ==== Sys2Proof/Machine/Atomic.lean ====
section
/-!
DEFINITION. ATOM (R216 to R218), the atomic engines (R351 to R353) and the counter forms of COPY (R198).
-/
namespace Sys2Proof.Machine

/-! ## The operations (R217) -/

/-- The new word, from the old word m, the operand x and the new value y of acas. -/
def atomicNew (op : AtomicOp) (m x y : Word) : Word :=
  match op with
  | .add => m + x
  | .min => if m.toInt ≤ x.toInt then m else x
  | .max => if m.toInt ≥ x.toInt then m else x
  | .minn => if m.toNat ≤ x.toNat then m else x
  | .maxn => if m.toNat ≥ x.toNat then m else x
  | .and => m &&& x
  | .or => m ||| x
  | .xor => m ^^^ x
  | .xchg => x
  | .cas => if m = x then y else m
  | .inc => if m.toNat ≥ x.toNat then 0 else m + 1
  | .fadd => w32 (fround (FVal.exactSum [fdecode m.toNat Fmt.binary32, fdecode x.toNat Fmt.binary32]) Fmt.binary32 .rne false)
  | .count | .read => m

/-- Bytes that an operation acts on: a word, or a 64-bit counter. -/
def AtomicOp.size : AtomicOp → Nat
  | .count | .read => 8
  | .add | .min | .max | .minn | .maxn | .and | .or | .xor | .xchg | .cas | .inc | .fadd => 4

/-- The new bytes, from the old ones: a counter grows by the addend x + 2^32 y, modulo 2^64. -/
def newBytes (op : AtomicOp) (old : List Byte) (x y : Word) : List Byte :=
  match op with
  | .count => leBytes 8 ((leNat old + x.toNat + 2 ^ 32 * y.toNat) % 2 ^ 64)
  | .read => old
  | .add | .min | .max | .minn | .maxn | .and | .or | .xor | .xchg | .cas | .inc | .fadd =>
    leBytes 4 (atomicNew op (w32 (leNat old)) x y).toNat

/-! ## Line requests (R353) -/

/-- A port's FIFO of a cluster's engine. -/
def fifo (s : State) (cluster port : Nat) : List LineReq := (s.cluster cluster).fifos.getD port []

def setFifo (s : State) (cluster port : Nat) (q : List LineReq) : State :=
  let c := s.cluster cluster
  s.setCluster cluster { c with fifos := c.fifos.setD port q [] }

/-- The port of the owning cluster that a request takes: that of the core, or 8 for another cluster's and for an engine's (R353). -/
def portOf (cluster : Nat) (r : LineReq) : Nat := if r.cls = 5 && r.core / 8 = cluster then r.core % 8 else 8

/-- The line of a place: its physical address and home device. -/
def lineOf : Loc → Option (Option Nat × Nat)
  | .spad _ => none
  | .mem pa => some (none, pa / 128 * 128)
  | .remote d pa => some (some d, pa / 128 * 128)

def paOf : Loc → Nat
  | .spad a => a
  | .mem pa => pa
  | .remote _ pa => pa

/-- The lanes of one instruction grouped by line, in ascending order of each line's lowest lane. -/
def groupLines : List (Nat × Loc) → List ((Option Nat × Nat) × List (Nat × Loc))
  | [] => []
  | (l, p) :: rest =>
    let gs := groupLines rest
    match lineOf p with
    | none => gs
    | some k =>
      match gs.find? fun g => g.1 = k with
      | none => (k, [(l, p)]) :: gs
      | some g => (k, (l, p) :: g.2) :: gs.filter fun g => g.1 ≠ k

/-- Sends a line request to its engine, or on its way to its home device (R324). The core gives up its own copy of the
line (R346). -/
def sendRequest (s : State) (r : LineReq) : State :=
  match r.dev with
  | none =>
    let s := if r.cls = 5 then writeCopy s r.core r.line [] true else s
    let cl := owningCluster r.line
    setFifo s cl (portOf cl r) (fifo s cl (portOf cl r) ++ [r])
  | some d =>
    let s := if r.cls = 5 then dropL2 (writeCopy s r.core (remoteKey d r.line) [] true) r.core (remoteKey d r.line) else s
    let op : RemoteOp := { seq := r.seq, orig := r.orig, ref := r.ref, part := r.part, core := r.core, dev := d, pa := r.line
                           data := [], req := some r, performed := false, cls := r.cls
                           ord := if r.lanes.any fun o => o.ord = 0 then 0 else 1, count := none }
    { drainAdd s r.core r.ref.lnch 1 with remotes := s.remotes ++ [op] }

/-- Sends one request for each line; `ord` gives the kind of a lane's page. -/
def sendAll (op : AtomicOp) (c : Captured) (entry : Option Nat) (u : Issuer) (ord : Nat → Nat) :
    List ((Option Nat × Nat) × List (Nat × Loc)) → State → State
  | [], s => s
  | g :: gs, s =>
    let (seq, s) := s.nextSeq
    let lane (e : Nat × Loc) : LaneOp :=
      { lane := e.1, pa := paOf e.2, x := (c.vecs.getD 0 []).getD e.1 0, y := (c.vecs.getD 2 []).getD e.1 0, ord := ord e.1 }
    sendAll op c entry u ord gs (sendRequest s
      { seq := seq, orig := seq, ref := s.me, part := u.part, core := u.core, cls := 5, line := g.1.2, dev := g.1.1, op := op
        lanes := g.2.map lane, entry := entry, owners := 0 })

/-- A result entry whose values are still to come, of a long-latency instruction or of a cntrd. -/
def pendingEntry (s : State) (long : Bool) (la n : Nat) (ws : List RegWrite) : Nat × State :=
  let (id, s) := s.nextSeq
  (id, s.modBand fun b =>
    let e : ResultEntry := { id := id, order := id, inTrap := b.inTrap, path := b.ix, long := long, weight := none, windows := [(b.ix, la)]
                             writes := ws, arrived := false, pending := n }
    let c := ws.foldl (fun b w => b.dropWrite w.vec w.reg w.mask) b
    { c with results := c.results ++ [e] })

/-- An atomic on one word per enabled lane, at EA + its offset (R216). The returning form's old words come back to v. -/
def atomCore (op : AtomicOp) (v : VReg) (o : BitVec 5) (ret : Bool) (c : Captured) (s : State) : Ans :=
  let u := s.issuer 5
  match baseOf c 0 (memOffset c.wide o 4) with
  | none => .fault [addrForm 5 true true 2] c.lanes [] s
  | some base =>
    let cs := laneChecks s u c (.rmw 4) true (indexed 1 c base)
    let oks := laneOks cs
    let gs := groupLines (oks.map fun e => (e.1, e.2.1))
    let ord (l : Nat) : Nat := ((oks.find? fun e => e.1 = l).map fun e => e.2.2).getD 1
    let s := strong (s.modBand Band.needBoundary) u.core (oks.map (·.2.2))
    let s := if ret && !oks.isEmpty then
        let (id, s) := pendingEntry s true c.la gs.length [vWrite v.val (maskOf (oks.map (·.1))) []]
        sendAll op c (some id) u ord gs s
      else sendAll op c none u ord gs s
    endLanes (laneFaults cs) [] s

/-- Registers that an atomic names: the operand, the offset, and for acas the new value. -/
def atomRegs (op : AtomicOp) : Nat := if op = .cas then 3 else 2

def atomForm (i : Instr) (op : AtomicOp) (la : Nat) (ret : Bool) (v : VReg) (a : SReg) (o : BitVec 5) (s : State) : Out :=
  form i s (·.vregs? v.val (atomRegs op))
    (fun b => b.cap i (pairOf a) ((List.range (atomRegs op)).map (v.val + ·)) la) (atomCore op v o ret)

def execAadd (la : LA) (v : VReg) (a : SReg) (o : BitVec 5) (s : State) : Out :=
  atomForm (.aadd la v a o) .add la.val true v a o s
def execAaddNr (r : Option Scope) (v : VReg) (a : SReg) (o : BitVec 5) (s : State) : Out :=
  atomForm (.aaddNr r v a o) .add 0 false v a o s
def execAmin (la : LA) (v : VReg) (a : SReg) (o : BitVec 5) (s : State) : Out :=
  atomForm (.amin la v a o) .min la.val true v a o s
def execAminNr (r : Option Scope) (v : VReg) (a : SReg) (o : BitVec 5) (s : State) : Out :=
  atomForm (.aminNr r v a o) .min 0 false v a o s
def execAmax (la : LA) (v : VReg) (a : SReg) (o : BitVec 5) (s : State) : Out :=
  atomForm (.amax la v a o) .max la.val true v a o s
def execAmaxNr (r : Option Scope) (v : VReg) (a : SReg) (o : BitVec 5) (s : State) : Out :=
  atomForm (.amaxNr r v a o) .max 0 false v a o s
def execAminn (la : LA) (v : VReg) (a : SReg) (o : BitVec 5) (s : State) : Out :=
  atomForm (.aminn la v a o) .minn la.val true v a o s
def execAminnNr (r : Option Scope) (v : VReg) (a : SReg) (o : BitVec 5) (s : State) : Out :=
  atomForm (.aminnNr r v a o) .minn 0 false v a o s
def execAmaxn (la : LA) (v : VReg) (a : SReg) (o : BitVec 5) (s : State) : Out :=
  atomForm (.amaxn la v a o) .maxn la.val true v a o s
def execAmaxnNr (r : Option Scope) (v : VReg) (a : SReg) (o : BitVec 5) (s : State) : Out :=
  atomForm (.amaxnNr r v a o) .maxn 0 false v a o s
def execAand (la : LA) (v : VReg) (a : SReg) (o : BitVec 5) (s : State) : Out :=
  atomForm (.aand la v a o) .and la.val true v a o s
def execAandNr (r : Option Scope) (v : VReg) (a : SReg) (o : BitVec 5) (s : State) : Out :=
  atomForm (.aandNr r v a o) .and 0 false v a o s
def execAor (la : LA) (v : VReg) (a : SReg) (o : BitVec 5) (s : State) : Out :=
  atomForm (.aor la v a o) .or la.val true v a o s
def execAorNr (r : Option Scope) (v : VReg) (a : SReg) (o : BitVec 5) (s : State) : Out :=
  atomForm (.aorNr r v a o) .or 0 false v a o s
def execAxor (la : LA) (v : VReg) (a : SReg) (o : BitVec 5) (s : State) : Out :=
  atomForm (.axor la v a o) .xor la.val true v a o s
def execAxorNr (r : Option Scope) (v : VReg) (a : SReg) (o : BitVec 5) (s : State) : Out :=
  atomForm (.axorNr r v a o) .xor 0 false v a o s
def execAxchg (la : LA) (v : VReg) (a : SReg) (o : BitVec 5) (s : State) : Out :=
  atomForm (.axchg la v a o) .xchg la.val true v a o s
def execAxchgNr (r : Option Scope) (v : VReg) (a : SReg) (o : BitVec 5) (s : State) : Out :=
  atomForm (.axchgNr r v a o) .xchg 0 false v a o s
def execAcas (la : LA) (v : VReg) (a : SReg) (o : BitVec 5) (s : State) : Out :=
  atomForm (.acas la v a o) .cas la.val true v a o s
def execAcasNr (r : Option Scope) (v : VReg) (a : SReg) (o : BitVec 5) (s : State) : Out :=
  atomForm (.acasNr r v a o) .cas 0 false v a o s
def execAinc (la : LA) (v : VReg) (a : SReg) (o : BitVec 5) (s : State) : Out :=
  atomForm (.ainc la v a o) .inc la.val true v a o s
def execAincNr (r : Option Scope) (v : VReg) (a : SReg) (o : BitVec 5) (s : State) : Out :=
  atomForm (.aincNr r v a o) .inc 0 false v a o s
def execAfadd (la : LA) (v : VReg) (a : SReg) (o : BitVec 5) (s : State) : Out :=
  atomForm (.afadd la v a o) .fadd la.val true v a o s
def execAfaddNr (r : Option Scope) (v : VReg) (a : SReg) (o : BitVec 5) (s : State) : Out :=
  atomForm (.afaddNr r v a o) .fadd 0 false v a o s

/-! ## The engine (R352, R353) -/

/-- The old bytes of a lane go to the band's result entry: a word to a lane of its register, or a counter to a pair. -/
def Band.takeOld (b : Band) (id lane : Nat) (old : List Byte) : Band :=
  let key := if lane = 127 then 0 else lane
  { b with results := b.results.map fun e =>
      if e.id = id then { e with writes := e.writes.zipIdx.map fun (w, j) => { w with vals := w.vals.put key (w32 (leAt old (4 * j) 4)) } }
      else e }

def Band.requestDone (b : Band) (id : Nat) : Band :=
  { b with results := b.results.map fun e => if e.id = id then { e with pending := e.pending - 1 } else e }

/-- The old bytes of a lane, where its request has a result entry. -/
def returnOld (s : State) (r : LineReq) (lane : Nat) (old : List Byte) : State :=
  match r.entry with
  | none => s
  | some id => modRef s r.ref fun b => b.takeOld id lane old

/-- Applies the lanes of a request in ascending order (R218), on this device's memory, through the windows (R331). -/
def applyLanes (r : LineReq) : List LaneOp → State → State
  | [], s => s
  | o :: os, s =>
    let old := readMem s r.part o.pa r.op.size
    let s := if r.op = .read then s else writeMem s r.part none o.pa (newBytes r.op old o.x o.y)
    applyLanes r os (returnOld s r o.lane old)

/-- What a request that has been performed leaves behind: the charge (R440), one request less for its result entry, and after
one to an SO page no older copy in its core (R305). -/
def requestEnds (s : State) (r : LineReq) : State :=
  let s := charge s r.part r.ref 12 1
  let s := if r.cls = 5 then strong s r.core (r.lanes.map LaneOp.ord) else s
  match r.entry with
  | none => s
  | some id => modRef s r.ref (·.requestDone id)

/-- A request is performed. -/
def applyRequest (s : State) (r : LineReq) : State := requestEnds (applyLanes r r.lanes s) r

/-- An accepted request holds the engine for 1 clock, or for 4 where it is an afadd to a hot line. -/
def engineHold (hot : Bool) (op : AtomicOp) : Nat := if hot && op = .fadd then 4 else 1

/-- Misses that one owner holds while another waits: at most 16 (R353). -/
def missRefused (c : ClusterState) (part : Nat) : Bool :=
  32 ≤ c.miss.length
  || (16 ≤ (c.miss.filter fun r => r.part = part).length && c.miss.any fun r => r.part ≠ part)

/-- The ports in the order that the rotation tries them (R353). -/
def portOrder (p : Nat) : List Nat := (List.range 10).map fun k => (p + 1 + k) % 10

/-- Whether a line is in the hot store with no request to it waiting in the miss buffer. -/
def isHot (c : ClusterState) (line : Nat) : Bool :=
  (c.hot.any fun h => h.line = line) && !(c.miss.any fun r => r.line = line)

/-- The entry of a line that a request has reached: a write makes it dirty, for the owner of the request. -/
def hotEntry (c : ClusterState) (line part : Nat) (ref : BandRef) (write : Bool) : HotLine :=
  match c.hot.find? fun h => h.line = line with
  | some h => if write then { h with dirty := true, owner := part, writer := ref } else h
  | none => { line := line, dirty := write, owner := part, writer := ref }

/-- A request makes its line the most recently used. -/
def touchHot (c : ClusterState) (line part : Nat) (ref : BandRef) (write : Bool) : ClusterState :=
  { c with hot := hotEntry c line part ref write :: c.hot.filter fun h => h.line ≠ line }

/-- A request to a hot line is performed. -/
def applyHot (cluster : Nat) (s : State) (r : LineReq) : State :=
  applyRequest (s.setCluster cluster (touchHot (s.cluster cluster) r.line r.part r.ref (r.op ≠ .read))) r

/-- The step of the arbiter (R353): the first port from the rotation whose head request can be accepted. -/
def execAtomicRequestAccept (cluster : Nat) (s : State) : Out :=
  .next <|
  let c := s.cluster cluster
  if c.busy > 0 then s else
  let ok (p : Nat) : Bool := match fifo s cluster p with
    | [] => false
    | r :: _ => isHot c r.line || !missRefused c r.part
  match (portOrder c.port).find? ok with
  | none => s
  | some p => match fifo s cluster p with
    | [] => s
    | r :: rest =>
      let s := setFifo s cluster p rest
      let c := { s.cluster cluster with port := p, busy := engineHold (isHot c r.line) r.op }
      if isHot c r.line then applyHot cluster (s.setCluster cluster c) r
      else s.setCluster cluster { c with miss := c.miss ++ [r] }

/-- A request to a line waits in a FIFO or in the miss buffer. -/
def lineWanted (c : ClusterState) (line : Nat) : Bool :=
  (c.miss.any fun r => r.line = line) || c.fifos.any fun f => f.2.any fun r => r.line = line

/-- The hot line that leaves a full hot store: the least recently used with no request waiting (R352). -/
def victim (c : ClusterState) : Option HotLine :=
  if c.hot.length < 64 then none else c.hot.reverse.find? fun h => !lineWanted c h.line

/-- The store has room for one more line. -/
def roomHot (c : ClusterState) : Bool := c.hot.length < 64 || (victim c).isSome

/-- The lines that stay when one more enters. -/
def evict (c : ClusterState) : List HotLine :=
  match victim c with
  | none => c.hot
  | some v => c.hot.filter fun h => h.line ≠ v.line

/-- Every core gives up its copy of a line that is in a hot store (R345). -/
def dropLine (s : State) (line : Nat) : State :=
  { s with cores := s.cores.map fun e => (e.1, { e.2 with cache := e.2.cache.filter fun c => c.remote || c.line ≠ line }) }

/-- The transfers of a fill: of the line for the issuer of the miss, and of a dirty line that leaves, for the band whose atomic
dirtied it last (R355). -/
def fillDemand (s : State) (c : ClusterState) (line part : Nat) (ref : BandRef) : State :=
  let s := demandLine s part ref line
  match victim c with
  | some v => if v.dirty then demandLine s v.owner v.writer v.line else s
  | none => s

/-- The line of a missed request enters the hot store of a cluster. -/
def enterHot (s : State) (cluster line part : Nat) (ref : BandRef) : State :=
  let c := s.cluster cluster
  fillDemand (dropLine (s.setCluster cluster (touchHot { c with hot := evict c } line part ref false)) line) c line part ref

/-- A missed line is filled, once the store has room for it: the requests that waited are applied in acceptance order (R353). -/
def execHotStoreFill (cluster line : Nat) (s : State) : Out :=
  .next <|
  let c := s.cluster cluster
  match c.miss.filter fun r => r.line = line with
  | [] => s
  | r :: rs =>
    if !roomHot c then s
    else
      let s := enterHot s cluster line r.part r.ref
      let s := s.setCluster cluster { s.cluster cluster with miss := c.miss.filter fun x => x.line ≠ line }
      (r :: rs).foldl (applyHot cluster) s

/-! ## Counters (R195, R198) -/

/-- The checks of a counter pair in their order: ADDR_FORM, ALIGN, ATOM_SPACE. -/
def counterAddr (c : Captured) (k cls : Nat) : Except FaultAt Nat :=
  match baseOf c k 0 with
  | none => .error (addrForm cls true true 3)
  | some a =>
    if a % 8 ≠ 0 then .error { code := code.align, w := true, rmw := true, cls := cls, sz := 3, va := a }
    else if isSpad a then .error { code := code.atomSpace, w := true, rmw := true, cls := cls, sz := 3, va := a }
    else .ok a

/-- A counter's place, with the rights its operation needs. -/
def counterPlace (s : State) (u : Issuer) (c : Captured) (k : Nat) (w : Want) : Except FaultAt (Loc × Nat) :=
  match counterAddr c k u.cls with
  | .error f => .error f
  | .ok a => access s u a w true

/-- The value of a counter in memory. -/
def counterRead (s : State) (u : Issuer) : Loc → Nat
  | .spad _ => 0
  | .mem pa => leNat (readMem s u.part pa 8)
  | .remote d pa => leNat (s.rmem.bytes (remoteKey d pa) 8)

/-- Sends an operation on a 64-bit counter to the engine of its owning cluster, or of its home device (R351). -/
def counterSend (s : State) (u : Issuer) (ref : BandRef) (cls orig : Nat) (owners : Lanes) (op : AtomicOp) (entry : Option Nat)
    (k : Loc × Nat) (n : Nat) : State :=
  match lineOf k.1 with
  | none => s
  | some (dev, line) =>
    let (seq, s) := s.nextSeq
    sendRequest s
      { seq := seq, orig := if cls = 5 then seq else orig, ref := ref, part := u.part, core := u.core, cls := cls, line := line
        dev := dev, op := op, entry := entry, owners := owners
        lanes := [{ lane := 127, pa := paOf k.1, x := w32 n, y := w32 (n / 2 ^ 32), ord := k.2 }] }

/-- An atomic addition of n to a 64-bit counter: by a band, or by an engine for its operation `orig`. -/
def counterAdd (s : State) (u : Issuer) (ref : BandRef) (engine : Bool) (orig : Nat) (owners : Lanes) (k : Loc × Nat) (n : Nat) :
    State :=
  counterSend s u ref (if engine then 6 else 5) orig owners .count none k n

/-- The threads that a uniform access belongs to (R300). -/
def ownersOf (c : Captured) (b : Band) : Lanes := if c.mask = 0 then b.occ else c.mask

/-- cntadd: C := C + s[V]; a signal write (R222). -/
def cntaddCore (c : Captured) (s : State) : Ans :=
  let u := s.issuer 5
  match counterPlace s u c 0 (.rmw 8) with
  | .error f => .fault [{ f with rmw := true }] c.mask [] s
  | .ok k =>
    .done [] (counterAdd (strong (s.modBand Band.needBoundary) u.core [k.2]) u s.me false 0 (ownersOf c s.band) k
      (c.scalars.getD 2 0).toNat)

/-- A request to a line that comes to port p of a cluster's engine is accepted in this clock: nothing stands before it at its port, the
rotation comes to it before any port whose head could be accepted, and its line is hot or has a place to be filled to (R353). -/
def engineTurn (s : State) (n p line part : Nat) : Bool :=
  let c := s.cluster n
  let ok (k : Nat) : Bool := match fifo s n k with
    | [] => k = p
    | r :: _ => isHot c r.line || !missRefused c r.part
  c.busy = 0 && (fifo s n p).isEmpty && (portOrder c.port).find? ok = some p
  && (isHot c line || (!(c.miss.any fun r => r.line = line) && !missRefused c part && roomHot c))

/-- The engine accepts a read of a counter (R353). -/
def engineRead (s : State) (part : Nat) (ref : BandRef) (core line : Nat) : State :=
  let n := owningCluster line
  let s := if (s.cluster n).hot.any fun h => h.line = line then s.setCluster n (touchHot (s.cluster n) line part ref false)
    else enterHot s n line part ref
  s.setCluster n { s.cluster n with busy := 1, port := corePort core n }

/-- cntw: the path waits until C reaches the 64-bit value; then it acquires, at FABRIC scope for a remote counter
(R336). The comparison is that of a read which the counter's engine accepts. -/
def cntwCore (c : Captured) (s : State) : Ans :=
  let u := s.issuer 5
  match counterPlace s u c 0 (.read 8) with
  | .error f => .fault [{ f with rmw := true }] c.mask [] s
  | .ok (l, ord) =>
    let goal := (c.scalars.getD 2 0).toNat + 2 ^ 32 * (c.scalars.getD 3 0).toNat
    if counterRead s u l < goal then .wait .cntw [] s
    else
      let s' := charge s u.part s.me 12 1
      match lineOf l with
      | some (none, line) =>
        if engineTurn s (owningCluster line) (corePort u.core (owningCluster line)) line u.part then .done [] (strong (acquire (engineRead s' u.part s.me u.core line) u.core .device) u.core [ord])
        else .wait .cntw [] s
      | _ => .done [] (acquire s' u.core .fabric)

/-- cntrd: a request to the counter's engine, whose answer comes back to the pair. -/
def cntrdCore (d : SReg) (c : Captured) (s : State) : Ans :=
  let u := s.issuer 5
  match counterPlace s u c 0 (.read 8) with
  | .error f => .fault [{ f with rmw := true }] c.mask [] s
  | .ok k =>
    let (id, s) := pendingEntry (strong s u.core [k.2]) false 0 1 (sPair d.val 0)
    .done [] (counterSend s u s.me 5 0 (ownersOf c s.band) .read (some id) k 0)

def execCntadd (c v : SReg) (s : State) : Out :=
  form (.cntadd c v) s always (fun b => b.cap (.cntadd c v) (pairOf c ++ [v.val]) [] 0) cntaddCore
def execCntw (c g : SReg) (s : State) : Out :=
  form (.cntw c g) s always (fun b => b.cap (.cntw c g) (pairOf c ++ pairOf g) [] 0) cntwCore
def execCntrd (d c : SReg) (s : State) : Out :=
  form (.cntrd d c) s always (fun b => b.cap (.cntrd d c) (pairOf c) [] 0) (cntrdCore d)
def execCntwWake (slot path : Nat) (s : State) : Out := .next (wake slot path .cntw cntwCore s)

end Sys2Proof.Machine
end

