-- ==== Sys2Proof/Machine/BandForms.lean ====
section
/-!
DEFINITION. BAND: reconvergence (R133, R134), gangs (R146 to R149), votes and identifiers (R150, R151) and regrouping
(R152, R153, R296 to R298), with the steps that end their waits.
-/
namespace Sys2Proof.Machine

/-! ## Reconvergence -/

/-- Whether a path waits at an RCV. -/
def atRcv (p : PathEntry) : Bool := p.v && (p.wait.map (·.kind) = some .rcv)

/-- When every valid entry waits at an RCV, the one with the lowest PC goes on (R134). -/
def Band.breakRcv (b : Band) : Band :=
  let vs := b.valid
  if vs.isEmpty || !(vs.all fun k => atRcv (b.entry k)) then b
  else
    let lowest := vs.foldl (fun m k => if (b.entry k).pc.toNat < (b.entry m).pc.toNat then k else m) (vs.headD 0)
    let p := b.entry lowest
    b.setEntry lowest { p with pc := p.pc + 1, wait := none }

/-- The entries that an rcv of the current path merges (R133). -/
def rcvPartners (b : Band) : List Nat := b.valid.filter fun k => k ≠ b.ix && (b.entry k).pc = b.path.pc

/-- Merges entries into the current path. -/
def Band.merge (b : Band) (q : List Nat) : Band :=
  let m := q.foldl (fun m k => m ||| (b.entry k).mask) b.mask
  let b1 := q.foldl (fun b k => b.setEntry k PathEntry.empty) ((b.mergeWindows q).adoptPaths q)
  let b2 : Band := { b1 with mask := m &&& b.occ }
  (b2.setPath { b2.path with age := 0 }).advance

def Band.waitAtRcv (b : Band) (c : Captured) : Band :=
  (b.setPath { b.path with wait := some { order := 0, kind := .rcv, cap := c, phases := [], left := 0, rid := 0, seq := none, rcd := [] } }).breakRcv

def execRcv (s : State) : Out :=
  issue .rcv s always fun b =>
    let q := rcvPartners b
    if !q.isEmpty then s.setBand (b.merge q)
    else if b.valid.length ≤ 1 then s.setBand b.advance
    else s.setBand (b.waitAtRcv (b.cap .rcv [] [] 0))

/-! ## Gangs -/

/-- Entries 16q to 16q + 15 of a core belong to the owner of its quadrant q (R430). -/
def gangOwner (s : State) (core g : Nat) : Nat := sliceOwner s core (g / 16)

/-- Join of R146, for captured operands. -/
def joinCore (c : Captured) (s : State) : Ans :=
  let b := s.band
  let gw := c.scalars.getD 0 0
  let g := gw.toNat
  if 64 ≤ g then .early { code := code.illegal }
  else if gangOwner s s.myCore g ≠ b.part then .fault [{ code := code.gangOwner }] c.lanes [] s
  else
    let busy := lanesWhere fun l => c.lanes.getLsbD l && (match b.gang.find? l with | some h => h ≠ g | none => false)
    if busy ≠ 0 then .fault ((laneList busy).map fun l => { code := code.gangBusy, lane := l }) c.lanes [] s
    else
      let j := lanesWhere fun l => c.lanes.getLsbD l && (b.gang.find? l).isNone
      let k := s.core s.myCore
      let e := (k.gangs.find? g).getD { count := 0, arrivals := 0, phase := false }
      if e.count + popcount j > 3072 then .fault [{ code := code.gangFull }] c.lanes [] s
      else if j = 0 then .done [] s
      else
        let e' : GangEntry := { e with count := e.count + popcount j }
        let s := s.setCore s.myCore { k with gangs := k.gangs.put g e'.check }
        .done [] (s.modBand fun b => { b.needBoundary with gang := (laneList j).foldl (fun t l => t.put l g) b.gang })

/-- join (R146). -/
def execJoin (a : SReg) (s : State) : Out :=
  form (.join a) s always (fun b => b.cap (.join a) [a.val] [] 0) joinCore

/-- leave (R147). -/
def execLeave (s : State) : Out :=
  issue .leave s always fun b =>
    let m := b.enabled
    let s := gangsLose s s.myCore b m
    s.setBand (if (gangsOf b m).isEmpty then b.advance else (b.dropGangs m).needBoundary.advance)

/-- gbar (R148): the members of the path arrive, and the path is blocked until every phase has changed. -/
def gbarCore (c : Captured) (s : State) : Ans :=
  let b := s.band
  let gs := gangsOf b c.lanes
  if gs.isEmpty then .done [] s
  else
    let k := s.core s.myCore
    let phases := gs.map fun g => (g, (k.gangs.find? g).any (·.phase))
    let gangs := gs.foldl (fun t g => t.adjust g fun e =>
      GangEntry.check { e with arrivals := e.arrivals + popcount (membersIn b c.lanes g) }) k.gangs
    .wait .gbar phases ((s.setCore s.myCore { k with gangs := gangs }).modBand Band.needBoundary)

def execGbar (s : State) : Out := form .gbar s always (fun b => b.cap .gbar [] [] 0) gbarCore

/-- A blocked entry goes on when the phase of each of its gangs has changed (R148). -/
def execGbarUnblock (slot path : Nat) (s : State) : Out :=
  .next <| match waitOf s slot path .gbar with
  | none => s
  | some w =>
    let gangs := (s.core (coreOf slot)).gangs
    if w.phases.all fun e => (gangs.find? e.1).any (·.phase) ≠ e.2 then
      s.onSlot slot fun s => onPath s path fun s => s.modBand Band.advance
    else s

/-! ## Votes and identifiers -/

def voters (b : Band) (p : PReg) : Lanes := b.enabled &&& b.pred p.val

def execVoteAny (d : SReg) (p : PReg) (s : State) : Out :=
  unit (.voteAny d p) s always fun b => b.writeS d.val (boolWord (voters b p ≠ 0))
/-- vote.all is 1 when no lane is enabled. -/
def execVoteAll (d : SReg) (p : PReg) (s : State) : Out :=
  unit (.voteAll d p) s always fun b => b.writeS d.val (boolWord (voters b p = b.enabled))
def execVoteCnt (d : SReg) (p : PReg) (s : State) : Out :=
  unit (.voteCnt d p) s always fun b => b.writeS d.val (w32 (popcount (voters b p)))
/-- vote.bal writes all 96 bits, 0 for a lane that is not enabled. -/
def execVoteBal (q p : PReg) (s : State) : Out :=
  unit (.voteBal q p) s always fun b => b.writeP q.val (firstLanes 96) (voters b p)

def execLid (v : VReg) (s : State) : Out :=
  unit (.lid v) s (·.vregs? v.val 1) fun b => b.writeV v.val b.enabled (laneVals b.enabled fun l => w32 l)
def execTid (v : VReg) (s : State) : Out :=
  unit (.tid v) s (·.vregs? v.val 1) fun b => b.writeV v.val b.enabled (laneVals b.enabled fun l => b.tids.getD l 0)
def execBid (d : SReg) (s : State) : Out := unit (.bid d) s always fun b => b.writeS d.val b.bid

/-! ## Regrouping -/

/-- The quadrant's commands of a band. -/
def commandsOf (s : State) (q : Nat) (r : BandRef) : List Cmd :=
  (s.quad q).queue.filter fun c => c.ref.lnch = r.lnch && c.ref.bid = r.bid

/-- Eligible at a regroup (R152). -/
def eligible (s : State) (slot : Nat) (b : Band) : Bool :=
  !b.inTrap && b.valid.length = 1 && b.mask = b.occ && b.results.isEmpty && b.olog.isEmpty
  && (commandsOf s (quadOf slot) (refOf b)).isEmpty && b.children.isEmpty && b.kills.isEmpty && b.killsExtra = 0
  && !(s.slot slot).preq

/-- A half that is receiving a restore or draining a save, until the transfer has ended (R284). -/
def halfBusy (s : State) (slot : Nat) : Bool := (List.range 4).any fun k => (s.slot (slot / 4 * 4 + k)).moving

def ownsAcc (s : State) (q : Nat) (b : Band) : Bool :=
  (s.quad q).accOwn.any fun e => match e.2 with | .band r => r.lnch = b.lnch && r.bid = b.bid | .graph _ _ => false

/-- Whether a band waits at a regroup at an address, with no partner yet and with clocks left (R153). -/
def waitsRegroup (b : Band) (pc : Addr) : Bool :=
  b.pc = pc && b.fusing.isNone && b.path.wait.any fun w => w.kind = .regroup && 0 < w.left

/-- Two bands may fuse (R152, R296). A band that a pre-emption has reached goes on unfused (R153). -/
def mayFuse (s : State) (x y : Nat) (b c : Band) : Bool :=
  let (keep, other) := if b.bid.toNat < c.bid.toNat then (b, c) else (c, b)
  quadOf x = quadOf y && b.lnch = c.lnch && popcount b.occ + popcount c.occ ≤ 96
  && !ownsAcc s (quadOf x) other && !halfBusy s x && !halfBusy s y && !(s.slot x).preq && !(s.slot y).preq && keep.bid ≠ other.bid

/-- The partner of a band at a regroup: the lowest BID that waits there. -/
def regroupPartner (s : State) (b : Band) : Option (Nat × Band) :=
  let cands := (List.range 8).filterMap fun k =>
    let n := s.myQuad * 8 + k
    match s.bands.find? n with
    | some c => if n ≠ s.cur && waitsRegroup c b.pc && mayFuse s s.cur n b c then some (n, c) else none
    | none => none
  cands.foldl (fun m e => match m with
    | none => some e
    | some f => if e.2.bid.toNat < f.2.bid.toNat then some e else some f) none

/-- Clocks of a move of the registers (R298). -/
def moveClocks (b : Band) : Nat := 3 * b.rf

/-- The wait: 256 clocks for a partner, or the clocks of the move that has started. -/
def regroupWait (b : Band) (c : Captured) (partner : Option Nat) : Band :=
  let left := match partner with | none => 256 | some _ => moveClocks b
  { b.setPath { b.path with wait := some { order := 0, kind := .regroup, cap := c, phases := [], left := left, rid := 0, seq := none, rcd := [] } }
    with fusing := partner }

/-- regroup (R152, R153): a band that is not eligible goes on at once; one that finds a partner starts the move of
R298; another waits for at most 256 clocks. -/
def execRegroup (s : State) : Out :=
  issue .regroup s always fun b =>
    if !eligible s s.cur b then s.setBand b.advance
    else
      let c := b.cap .regroup [] [] 0
      match regroupPartner s b with
      | none => s.setBand (regroupWait b c none)
      | some (n, p) =>
        let s := s.setBand (regroupWait b c (some n))
        { s with bands := s.bands.put n (regroupWait p c (some s.cur)) }

/-- A regroup wait ends unfused after 256 clocks, or when a pre-emption reaches the band (R153). -/
def execRegroupTimeout (slot : Nat) (s : State) : Out :=
  .next <| match s.bands.find? slot with
  | none => s
  | some b =>
    match waitOf s slot b.ix .regroup with
    | none => s
    | some w =>
      if b.fusing.isNone && (w.left = 0 || (s.slot slot).preq) then s.onSlot slot fun s => s.modBand Band.advance else s

/-- The threads of two bands by ascending TID, as (second band?, lane) (R298). -/
def fusedLanes (k x : Band) : List (Bool × Nat) :=
  let tid (e : Bool × Nat) : Nat := ((if e.1 then x else k).tids.getD e.2 0).toNat
  let all := (laneList k.occ).map (fun l => (false, l)) ++ (laneList x.occ).map (fun l => (true, l))
  all.mergeSort fun e f => tid e ≤ tid f

/-- Fuse of R298: what the keeping band becomes. A stream that is set in the absorbed band alone moves with its threads (R43,
log 18). -/
def fuse (k x : Band) : Band :=
  let ls := fusedLanes k x
  let src (e : Bool × Nat) : Band := if e.1 then x else k
  let pos := ls.zipIdx
  let vregs : Tab Word := ((List.range k.rf).flatMap fun r => pos.map fun e => (96 * r + e.2, (src e.1).vlane r e.1.2)).filter
    fun e => e.2 ≠ 0
  let preds (p : Nat) : Lanes := maskOf ((pos.filter fun e => ((src e.1).pred p).getLsbD e.1.2).map (·.2))
  let occ := firstLanes ls.length
  let b : Band := (List.range 8).foldl (fun b p =>
    let m := preds p
    ((b.setSreg (36 + 3 * p) (beat m 0)).setSreg (37 + 3 * p) (beat m 1)).setSreg (38 + 3 * p) (beat m 2)) k
  let p := k.path
  { b with
    vregs := vregs
    tids := (pos.map fun e => (e.2, (src e.1).tids.getD e.1.2 0)).filter fun e => e.2 ≠ 0
    gang := pos.filterMap fun e => ((src e.1).gang.find? e.1.2).map fun g => (e.2, g)
    streams := k.streams ++ x.streams.filter fun e => !k.streams.has e.1
    occ := occ, mask := occ, fusing := none, boundary := true, fences := k.fences ++ x.fences
    prog := [(k.pcur, { p with pc := p.pc + 1, age := 0, wait := none, mask := occ })] }

/-- The lane of the fused band that holds the thread of a lane: 126, which is none, for one that has exited. -/
def fusedLane (ls : List (Bool × Nat)) (second : Bool) (l : Nat) : Nat :=
  if l = 127 then 127 else (ls.idxOf? (second, l)).getD 126

/-- A class A request that a fusion finds under way belongs to the fused band's threads from then on (R300, R304). -/
def LineReq.fused (keep : BandRef) (ls : List (Bool × Nat)) (second : Bool) (r : LineReq) : LineReq :=
  { r with ref := keep, owners := maskOf ((laneList r.owners).map (fusedLane ls second))
           lanes := r.lanes.map fun o => { o with lane := fusedLane ls second o.lane } }

/-- What the classes B and A of two bands have under way is the fused band's: an access belongs to its thread (R300). Work of the
engines stays that of the band that issued it, as of one that has exited (R152). -/
def fuseAccesses (s : State) (keep absorbed : BandRef) (ls : List (Bool × Nat)) : State :=
  let side (r : BandRef) : Option Bool :=
    if r.lnch ≠ keep.lnch then none else if r.bid = keep.bid then some false else if r.bid = absorbed.bid then some true else none
  let req (r : LineReq) : LineReq := if r.cls ≠ 5 then r else match side r.ref with
    | none => r
    | some b => r.fused keep ls b
  let op (o : RemoteOp) : RemoteOp := if o.cls ≠ 0 && o.cls ≠ 5 || (side o.ref).isNone then o
    else { o with ref := keep, req := o.req.map req }
  { s with
    clusters := s.clusters.map fun (e : Nat × ClusterState) =>
      (e.1, { e.2 with fifos := e.2.fifos.map (fun f => (f.1, f.2.map req)), miss := e.2.miss.map req })
    remotes := s.remotes.map op }

/-- The end of a fusion's register move (R298): the keeping band goes on after the regroup, and the absorbed band's
slot is free. Its energy goes to the partition (R152), its launch has one band less to exit (R255), and its matrix faults become
A records, as those of a band that has exited (R249, log 18). -/
def execFusionComplete (keep absorbed : Nat) (s : State) : Out :=
  .next <| match s.bands.find? keep, s.bands.find? absorbed with
  | some k, some x =>
    if k.fusing = some absorbed ∧ x.fusing = some keep ∧ k.bid.toNat < x.bid.toNat ∧ k.path.wait.all fun w => w.left = 0 then
      let s := bandGone (reportMatrix s x) absorbed x
      let s := fuseAccesses s (refOf k) (refOf x) (fusedLanes k x)
      let sl := s.slot keep
      { s with bands := s.bands.put keep (fuse k x), slots := s.slots.put keep { sl with count := 0 } }
    else s
  | _, _ => s

end Sys2Proof.Machine
end

