-- ==== Sys2Proof/Machine/Branch.lean ====
section
/-!
DEFINITION. BR (R129 to R132): branches move the current path as a whole and do not consult the guard.
-/
namespace Sys2Proof.Machine

/-- The target of a direct form at address a (R81): a plus four times the signed offset, modulo 2^48. -/
def branchTarget (a : Addr) (o : BitVec 18) : Addr := a + (o.signExtend 48 <<< 2)

/-- The target of a register form (R82): bits [47:32] of the PC with the register's 32 bits. -/
def registerTarget (a : Addr) (w : Word) : Addr := a.extractLsb' 32 16 ++ w

/-- A direct branch taken or not. -/
def branchIf (i : Instr) (o : BitVec 18) (taken : Band → Bool) (s : State) : Out :=
  issue i s always fun b => s.setBand (if taken b then b.goto (branchTarget b.pc o) else b.advance)

/-- The link value of call and jl. -/
def linkWord (b : Band) : Word := w32 (b.pc + 4).toNat

def execBr (o : BitVec 18) (s : State) : Out := branchIf (.br o) o (fun _ => true) s
def execBz (a : SReg) (o : BitVec 18) (s : State) : Out := branchIf (.bz a o) o (fun b => b.sreg a.val = 0) s
def execBnz (a : SReg) (o : BitVec 18) (s : State) : Out := branchIf (.bnz a o) o (fun b => b.sreg a.val ≠ 0) s
def execBneg (a : SReg) (o : BitVec 18) (s : State) : Out := branchIf (.bneg a o) o (fun b => wbit (b.sreg a.val) 31) s
def execBnneg (a : SReg) (o : BitVec 18) (s : State) : Out :=
  branchIf (.bnneg a o) o (fun b => !wbit (b.sreg a.val) 31) s

/-- call: s1 takes the low word of PC + 4. -/
def execCall (o : BitVec 18) (s : State) : Out :=
  issue (.call o) s always fun b => s.setBand ((b.writeS 1 (linkWord b)).goto (branchTarget b.pc o))

/-- A register form; bits [1:0] of the register must be zero (R82). The register is read before s1 is written (R130). -/
def jumpTo (i : Instr) (r : Nat) (link : Bool) (s : State) : Out :=
  issue i s (fun b => wfield (b.sreg r) 1 0 = 0) fun b =>
    let t := registerTarget b.pc (b.sreg r)
    s.setBand ((if link then b.writeS 1 (linkWord b) else b).goto t)

def execJr (a : SReg) (s : State) : Out := jumpTo (.jr a) a.val false s
def execJl (a : SReg) (s : State) : Out := jumpTo (.jl a) a.val true s
def execRet (s : State) : Out := jumpTo .ret 1 false s

/-- The lanes that a pbr sends to its target (R131): active lanes, without regard to the guard. -/
def takenLanes (b : Band) (n : Bool) (p : PReg) : Lanes :=
  b.mask &&& (if n then ~~~(b.pred p.val) else b.pred p.val)

/-- The split of R131: a new entry e takes the lanes t at the target, and the current one keeps the others. -/
def Band.split (b : Band) (e : Nat) (t : Lanes) (target : Addr) : Band :=
  let b1 := b.setEntry e { PathEntry.empty with v := true, pc := Band.wordAddr target, mask := t }
  let b2 : Band := { (b1.splitWindows e).advance with mask := b.mask &&& ~~~t }
  if b2.programPaths > 1 then b2.needBoundary else b2

/-- pbr (R131, R132). With every entry of the table valid it raises PATH_FULL before any change. -/
def execPbr (n : Bool) (p : PReg) (o : BitVec 18) (s : State) : Out :=
  issue (.pbr n p o) s always fun b =>
    let t := takenLanes b n p
    let target := branchTarget b.pc o
    if t = 0 then s.setBand b.advance
    else if b.mask &&& ~~~t = 0 then s.setBand (b.goto target)
    else match (List.range b.tableSize).find? fun k => !(b.entry k).v with
      | none => trapEarly s (wordOf (.pbr n p o)) { code := code.pathFull }
      | some e => s.setBand (b.split e t target)

end Sys2Proof.Machine
end

