-- ==== Sys2Proof/Machine/SpecialFn.lean ====
section
/-!
DEFINITION. The exact functions of the VSF forms, delivered correctly rounded in every mode (R166, R167). A result
that is no dyadic number is either given with a low bit that stands for what lies below it (square roots and
quotients, where the remainder is exact), or enclosed by two bounds that are brought together until both round
alike (the functions of analysis, whose values at the remaining arguments are irrational, so that the bounds always
part from the rounding boundaries).
-/
namespace Sys2Proof.Machine.SpecialFn

/-- Bits kept of a quotient or root: more than twice a significand of binary64. -/
def keep : Nat := 128

/-- The square root of a number, rounded down, bit by bit from bit k-1. -/
def isqrtFrom : Nat → Nat → Nat → Nat
  | 0, _, r => r
  | k + 1, n, r =>
    let r' := r + 2 ^ k
    isqrtFrom k n (if r' * r' ≤ n then r' else r)

def isqrt (n : Nat) : Nat := isqrtFrom (Nat.log2 n / 2 + 1) n 0

/-- n with a low bit appended that says whether anything lies below it. -/
def sticky (n : Nat) (exact : Bool) : Nat := 2 * n + (!exact).toNat

/-- The quotient of two positive numbers. -/
def quot (neg : Bool) (m1 : Nat) (e1 : Int) (m2 : Nat) (e2 : Int) : FVal :=
  let k := keep + Nat.log2 m2
  let n := m1 * 2 ^ k
  .fin neg (sticky (n / m2) (decide (n % m2 = 0))) (e1 - e2 - k - 1)

/-- The square root of a positive number m * 2^e. -/
def root (m : Nat) (e : Int) : FVal :=
  let k : Int := 2 * keep + e % 2
  let n := m * 2 ^ k.toNat
  let r := isqrt n
  .fin false (sticky r (decide (r * r = n))) ((e - k) / 2 - 1)

/-- The reciprocal of the square root of a positive number m * 2^e. -/
def rootInv (m : Nat) (e : Int) : FVal :=
  let k : Int := 2 * (keep + Nat.log2 m) + e % 2
  let n := 2 ^ k.toNat / m
  let r := isqrt n
  .fin false (sticky r (decide (r * r * m = 2 ^ k.toNat))) (-(e + k) / 2 - 1)

/-! Fixed-point numbers with p fraction bits. Each series below is cut where its terms vanish; with the errors of
its roundings the result is off by less than 2^slack units. -/

def slack : Nat := 20

/-- Sum of x^(2i+1) / (2i+1) (sign alternating if `alt`), i from the current index. `pw` is x^(2i+1), `x2` is x^2. -/
def atanSeries (p : Nat) (alt : Bool) : Nat → Nat → Int → Int → Int
  | 0, _, _, _ => 0
  | k + 1, i, pw, x2 =>
    let term := pw / (2 * i + 1)
    (if alt && decide (i % 2 = 1) then -term else term) + atanSeries p alt k (i + 1) (pw * x2 / 2 ^ p) x2

/-- Sum of x^i / i!. -/
def expSeries (p : Nat) : Nat → Nat → Int → Int → Int
  | 0, _, _, _ => 0
  | k + 1, i, term, x => term + expSeries p k (i + 1) (term * x / (2 ^ p * (i + 1))) x

/-- Sum of (-1)^i x^(2i+o) / (2i+o)!, from a first term. -/
def trigSeries (p : Nat) (o : Nat) : Nat → Nat → Int → Int → Int
  | 0, _, _, _ => 0
  | k + 1, i, term, x2 =>
    term + trigSeries p o k (i + 1) (-(term * x2 / (2 ^ p * ((2 * i + o + 1) * (2 * i + o + 2))))) x2

/-- ln 2 = 2 atanh(1/3). -/
def ln2 (p : Nat) : Int := 2 * atanSeries p false (p / 3 + 2) 0 (2 ^ p / 3) (2 ^ p / 9)

/-- Pi by Machin's formula. -/
def pi (p : Nat) : Int :=
  4 * (4 * atanSeries p true (p / 4 + 2) 0 (2 ^ p / 5) (2 ^ p / 25)
    - atanSeries p true (p / 15 + 2) 0 (2 ^ p / 239) (2 ^ p / 57121))

/-- m * 2^e in fixed point, rounded down. -/
def fixed (p : Nat) (m : Nat) (e : Int) : Int :=
  if 0 ≤ e + p then (m : Int) * 2 ^ (e + p).toNat else (m : Int) / 2 ^ (-(e + p)).toNat

/-- 2^f for a fixed-point f with 0 <= f < 1. -/
def exp2Frac (p : Nat) (f : Int) : Int := expSeries p (p / 2 + 8) 0 (2 ^ p) (f * ln2 p / 2 ^ p)

/-- log2 of m * 2^e, positive. -/
def log2Fix (p : Nat) (m : Nat) (e : Int) : Int :=
  let k := FVal.lead m e
  -- y in [1, 2), t = (y - 1) / (y + 1)
  let y := fixed p m (-(Nat.log2 m : Int))
  let t := (y - 2 ^ p) * 2 ^ p / (y + 2 ^ p)
  k * 2 ^ p + 2 * atanSeries p false (p / 3 + 2) 0 t (t * t / 2 ^ p) * 2 ^ p / ln2 p

/-- sin (o = 1) or cos (o = 0) of a positive m * 2^e. -/
def trigFix (p : Nat) (cosine : Bool) (m : Nat) (e : Int) : Int :=
  let g := p + 8 + (FVal.lead m e).toNat
  let half := pi g / 2
  let x := fixed g m e
  let k := x / half
  let r := (x % half) / 2 ^ (g - p)
  let q := (k + cosine.toNat) % 4
  let v :=
    if q % 2 = 0 then trigSeries p 1 (p / 2 + 8) 0 r (r * r / 2 ^ p)
    else trigSeries p 0 (p / 2 + 8) 0 (2 ^ p) (r * r / 2 ^ p)
  if q ≥ 2 then -v else v

/-- tanh of a positive m * 2^e below 64: (E - 1) / (E + 1) with E = e^(2x) = 2^(2x / ln 2). -/
def tanhFix (p : Nat) (m : Nat) (e : Int) : Int :=
  let g := p + 256
  let z := 2 * fixed g m e * 2 ^ g / ln2 g
  let n := z / 2 ^ g
  let big := exp2Frac g (z % 2 ^ g) * 2 ^ n.toNat
  (big - 2 ^ g) * 2 ^ p / (big + 2 ^ g)

/-- The code of a real that lies within 2^slack units of `approx p` for every p: the precision grows until both
bounds round alike. -/
def enclose (approx : Nat → Int) (e0 : Int) (t : Fmt) (rm : Rounding) (fz : Bool) : Nat → Nat → Nat
  | 0, p => fround (FVal.ofInt (approx p) (e0 - p)) t rm fz
  | k + 1, p =>
    let a := approx p
    let lo := fround (FVal.ofInt (a - 2 ^ slack) (e0 - p)) t rm fz
    let hi := fround (FVal.ofInt (a + 2 ^ slack) (e0 - p)) t rm fz
    if lo = hi ∧ (a < -(2 ^ slack) ∨ 2 ^ slack < a) then lo else enclose approx e0 t rm fz k (2 * p)

def bounded (approx : Nat → Int) (e0 : Int) (t : Fmt) (rm : Rounding) (fz : Bool) : Nat :=
  enclose approx e0 t rm fz 4 256

/-- A positive number a little below m * 2^e, with nothing representable between the two. -/
def below (neg : Bool) (m : Nat) (e : Int) : FVal := .fin neg (m * 2 ^ (2 * keep) - 1) (e - 2 * keep)
def above (neg : Bool) (m : Nat) (e : Int) : FVal := .fin neg (m * 2 ^ (2 * keep) + 1) (e - 2 * keep)

def rcp : FVal → FVal
  | .nan => .nan
  | .inf n => .zero n
  | .zero n => .inf n
  | .fin n m e => quot n 1 0 m e

def rsq : FVal → FVal
  | .nan => .nan
  | .inf n => if n then .nan else .zero false
  | .zero n => .inf n
  | .fin n m e => if n then .nan else rootInv m e

def sqrt : FVal → FVal
  | .nan => .nan
  | .inf n => if n then .nan else .inf false
  | .zero n => .zero n
  | .fin n m e => if n then .nan else root m e

/-- n / x of R166 and R167. -/
def div : FVal → FVal → FVal
  | .nan, _ => .nan
  | _, .nan => .nan
  | .zero _, .zero _ => .nan
  | .inf _, .inf _ => .nan
  | .inf a, .zero b => .inf (a ^^ b)
  | .inf a, .fin b _ _ => .inf (a ^^ b)
  | .zero a, .inf b => .zero (a ^^ b)
  | .zero a, .fin b _ _ => .zero (a ^^ b)
  | .fin a _ _, .zero b => .inf (a ^^ b)
  | .fin a _ _, .inf b => .zero (a ^^ b)
  | .fin a m e, .fin b m' e' => quot (a ^^ b) m e m' e'

/-- 2^x. An integer x gives a power of two; a tiny x gives a number next to 1; past 2^12 the result over- or
underflows in every format. -/
def exp2 (x : FVal) (t : Fmt) (rm : Rounding) (fz : Bool) : Nat :=
  match x with
  | .nan => fround .nan t rm fz
  | .inf n => fround (if n then .zero false else .inf false) t rm fz
  | .zero _ => fround (.fin false 1 0) t rm fz
  | .fin n m e =>
    if 12 ≤ FVal.lead m e then fround (.fin false 1 (if n then -8192 else 8192)) t rm fz
    else if FVal.lead m e < -100 then fround (if n then below false 1 0 else above false 1 0) t rm fz
    else
      let z := fixed 256 m e
      if decide (z % 2 ^ 256 = 0) && decide (-256 ≤ e) then
        fround (.fin false 1 (if n then -(z / 2 ^ 256) else z / 2 ^ 256)) t rm fz
      else
        let whole (p : Nat) : Int := if n then -(fixed p m e) else fixed p m e
        bounded (fun p => exp2Frac p (whole p % 2 ^ p)) (whole 256 / 2 ^ 256) t rm fz

def log2 (x : FVal) (t : Fmt) (rm : Rounding) (fz : Bool) : Nat :=
  match x with
  | .nan => fround .nan t rm fz
  | .inf n => fround (if n then .nan else .inf false) t rm fz
  | .zero _ => fround (.inf true) t rm fz
  | .fin n m e =>
    if n then fround .nan t rm fz
    else if m = 2 ^ Nat.log2 m then fround (FVal.ofInt (FVal.lead m e) 0) t rm fz
    else bounded (fun p => log2Fix p m e) 0 t rm fz

def sin (x : FVal) (t : Fmt) (rm : Rounding) (fz : Bool) : Nat :=
  match x with
  | .nan | .inf _ => fround .nan t rm fz
  | .zero n => fround (.zero n) t rm fz
  | .fin n m e =>
    if FVal.lead m e < -100 then fround (below n m e) t rm fz
    else bounded (fun p => let v := trigFix p false m e; if n then -v else v) 0 t rm fz

def cos (x : FVal) (t : Fmt) (rm : Rounding) (fz : Bool) : Nat :=
  match x with
  | .nan | .inf _ => fround .nan t rm fz
  | .zero _ => fround (.fin false 1 0) t rm fz
  | .fin _ m e =>
    if FVal.lead m e < -100 then fround (below false 1 0) t rm fz
    else bounded (fun p => trigFix p true m e) 0 t rm fz

def tanh (x : FVal) (t : Fmt) (rm : Rounding) (fz : Bool) : Nat :=
  match x with
  | .nan => fround .nan t rm fz
  | .inf n => fround (.fin n 1 0) t rm fz
  | .zero n => fround (.zero n) t rm fz
  | .fin n m e =>
    if FVal.lead m e < -100 then fround (below n m e) t rm fz
    else if 6 ≤ FVal.lead m e then fround (below n 1 0) t rm fz
    else bounded (fun p => let v := tanhFix p m e; if n then -v else v) 0 t rm fz

end Sys2Proof.Machine.SpecialFn
end

