-- ==== Sys2Proof/Machine/Scalar.lean ====
section
/-!
DEFINITION. SALU, SALUI and SLI (R124 to R127): uniform forms on 32-bit values that consult neither MR nor the guard.
-/
namespace Sys2Proof.Machine

/-! ## The operations -/

/-- Bits [23:0] read as a signed value. -/
def sx24 (w : Word) : Int := (w.setWidth 24).toInt

def mul24Word (a b : Word) : Word := w32i (sx24 a * sx24 b)
def mulHigh (a b : Word) : Word := w32i (a.toInt * b.toInt / 2 ^ 32)
def mulHighN (a b : Word) : Word := w32 (a.toNat * b.toNat / 2 ^ 32)
/-- The shift count b[4:0]. -/
def count5 (b : Word) : Nat := b.toNat % 32
def sllWord (a : Word) (c : Nat) : Word := a <<< c
def srlWord (a : Word) (c : Nat) : Word := a >>> c
def sraWord (a : Word) (c : Nat) : Word := a.sshiftRight c
def rolWord (a : Word) (c : Nat) : Word := a.rotateLeft c
def rorWord (a : Word) (c : Nat) : Word := a.rotateRight c
def minWord (a b : Word) : Word := if a.toInt ≤ b.toInt then a else b
def maxWord (a b : Word) : Word := if a.toInt ≥ b.toInt then a else b
def minnWord (a b : Word) : Word := if a.toNat ≤ b.toNat then a else b
def maxnWord (a b : Word) : Word := if a.toNat ≥ b.toNat then a else b
def sltWord (a b : Word) : Word := boolWord (a.toInt < b.toInt)
def sltnWord (a b : Word) : Word := boolWord (a.toNat < b.toNat)
/-- Leading zeros of the low w bits, counted from bit w - 1. -/
def leadZeros : Nat → Nat → Nat
  | 0, _ => 0
  | w + 1, x => if x.testBit w then 0 else leadZeros w x + 1
/-- Trailing zeros of the low w bits. -/
def trailZeros (w x : Nat) : Nat := ((List.range w).find? x.testBit).getD w
def popBits (w x : Nat) : Nat := ((List.range w).filter x.testBit).length
/-- Bit j of the result is bit w - 1 - j. -/
def revBits (w x : Nat) : Nat := (List.range w).foldl (fun r j => 2 * r + (x.testBit j).toNat) 0
def bswapWord (a : Word) : Word := w32 (leNat (leBytes 4 a.toNat).reverse)

/-! ## Shapes -/

/-- A form with two sources. -/
def scalar3 (i : Instr) (d a b : SReg) (f : Word → Word → Word) (s : State) : Out :=
  unit i s always fun x => x.writeS d.val (f (x.sreg a.val) (x.sreg b.val))

/-- A form with one source. -/
def scalar2 (i : Instr) (d a : SReg) (f : Word → Word) (s : State) : Out :=
  unit i s always fun x => x.writeS d.val (f (x.sreg a.val))

/-- A form with a source and an immediate, widened after a LIMM. -/
def scalarImm (i : Instr) (d a : SReg) (m : BitVec 12) (f : Word → Word → Word) (s : State) : Out :=
  unit i s always fun x => x.writeS d.val (f (x.sreg a.val) (x.imm m))

/-! ## SALU (R125) -/

/-- add: (a + b) mod 2^32. -/
def execAdd (d a b : SReg) (s : State) : Out := scalar3 (.add d a b) d a b (· + ·) s
/-- sub: (a − b) mod 2^32. -/
def execSub (d a b : SReg) (s : State) : Out := scalar3 (.sub d a b) d a b (· - ·) s
def execMul24 (d a b : SReg) (s : State) : Out := scalar3 (.mul24 d a b) d a b mul24Word s
def execMul (d a b : SReg) (s : State) : Out := scalar3 (.mul d a b) d a b (· * ·) s
def execMulh (d a b : SReg) (s : State) : Out := scalar3 (.mulh d a b) d a b mulHigh s
def execMulhn (d a b : SReg) (s : State) : Out := scalar3 (.mulhn d a b) d a b mulHighN s
def execAnd (d a b : SReg) (s : State) : Out := scalar3 (.and d a b) d a b (· &&& ·) s
def execOr (d a b : SReg) (s : State) : Out := scalar3 (.or d a b) d a b (· ||| ·) s
def execXor (d a b : SReg) (s : State) : Out := scalar3 (.xor d a b) d a b (· ^^^ ·) s
def execAndn (d a b : SReg) (s : State) : Out := scalar3 (.andn d a b) d a b (fun x y => x &&& ~~~y) s
def execOrn (d a b : SReg) (s : State) : Out := scalar3 (.orn d a b) d a b (fun x y => x ||| ~~~y) s
/-- The shifts and rotates take b[4:0]; b[31:5] is ignored. -/
def execSll (d a b : SReg) (s : State) : Out := scalar3 (.sll d a b) d a b (fun x y => sllWord x (count5 y)) s
def execSrl (d a b : SReg) (s : State) : Out := scalar3 (.srl d a b) d a b (fun x y => srlWord x (count5 y)) s
def execSra (d a b : SReg) (s : State) : Out := scalar3 (.sra d a b) d a b (fun x y => sraWord x (count5 y)) s
def execRol (d a b : SReg) (s : State) : Out := scalar3 (.rol d a b) d a b (fun x y => rolWord x (count5 y)) s
def execRor (d a b : SReg) (s : State) : Out := scalar3 (.ror d a b) d a b (fun x y => rorWord x (count5 y)) s
def execMin (d a b : SReg) (s : State) : Out := scalar3 (.min d a b) d a b minWord s
def execMax (d a b : SReg) (s : State) : Out := scalar3 (.max d a b) d a b maxWord s
def execMinn (d a b : SReg) (s : State) : Out := scalar3 (.minn d a b) d a b minnWord s
def execMaxn (d a b : SReg) (s : State) : Out := scalar3 (.maxn d a b) d a b maxnWord s
def execSlt (d a b : SReg) (s : State) : Out := scalar3 (.slt d a b) d a b sltWord s
def execSltn (d a b : SReg) (s : State) : Out := scalar3 (.sltn d a b) d a b sltnWord s
def execEq (d a b : SReg) (s : State) : Out := scalar3 (.eq d a b) d a b (fun x y => boolWord (x = y)) s
def execPopc (d a : SReg) (s : State) : Out := scalar2 (.popc d a) d a (fun x => w32 (popBits 32 x.toNat)) s
/-- clz and ctz give 32 for 0. -/
def execClz (d a : SReg) (s : State) : Out := scalar2 (.clz d a) d a (fun x => w32 (leadZeros 32 x.toNat)) s
def execCtz (d a : SReg) (s : State) : Out := scalar2 (.ctz d a) d a (fun x => w32 (trailZeros 32 x.toNat)) s
def execBrev (d a : SReg) (s : State) : Out := scalar2 (.brev d a) d a (fun x => w32 (revBits 32 x.toNat)) s
def execBswap (d a : SReg) (s : State) : Out := scalar2 (.bswap d a) d a bswapWord s
def execSxb (d a : SReg) (s : State) : Out := scalar2 (.sxb d a) d a (fun x => (x.setWidth 8).signExtend 32) s
def execSxh (d a : SReg) (s : State) : Out := scalar2 (.sxh d a) d a (fun x => (x.setWidth 16).signExtend 32) s
def execZxb (d a : SReg) (s : State) : Out := scalar2 (.zxb d a) d a (fun x => (x.setWidth 8).setWidth 32) s
def execZxh (d a : SReg) (s : State) : Out := scalar2 (.zxh d a) d a (fun x => (x.setWidth 16).setWidth 32) s

/-! ## SALUI (R126) -/

def execAddi (d a : SReg) (i : BitVec 12) (s : State) : Out := scalarImm (.addi d a i) d a i (· + ·) s
def execAndi (d a : SReg) (i : BitVec 12) (s : State) : Out := scalarImm (.andi d a i) d a i (· &&& ·) s
def execOri (d a : SReg) (i : BitVec 12) (s : State) : Out := scalarImm (.ori d a i) d a i (· ||| ·) s
def execXori (d a : SReg) (i : BitVec 12) (s : State) : Out := scalarImm (.xori d a i) d a i (· ^^^ ·) s
def execSlti (d a : SReg) (i : BitVec 12) (s : State) : Out := scalarImm (.slti d a i) d a i sltWord s
def execSltni (d a : SReg) (i : BitVec 12) (s : State) : Out := scalarImm (.sltni d a i) d a i sltnWord s
def execSlli (d a : SReg) (c : BitVec 5) (s : State) : Out :=
  scalar2 (.slli d a c) d a (fun x => sllWord x c.toNat) s
def execSrli (d a : SReg) (c : BitVec 5) (s : State) : Out :=
  scalar2 (.srli d a c) d a (fun x => srlWord x c.toNat) s
def execSrai (d a : SReg) (c : BitVec 5) (s : State) : Out :=
  scalar2 (.srai d a c) d a (fun x => sraWord x c.toNat) s
def execRori (d a : SReg) (c : BitVec 5) (s : State) : Out :=
  scalar2 (.rori d a c) d a (fun x => rorWord x c.toNat) s
def execMuli (d a : SReg) (i : BitVec 12) (s : State) : Out := scalarImm (.muli d a i) d a i (· * ·) s

/-! ## SLI (R127) -/

/-- sli writes the 20-bit immediate, sign-extended. -/
def execSli (d : SReg) (i : BitVec 20) (s : State) : Out :=
  unit (.sli d i) s always fun x => x.writeS d.val (i.signExtend 32)

/-- slu writes bits [31:12] and keeps bits [11:0]. -/
def execSlu (d : SReg) (i : BitVec 20) (s : State) : Out :=
  unit (.slu d i) s always fun x => x.writeS d.val (i ++ (x.sreg d.val).setWidth 12)

end Sys2Proof.Machine
end

