-- ==== Sys2Proof/Machine/VectorInt.lean ====
section
/-!
DEFINITION. VALU and VALUI (R160, R161): integer and bit-pattern forms on the enabled lanes, on codes of W bits.
-/
namespace Sys2Proof.Machine

/-! ## Operations on codes -/

/-- The bits of an operand that vmul24 multiplies. -/
def mul24Operand (t : Ty) (c : Nat) : Int :=
  let w := min t.width 24
  if t.signed then wrapInt (c % 2 ^ w : Nat) true w else (c % 2 ^ w : Nat)

/-- Fit of an exact integer (R47), as a code. -/
def fitCode (sat : Bool) (t : Ty) (x : Int) : Nat := codeOf (fit sat x t.signed t.width) t.width

def sllCode (w x c : Nat) : Nat := x * 2 ^ c % 2 ^ w
def srlCode (x c : Nat) : Nat := x / 2 ^ c
/-- Past the width, all copies of the sign. -/
def sraCode (w x c : Nat) : Nat := codeOf (intOf true w x / 2 ^ c) w
def rolCode (w x c : Nat) : Nat := (x * 2 ^ (c % w) + x / 2 ^ (w - c % w)) % 2 ^ w
def notCode (w x : Nat) : Nat := 2 ^ w - 1 - x % 2 ^ w

/-! ## Shapes -/

/-- Legal operands under the type of MR: accepted, and every register within the allocation. -/
def vlegal (accept : Ty → Bool) (rs : List VReg) (b : Band) : Bool :=
  accept b.ty && rs.all fun r => b.elem? b.ty r.val

/-- A form that writes a code computed from the lane's codes. `f` takes the band, the lane. -/
def vecForm (i : Instr) (accept : Ty → Bool) (d : VReg) (rs : List VReg) (f : Band → Nat → Nat) (s : State) : Out :=
  unit i s (vlegal accept (d :: rs)) fun b => b.writeAll (b.wr b.ty d.val b.enabled (f b))

def anyTy (_ : Ty) : Bool := true
def only32 (t : Ty) : Bool := t.et = .i32 || t.et = .n32

/-- Two operands as integers of ET's view; the result is fitted. -/
def vecFit (i : Instr) (d a b : VReg) (f : Ty → Nat → Nat → Int) (s : State) : Out :=
  vecForm i Ty.isInt d [a, b] (fun x l => fitCode (mr.sat x.mr) x.ty (f x.ty (x.code x.ty a.val l) (x.code x.ty b.val l))) s

/-- Two operands as codes. -/
def vecBits (i : Instr) (accept : Ty → Bool) (d a b : VReg) (f : Ty → Nat → Nat → Nat) (s : State) : Out :=
  vecForm i accept d [a, b] (fun x l => f x.ty (x.code x.ty a.val l) (x.code x.ty b.val l)) s

/-- One operand as a code. -/
def vecBits1 (i : Instr) (accept : Ty → Bool) (d a : VReg) (f : Ty → Nat → Nat) (s : State) : Out :=
  vecForm i accept d [a] (fun x l => f x.ty (x.code x.ty a.val l)) s

/-- The code of an immediate under the type: its low W bits, sign-extended for f64 (R161). -/
def immCode (x : Band) (m : BitVec 9) : Nat := codeOf (x.imm m).toInt x.ty.width

def vecFitImm (i : Instr) (d a : VReg) (m : BitVec 9) (f : Ty → Nat → Nat → Int) (s : State) : Out :=
  vecForm i Ty.isInt d [a] (fun x l => fitCode (mr.sat x.mr) x.ty (f x.ty (x.code x.ty a.val l) (immCode x m))) s

def vecBitsImm (i : Instr) (accept : Ty → Bool) (d a : VReg) (m : BitVec 9) (f : Ty → Nat → Nat → Nat) (s : State) : Out :=
  vecForm i accept d [a] (fun x l => f x.ty (x.code x.ty a.val l) (immCode x m)) s

/-! ## The results -/

def addOf (t : Ty) (x y : Nat) : Int := intOf t.signed t.width x + intOf t.signed t.width y
def subOf (t : Ty) (x y : Nat) : Int := intOf t.signed t.width x - intOf t.signed t.width y
def mul24Of (t : Ty) (x y : Nat) : Int := mul24Operand t x * mul24Operand t y
def mul32Of (t : Ty) (x y : Nat) : Int := intOf t.signed t.width x * intOf t.signed t.width y
def absdOf (t : Ty) (x y : Nat) : Int := (intOf t.signed t.width x - intOf t.signed t.width y).natAbs
def mulh32Of (_ : Ty) (x y : Nat) : Nat := codeOf (intOf true 32 x * intOf true 32 y / 2 ^ 32) 32
def mulhn32Of (_ : Ty) (x y : Nat) : Nat := x * y / 2 ^ 32
def andOf (_ : Ty) (x y : Nat) : Nat := Nat.land x y
def orOf (_ : Ty) (x y : Nat) : Nat := Nat.lor x y
def xorOf (_ : Ty) (x y : Nat) : Nat := Nat.xor x y
def andnOf (t : Ty) (x y : Nat) : Nat := Nat.land x (notCode t.width y)
/-- The shifts take c = b[4:0]; 0 or all copies when c reaches W. -/
def vsllOf (t : Ty) (x y : Nat) : Nat := sllCode t.width x (y % 32)
def vsrlOf (_ : Ty) (x y : Nat) : Nat := srlCode x (y % 32)
def vsraOf (t : Ty) (x y : Nat) : Nat := sraCode t.width x (y % 32)
def vrolOf (t : Ty) (x y : Nat) : Nat := rolCode t.width x (y % 32)
def vminOf (t : Ty) (x y : Nat) : Nat := if intOf t.signed t.width x ≤ intOf t.signed t.width y then x else y
def vmaxOf (t : Ty) (x y : Nat) : Nat := if intOf t.signed t.width x ≥ intOf t.signed t.width y then x else y
def popcOf (t : Ty) (x : Nat) : Nat := popBits t.width x
def clzOf (t : Ty) (x : Nat) : Nat := leadZeros t.width x
def ctzOf (t : Ty) (x : Nat) : Nat := trailZeros t.width x
def brevOf (t : Ty) (x : Nat) : Nat := revBits t.width x
def movOf (_ : Ty) (x : Nat) : Nat := x

/-! ## VALU (R160) -/

def execVadd (d a b : VReg) (s : State) : Out := vecFit (.vadd d a b) d a b addOf s
def execVsub (d a b : VReg) (s : State) : Out := vecFit (.vsub d a b) d a b subOf s
def execVmul24 (d a b : VReg) (s : State) : Out := vecFit (.vmul24 d a b) d a b mul24Of s
def execVmul32 (d a b : VReg) (s : State) : Out := vecFit (.vmul32 d a b) d a b mul32Of s
def execVabsd (d a b : VReg) (s : State) : Out := vecFit (.vabsd d a b) d a b absdOf s
def execVmulh32 (d a b : VReg) (s : State) : Out := vecBits (.vmulh32 d a b) only32 d a b mulh32Of s
def execVmulhn32 (d a b : VReg) (s : State) : Out := vecBits (.vmulhn32 d a b) only32 d a b mulhn32Of s
def execVand (d a b : VReg) (s : State) : Out := vecBits (.vand d a b) anyTy d a b andOf s
def execVor (d a b : VReg) (s : State) : Out := vecBits (.vor d a b) anyTy d a b orOf s
def execVxor (d a b : VReg) (s : State) : Out := vecBits (.vxor d a b) anyTy d a b xorOf s
def execVandn (d a b : VReg) (s : State) : Out := vecBits (.vandn d a b) anyTy d a b andnOf s
def execVsll (d a b : VReg) (s : State) : Out := vecBits (.vsll d a b) Ty.isInt d a b vsllOf s
def execVsrl (d a b : VReg) (s : State) : Out := vecBits (.vsrl d a b) Ty.isInt d a b vsrlOf s
def execVsra (d a b : VReg) (s : State) : Out := vecBits (.vsra d a b) Ty.isInt d a b vsraOf s
def execVrol (d a b : VReg) (s : State) : Out := vecBits (.vrol d a b) Ty.isInt d a b vrolOf s
def execVmin (d a b : VReg) (s : State) : Out := vecBits (.vmin d a b) Ty.isInt d a b vminOf s
def execVmax (d a b : VReg) (s : State) : Out := vecBits (.vmax d a b) Ty.isInt d a b vmaxOf s
def execVpopc (d a : VReg) (s : State) : Out := vecBits1 (.vpopc d a) Ty.isInt d a popcOf s
def execVclz (d a : VReg) (s : State) : Out := vecBits1 (.vclz d a) Ty.isInt d a clzOf s
def execVctz (d a : VReg) (s : State) : Out := vecBits1 (.vctz d a) Ty.isInt d a ctzOf s
def execVbrev (d a : VReg) (s : State) : Out := vecBits1 (.vbrev d a) Ty.isInt d a brevOf s
def execVmov (d a : VReg) (s : State) : Out := vecBits1 (.vmov d a) anyTy d a movOf s
/-- vsel: (a AND m) OR (b AND NOT m), with m the old code of vd. -/
def execVsel (d a b : VReg) (s : State) : Out :=
  vecForm (.vsel d a b) anyTy d [a, b] (fun x l =>
    let m := x.code x.ty d.val l
    Nat.lor (Nat.land (x.code x.ty a.val l) m) (Nat.land (x.code x.ty b.val l) (notCode x.ty.width m))) s

/-! ## VALUI (R161) -/

def execVaddi (d a : VReg) (i : BitVec 9) (s : State) : Out := vecFitImm (.vaddi d a i) d a i addOf s
def execVmuli24 (d a : VReg) (i : BitVec 9) (s : State) : Out := vecFitImm (.vmuli24 d a i) d a i mul24Of s
def execVandi (d a : VReg) (i : BitVec 9) (s : State) : Out := vecBitsImm (.vandi d a i) anyTy d a i andOf s
def execVori (d a : VReg) (i : BitVec 9) (s : State) : Out := vecBitsImm (.vori d a i) anyTy d a i orOf s
def execVxori (d a : VReg) (i : BitVec 9) (s : State) : Out := vecBitsImm (.vxori d a i) anyTy d a i xorOf s
def execVmini (d a : VReg) (i : BitVec 9) (s : State) : Out := vecBitsImm (.vmini d a i) Ty.isInt d a i vminOf s
def execVmaxi (d a : VReg) (i : BitVec 9) (s : State) : Out := vecBitsImm (.vmaxi d a i) Ty.isInt d a i vmaxOf s
def execVslli (d a : VReg) (c : BitVec 5) (s : State) : Out :=
  vecBits1 (.vslli d a c) Ty.isInt d a (fun t x => vsllOf t x c.toNat) s
def execVsrli (d a : VReg) (c : BitVec 5) (s : State) : Out :=
  vecBits1 (.vsrli d a c) Ty.isInt d a (fun t x => vsrlOf t x c.toNat) s
def execVsrai (d a : VReg) (c : BitVec 5) (s : State) : Out :=
  vecBits1 (.vsrai d a c) Ty.isInt d a (fun t x => vsraOf t x c.toNat) s
def execVmovi (d : VReg) (i : BitVec 9) (s : State) : Out :=
  vecForm (.vmovi d i) anyTy d [] (fun x _ => immCode x i) s

end Sys2Proof.Machine
end

