-- ==== Sys2Proof/Machine/VectorFloat.lean ====
section
/-!
DEFINITION. VFP (R162 to R165), VSF (R166, R167) and VCVT (R168 to R172).
-/
namespace Sys2Proof.Machine

def Band.rm (b : Band) : Rounding := mr.rounding b.mr
def Band.sub (b : Band) : Bool := mr.sub b.mr
def fdesc (b : Band) : Fmt := b.ty.fmt

/-- Round with MR.RM and MR.SUB (R60). -/
def Band.round (b : Band) (x : FVal) : Nat := fround x (fdesc b) b.rm b.sub
/-- FSum (R162). -/
def Band.fsum (b : Band) (xs : List FVal) : Nat := Sys2Proof.Machine.fsum xs (fdesc b) b.rm b.sub

/-! ## Shapes -/

/-- A form on the values of the float kinds. -/
def vecFloat (i : Instr) (d : VReg) (rs : List VReg) (f : Band → Nat → Nat) (s : State) : Out :=
  vecForm i Ty.isFloat d rs f s

def fv (x : Band) (r : VReg) (l : Nat) : FVal := x.rdVal x.ty r.val l

def vecFloat3 (i : Instr) (d a b : VReg) (f : Band → FVal → FVal → FVal → Nat) (s : State) : Out :=
  vecFloat i d [a, b] (fun x l => f x (fv x a l) (fv x b l) (fv x d l)) s

def vecFloat2 (i : Instr) (d a : VReg) (f : Band → FVal → Nat) (s : State) : Out :=
  vecFloat i d [a] (fun x l => f x (fv x a l)) s

/-! ## VFP (R163) -/

def execVfadd (d a b : VReg) (s : State) : Out := vecFloat3 (.vfadd d a b) d a b (fun x p q _ => x.fsum [p, q]) s
def execVfsub (d a b : VReg) (s : State) : Out := vecFloat3 (.vfsub d a b) d a b (fun x p q _ => x.fsum [p, q.neg]) s
def execVfmul (d a b : VReg) (s : State) : Out := vecFloat3 (.vfmul d a b) d a b (fun x p q _ => x.round (p.mul q)) s
def execVfma (d a b : VReg) (s : State) : Out := vecFloat3 (.vfma d a b) d a b (fun x p q c => x.fsum [p.mul q, c]) s
def execVfms (d a b : VReg) (s : State) : Out := vecFloat3 (.vfms d a b) d a b (fun x p q c => x.fsum [p.mul q, c.neg]) s
def execVfnma (d a b : VReg) (s : State) : Out := vecFloat3 (.vfnma d a b) d a b (fun x p q c => x.fsum [(p.mul q).neg, c]) s

/-- x below y, with −0 below +0 (R164). -/
def belowVal (x y : FVal) : Bool :=
  FVal.cmp x y = .lt || (match x, y with | .zero true, .zero false => true | _, _ => false)

/-- An operand's code as it is returned (R55, R164): a zero by its sign, NaN canonical. -/
def operandCode (t : Fmt) (code : Nat) (x : FVal) : Nat :=
  match x with
  | .zero n => zeroCode t n
  | .nan => t.nanCode
  | _ => code

/-- vfmin and vfmax of R164 on codes with their values: the first when they are equal. -/
def minmaxCode (max : Bool) (a b : Nat × FVal) : Nat × FVal :=
  if a.2.isNan then b else if b.2.isNan then a
  else if (if max then belowVal a.2 b.2 else belowVal b.2 a.2) then b else a

def codeVal (x : Band) (r : VReg) (l : Nat) : Nat × FVal := (x.code x.ty r.val l, fv x r l)

def minmaxForm (i : Instr) (max : Bool) (d a b : VReg) (s : State) : Out :=
  vecFloat i d [a, b] (fun x l =>
    let r := minmaxCode max (codeVal x a l) (codeVal x b l)
    operandCode (fdesc x) r.1 r.2) s

def execVfmin (d a b : VReg) (s : State) : Out := minmaxForm (.vfmin d a b) false d a b s
def execVfmax (d a b : VReg) (s : State) : Out := minmaxForm (.vfmax d a b) true d a b s
def execVfabs (d a : VReg) (s : State) : Out := vecFloat2 (.vfabs d a) d a (fun x p => x.round p.abs) s
def execVfneg (d a : VReg) (s : State) : Out := vecFloat2 (.vfneg d a) d a (fun x p => x.round p.neg) s
/-- vfcpys: the magnitude of a with the sign of b; a NaN in either is canonical NaN. -/
def execVfcpys (d a b : VReg) (s : State) : Out :=
  vecFloat3 (.vfcpys d a b) d a b
    (fun x p q _ => if q.isNan then x.round .nan else x.round (p.abs.withSign q.isNeg)) s

/-- The class of R165: the value before any flush. -/
def classMask (code : Nat) (t : Fmt) : Word :=
  match fdecode code t with
  | .nan => 2 ^ 8
  | .inf n => if n then 2 ^ 0 else 2 ^ 7
  | .zero n => if n then 2 ^ 3 else 2 ^ 4
  | .fin n _ _ => if isSubnormal code t then (if n then 2 ^ 2 else 2 ^ 5) else (if n then 2 ^ 1 else 2 ^ 6)

/-- vfclass writes one 32-bit register, which may be odd under f64 (R165). -/
def execVfclass (d a : VReg) (s : State) : Out :=
  unit (.vfclass d a) s (fun b => b.ty.isFloat && b.elem? b.ty a.val && b.vregs? d.val 1) fun b =>
    b.writeV d.val b.enabled (laneVals b.enabled fun l => classMask (b.code b.ty a.val l) (fdesc b))

/-- A value rounded to an integral one, which keeps the sign of a zero result. -/
def roundIntegral (rm : Rounding) (x : FVal) : FVal :=
  match x with
  | .fin n m e =>
    if 0 ≤ e then x
    else let z := roundInt rm (.fin n m e)
      if z = 0 then .zero n else FVal.ofInt z 0
  | _ => x

def execVfrnd (d a : VReg) (s : State) : Out := vecFloat2 (.vfrnd d a) d a (fun x p => x.round (roundIntegral x.rm p)) s

/-! ## VSF (R166, R167) -/

/-- f16, bf16, f32 and f64. -/
def vsfTy (t : Ty) : Bool := t.et = .f16 || t.et = .bf16 || t.et = .f32 || t.et = .f64

/-- A special function: long-latency, with its results delivered by LA (R84). -/
def vecSpecial (i : Instr) (la : LA) (d a : VReg) (f : Band → FVal → FVal → Nat) (s : State) : Out :=
  issue i s (vlegal vsfTy [d, a]) fun b =>
    (deliver s la.val (b.wr b.ty d.val b.enabled fun l => f b (fv b a l) (fv b d l))).modBand Band.advance

def execVrcp (la : LA) (d a : VReg) (s : State) : Out := vecSpecial (.vrcp la d a) la d a (fun b x _ => b.round (SpecialFn.rcp x)) s
def execVrsq (la : LA) (d a : VReg) (s : State) : Out := vecSpecial (.vrsq la d a) la d a (fun b x _ => b.round (SpecialFn.rsq x)) s
def execVsqrt (la : LA) (d a : VReg) (s : State) : Out := vecSpecial (.vsqrt la d a) la d a (fun b x _ => b.round (SpecialFn.sqrt x)) s
/-- vdiv divides the old vd by va. -/
def execVdiv (la : LA) (d a : VReg) (s : State) : Out := vecSpecial (.vdiv la d a) la d a (fun b x n => b.round (SpecialFn.div n x)) s
def execVexp2 (la : LA) (d a : VReg) (s : State) : Out :=
  vecSpecial (.vexp2 la d a) la d a (fun b x _ => SpecialFn.exp2 x (fdesc b) b.rm b.sub) s
def execVlog2 (la : LA) (d a : VReg) (s : State) : Out :=
  vecSpecial (.vlog2 la d a) la d a (fun b x _ => SpecialFn.log2 x (fdesc b) b.rm b.sub) s
def execVsin (la : LA) (d a : VReg) (s : State) : Out :=
  vecSpecial (.vsin la d a) la d a (fun b x _ => SpecialFn.sin x (fdesc b) b.rm b.sub) s
def execVcos (la : LA) (d a : VReg) (s : State) : Out :=
  vecSpecial (.vcos la d a) la d a (fun b x _ => SpecialFn.cos x (fdesc b) b.rm b.sub) s
def execVtanh (la : LA) (d a : VReg) (s : State) : Out :=
  vecSpecial (.vtanh la d a) la d a (fun b x _ => SpecialFn.tanh x (fdesc b) b.rm b.sub) s

/-! ## VCVT (R168 to R172) -/

/-- A conversion from a source type: the kinds must be those listed, pairs even. -/
def vecConvert (i : Instr) (d a : VReg) (t : Fin 16) (kinds : Ty → Ty → Bool) (f : Band → Ty → Nat → Nat) (s : State) : Out :=
  unit i s (fun b => kinds (b.tyCode t.val) b.ty && b.elem? (b.tyCode t.val) a.val && b.elem? b.ty d.val) fun b =>
    b.writeAll (b.wr b.ty d.val b.enabled fun l => f b (b.tyCode t.val) l)

/-- vcvt: integer to integer by Fit, or float kind to float kind by Round. -/
def execVcvt (d a : VReg) (t : Fin 16) (s : State) : Out :=
  vecConvert (.vcvt d a t) d a t (fun src dst => src.isInt = dst.isInt) (fun b src l =>
    if src.isInt then fitCode (mr.sat b.mr) b.ty (b.rdInt src a.val l) else b.round (b.rdVal src a.val l)) s

/-- vcvti: a value rounded and clamped (R64), whatever MR.SAT holds. -/
def execVcvti (d a : VReg) (t : Fin 16) (s : State) : Out :=
  vecConvert (.vcvti d a t) d a t (fun src dst => src.isFloat && dst.isInt) (fun b src l =>
    codeOf (toIntType b.rm (b.rdVal src a.val l) b.ty.signed b.ty.width) b.ty.width) s

def execVcvtf (d a : VReg) (t : Fin 16) (s : State) : Out :=
  vecConvert (.vcvtf d a t) d a t (fun src dst => src.isInt && dst.isFloat) (fun b src l =>
    b.round (FVal.ofInt (b.rdInt src a.val l) 0)) s

/-- vcvtef (R169): va and the companion vb are binary32; vb takes the residue. -/
def execVcvtef (d a b : VReg) (s : State) : Out :=
  unit (.vcvtef d a b) s (fun x => (x.ty.et = .f16 || x.ty.et = .bf16 || x.ty.et = .fmt)
      && x.vregs? d.val 1 && x.vregs? a.val 1 && x.vregs? b.val 1) fun x =>
    let r (l : Nat) : Nat × Nat :=
      errorFeedback (fread x.sub (x.vlane a.val l).toNat Fmt.binary32) (x.vlane b.val l).toNat (fdesc x) x.sub
    x.writeAll (x.wr x.ty d.val x.enabled (fun l => (r l).1) ++
      [vWrite b.val x.enabled (laneVals x.enabled fun l => w32 (r l).2)])

def pack16 (t : Ty) : Bool := t.width = 16 && t.et ≠ .fmt
def pack8 (t : Ty) : Bool := t.et = .i8 || t.et = .n8 || (t.et = .fmt && t.width ≤ 8)

/-- The packed word of R170, from the old vd and the operands. -/
def packed (t : Ty) (d a b : Word) : Word :=
  if pack16 t then (b <<< 16) ||| (a &&& 0xFFFF)
  else ((b &&& 0xFF) <<< 24) ||| ((a &&& 0xFF) <<< 16) ||| (d >>> 16)

def execVpk (d a b : VReg) (s : State) : Out :=
  unit (.vpk d a b) s (fun x => (pack16 x.ty || pack8 x.ty) && x.vregs? d.val 1 && x.vregs? a.val 1 && x.vregs? b.val 1)
    fun x => x.writeV d.val x.enabled
      (laneVals x.enabled fun l => packed x.ty (x.vlane d.val l) (x.vlane a.val l) (x.vlane b.val l))

/-- vupk (R171): element n of the 32 bits, written by Wr. -/
def execVupk (d a : VReg) (n : Fin 4) (s : State) : Out :=
  unit (.vupk d a n) s (fun x => ((pack16 x.ty && n.val < 2) || pack8 x.ty) && x.vregs? d.val 1 && x.vregs? a.val 1)
    fun x =>
      let w := if pack16 x.ty then 16 else 8
      x.writeAll (x.wr x.ty d.val x.enabled fun l => (x.vlane a.val l).toNat / 2 ^ (w * n.val) % 2 ^ w)

/-- A scale count, brought into a range past which no result differs: every value of every format lies between
2^-2000 and 2^2000. -/
def clampScale (k : Int) : Int := max (-8000) (min k 8000)

/-- vscale (R172): vb is a single register read as i32. -/
def execVscale (d a b : VReg) (s : State) : Out :=
  unit (.vscale d a b) s (fun x => vlegal Ty.isFloat [d, a] x && x.vregs? b.val 1) fun x =>
    x.writeAll (x.wr x.ty d.val x.enabled fun l => x.round ((fv x a l).scale (clampScale (x.vlane b.val l).toInt)))

end Sys2Proof.Machine
end

