-- ==== Sys2Proof/Machine/Lane.lean ====
section
/-!
DEFINITION. VLANE (R173 to R177) and VCMP (R178).
-/
namespace Sys2Proof.Machine

/-! ## Moving values between lanes (R173, R174) -/

/-- The registers that a value takes: one, or a pair under f64. -/
def moveSpan (t : Ty) : Nat := if t.is64 then 2 else 1

/-- Each enabled lane takes the whole register values of another lane, or 0. -/
def moveLanes (b : Band) (d a : Nat) (src : Nat → Option Nat) : List RegWrite :=
  (List.range (moveSpan b.ty)).map fun k =>
    vWrite (d + k) b.enabled (laneVals b.enabled fun l => match src l with | some j => b.vlane (a + k) j | none => 0)

def inBand (j : Nat) : Option Nat := if j < 96 then some j else none

/-- The code that vbs and vwr take from a scalar. -/
def scalarCode (b : Band) (a : Nat) : Nat := if b.ty.is64 then b.spair a else (b.sreg a).toNat

def execVbs (d : VReg) (a : SReg) (s : State) : Out :=
  unit (.vbs d a) s (fun b => b.elem? b.ty d.val && scalarElem? b.ty a.val) fun b =>
    b.writeAll (b.wr b.ty d.val b.enabled fun _ => scalarCode b a.val)

def shuffleForm (i : Instr) (d a b : VReg) (src : Nat → Word → Option Nat) (s : State) : Out :=
  unit i s (fun x => x.elem? x.ty d.val && x.elem? x.ty a.val && x.vregs? b.val 1) fun x =>
    x.writeAll (moveLanes x d.val a.val fun l => src l (x.vlane b.val l))

def execVshfl (d a b : VReg) (s : State) : Out := shuffleForm (.vshfl d a b) d a b (fun _ j => inBand j.toNat) s
def execVshfx (d a b : VReg) (s : State) : Out :=
  shuffleForm (.vshfx d a b) d a b (fun l j => inBand (Nat.xor l (j.toNat % 128))) s
def execVrot (d a : VReg) (b : SReg) (s : State) : Out :=
  unit (.vrot d a b) s (fun x => x.elem? x.ty d.val && x.elem? x.ty a.val) fun x =>
    x.writeAll (moveLanes x d.val a.val fun l => some ((l + (x.sreg b.val).toNat) % 96))

/-- vrd: the value of lane s[B], or 0 when that lane is not enabled; a lane number of 96 or more traps ILLEGAL. -/
def execVrd (d : SReg) (a : VReg) (b : SReg) (s : State) : Out :=
  unit (.vrd d a b) s (fun x => x.elem? x.ty a.val && scalarElem? x.ty d.val && (x.sreg b.val).toNat < 96) fun x =>
    let j := (x.sreg b.val).toNat
    let v (r : Nat) : Word := if x.enabled.getLsbD j then x.vlane r j else 0
    x.writeAll ((List.range (moveSpan x.ty)).map fun k => sWrite (d.val + k) (v (a.val + k)))

/-- vwr: a scalar into lane s[B], when that lane is enabled. -/
def execVwr (d : VReg) (a b : SReg) (s : State) : Out :=
  unit (.vwr d a b) s (fun x => x.elem? x.ty d.val && scalarElem? x.ty a.val && (x.sreg b.val).toNat < 96) fun x =>
    let m := x.enabled &&& BitVec.twoPow 96 (x.sreg b.val).toNat
    if m = 0 then x else x.writeAll (x.wr x.ty d.val m fun _ => scalarCode x a.val)

/-! ## Reductions (R175) -/

/-- One level of the tree. -/
def pairUp {α : Type} (op : α → α → α) : List α → List α
  | x :: y :: xs => op x y :: pairUp op xs
  | xs => xs

/-- Tree of R175 over 128 leaves. -/
def tree {α : Type} (op : α → α → α) (dflt : α) (leaves : List α) : α :=
  ((List.range 7).foldl (fun xs _ => pairUp op xs) leaves).headD dflt

/-- The leaves: enabled lanes, and the identity elsewhere. -/
def leaves {α : Type} (m : Lanes) (rd : Nat → α) (one : α) : List α :=
  (List.range 128).map fun l => if l < 96 && m.getLsbD l then rd l else one

/-- The identity of the float minimum or maximum (R175). -/
def extremeId (max : Bool) (t : Fmt) : FVal :=
  if t.sv = 1 then .inf max
  else if !max then maxFin t
  else if t.s then (maxFin t).neg else .zero false

/-- A code with its value. -/
def withCode (t : Fmt) (x : FVal) : Nat × FVal := (fround x t .rne false, x)

/-- The minimum or maximum of the enabled lanes, as a code (R175). -/
def extremeCode (max : Bool) (b : Band) (a : VReg) : Nat :=
  let t := b.ty
  if t.isInt then
    let one := codeOf (if max then minOf t.signed t.width else maxOf t.signed t.width) t.width
    tree (if max then vmaxOf t else vminOf t) one (leaves b.enabled (b.code t a.val) one)
  else
    let one := withCode t.fmt (extremeId max t.fmt)
    let r := tree (minmaxCode max) one (leaves b.enabled (codeVal b a) one)
    operandCode t.fmt r.1 r.2

/-- The sum of the enabled lanes (R175): exact and fitted once, or rounded at every node. -/
def sumCode (b : Band) (a : VReg) : Nat :=
  let t := b.ty
  if t.isInt then
    fitCode (mr.sat b.mr) t ((laneList b.enabled).foldl (fun z l => z + b.rdInt t a.val l) 0)
  else
    let op (x y : Nat × FVal) : Nat × FVal := let c := b.fsum [x.2, y.2]; (c, fdecode c t.fmt)
    (tree op (0, .zero true) (leaves b.enabled (codeVal b a) (0, .zero true))).1

def bitsCode (op : Nat → Nat → Nat) (one : Nat) (b : Band) (a : VReg) : Nat :=
  (laneList b.enabled).foldl (fun z l => op z (b.code b.ty a.val l)) one

/-- A reduction of accepted types to a scalar. -/
def reduceForm (i : Instr) (d : SReg) (a : VReg) (f : Band → Nat) (s : State) : Out :=
  unit i s (fun b => b.elem? b.ty a.val && scalarElem? b.ty d.val) fun b => b.writeAll (scalarResult b.ty d.val (f b))

def execVredadd (d : SReg) (a : VReg) (s : State) : Out := reduceForm (.vredadd d a) d a (fun b => sumCode b a) s
def execVredmin (d : SReg) (a : VReg) (s : State) : Out := reduceForm (.vredmin d a) d a (fun b => extremeCode false b a) s
def execVredmax (d : SReg) (a : VReg) (s : State) : Out := reduceForm (.vredmax d a) d a (fun b => extremeCode true b a) s
def execVredand (d : SReg) (a : VReg) (s : State) : Out :=
  reduceForm (.vredand d a) d a (fun b => bitsCode Nat.land (2 ^ b.ty.width - 1) b a) s
def execVredor (d : SReg) (a : VReg) (s : State) : Out := reduceForm (.vredor d a) d a (fun b => bitsCode Nat.lor 0 b a) s
def execVredxor (d : SReg) (a : VReg) (s : State) : Out := reduceForm (.vredxor d a) d a (fun b => bitsCode Nat.xor 0 b a) s

/-- Lane l holds a value before that of lane k in the order of the form. -/
def beats (max : Bool) (b : Band) (a : VReg) (l k : Nat) : Bool :=
  let t := b.ty
  if t.isInt then (if max then b.rdInt t a.val l > b.rdInt t a.val k else b.rdInt t a.val l < b.rdInt t a.val k)
  else if max then belowVal (fv b a k) (fv b a l) else belowVal (fv b a l) (fv b a k)

/-- The value and the lane of R176. -/
def extremeAt (max : Bool) (b : Band) (a : VReg) : Nat × Word :=
  let ls := laneList b.enabled
  let comp := ls.filter fun l => b.ty.isInt || !(fv b a l).isNan
  match ls, comp with
  | [], _ => (extremeCode max b a, BitVec.allOnes 32)
  | l :: _, [] => (b.ty.fmt.nanCode, w32 l)
  | _, c :: cs => (extremeCode max b a, w32 (cs.foldl (fun m l => if beats max b a l m then l else m) c))

def indexForm (i : Instr) (max : Bool) (d : SReg) (a : VReg) (b : SReg) (s : State) : Out :=
  unit i s (fun x => x.elem? x.ty a.val && scalarElem? x.ty d.val && b ≠ d && !(x.ty.is64 && b.val = d.val + 1)) fun x =>
    let r := extremeAt max x a
    x.writeAll (scalarResult x.ty d.val r.1 ++ [sWrite b.val r.2])

def execVredminx (d : SReg) (a : VReg) (b : SReg) (s : State) : Out := indexForm (.vredminx d a b) false d a b s
def execVredmaxx (d : SReg) (a : VReg) (b : SReg) (s : State) : Out := indexForm (.vredmaxx d a b) true d a b s

/-- The running sums of R177: lane and code, in ascending lane order. -/
def scanInt (sat : Bool) (b : Band) (a : VReg) : List Nat → Int → List (Nat × Nat)
  | [], _ => []
  | l :: ls, acc =>
    let acc := acc + b.rdInt b.ty a.val l
    (l, fitCode sat b.ty acc) :: scanInt sat b a ls acc

def scanFloat (b : Band) (a : VReg) : List Nat → FVal → List (Nat × Nat)
  | [], _ => []
  | l :: ls, acc =>
    let c := b.fsum [acc, fv b a l]
    (l, c) :: scanFloat b a ls (fdecode c (fdesc b))

def scanCodes (b : Band) (a : VReg) : Tab Nat :=
  if b.ty.isInt then scanInt (mr.sat b.mr) b a (laneList b.enabled) 0
  else scanFloat b a (laneList b.enabled) (.zero true)

def execVscan (d a : VReg) (s : State) : Out :=
  unit (.vscan d a) s (vlegal anyTy [d, a]) fun b =>
    let cs := scanCodes b a
    b.writeAll (b.wr b.ty d.val b.enabled fun l => cs.getD l 0)

/-! ## Compares (R178) -/

/-- A compare: the combined bits go to the enabled lanes of the predicate. -/
def compareForm (i : Instr) (accept : Ty → Bool) (p : PReg) (m : Comb) (a b : VReg) (c : Band → Nat → Bool) (s : State) : Out :=
  unit i s (vlegal accept [a, b]) fun x =>
    let e := x.enabled
    x.writeP p.val e (combine m (x.pred p.val) (lanesWhere fun l => e.getLsbD l && c x l))

def intCompare (signed : Bool) (c : CC) (a b : VReg) (x : Band) (l : Nat) : Bool :=
  condHolds c (intOf signed x.ty.width (x.code x.ty a.val l)) (intOf signed x.ty.width (x.code x.ty b.val l))

def floatCompare (c : CC) (a b : VReg) (x : Band) (l : Nat) : Bool := condHoldsF c (fv x a l) (fv x b l)

/-- vcmp and vcmpn: the signed and the unsigned view, whatever the signedness of ET. -/
def execVcmp (c : CC) (p : PReg) (m : Comb) (a b : VReg) (s : State) : Out :=
  compareForm (.vcmp c p m a b) Ty.isInt p m a b (intCompare true c a b) s
def execVcmpn (c : CC) (p : PReg) (m : Comb) (a b : VReg) (s : State) : Out :=
  compareForm (.vcmpn c p m a b) Ty.isInt p m a b (intCompare false c a b) s
def execVfcmp (c : CC) (p : PReg) (m : Comb) (a b : VReg) (s : State) : Out :=
  compareForm (.vfcmp c p m a b) Ty.isFloat p m a b (floatCompare c a b) s
/-- vfcmpn: the negation of vfcmp with the same condition. -/
def execVfcmpn (c : CC) (p : PReg) (m : Comb) (a b : VReg) (s : State) : Out :=
  compareForm (.vfcmpn c p m a b) Ty.isFloat p m a b (fun x l => !floatCompare c a b x l) s

end Sys2Proof.Machine
end

