-- ==== Sys2Proof/Machine/Stream.lean ====
section
/-!
DEFINITION. Streams (R191 to R194).
-/
namespace Sys2Proof.Machine

/-! ## Records (R191) -/

/-- The total T of a record. -/
def StreamRec.total (r : StreamRec) : Nat := r.n.foldl (· * ·) 1

/-- The record in 64 bytes, if it is valid (R191); IBASE has the limit of BASE (log 21). -/
def streamRecord (bs : List Byte) : Option StreamRec :=
  let num := leAt bs
  let esz := num 48 1
  let flags := num 49 1
  let r : StreamRec :=
    { base := num 0 8, ibase := num 8 8, n := (List.range 4).map fun k => num (16 + 2 * k) 2
      lim := (List.range 4).map fun k => num (24 + 2 * k) 2
      st := (List.range 4).map fun k => wrapInt (num (32 + 4 * k) 4) true 32
      esz := esz, sx := flags % 2 = 1, ind := flags / 2 % 2 = 1, bnd := flags / 4 % 2 = 1, ilvl := num 50 1 }
  if r.base < 2 ^ 48 && r.ibase < 2 ^ 48 && flags < 8 && num 51 13 = 0
    && r.n.all (fun k => 1 ≤ k) && esz ≤ 3 && r.base % 2 ^ esz = 0 && r.st.all (fun k => k % 2 ^ esz = 0)
    && (if r.ind then r.ibase % 4 = 0 && r.ilvl ≤ 3 else r.ibase = 0 && r.ilvl = 0)
    && r.total < 2 ^ 32
  then some r else none

/-- The loop indices of element e (R192). -/
def StreamRec.indices (r : StreamRec) (e : Nat) : List Nat :=
  let n (k : Nat) : Nat := r.n.getD k 1
  [e % n 0, e / n 0 % n 1, e / (n 0 * n 1) % n 2, e / (n 0 * n 1 * n 2)]

def StreamRec.inRange (r : StreamRec) (e : Nat) : Bool :=
  e < r.total && (!r.bnd || (List.range 4).all fun k => (r.indices e).getD k 0 < r.lim.getD k 0)

/-- The address of an element whose indices, after the indirect level, are j. -/
def StreamRec.addr (r : StreamRec) (j : List Int) : Nat :=
  ea r.base ((List.range 4).foldl (fun z k => z + r.st.getD k 0 * j.getD k 0) 0)

/-- The access to the index array for element e of a record with an indirect level. -/
def indexPlace (s : State) (u : Issuer) (r : StreamRec) (e : Nat) : Except FaultAt (Loc × Nat) :=
  access s u (ea r.ibase (4 * (r.indices e).getD r.ilvl 0 : Nat)) (.read 4) false

/-- Elem of R192: the address of an element in range; an indirect level reads the index array. -/
def elemAddr (s : State) (u : Issuer) (r : StreamRec) (e : Nat) : Except FaultAt Nat :=
  let j : List Int := (r.indices e).map Int.ofNat
  if r.ind then
    match indexPlace s u r e with
    | .error f => .error f
    | .ok (l, ord) => .ok (r.addr (j.set r.ilvl (wrapInt (leNat (readAt s u l ord 4)) true 32)))
  else .ok (r.addr j)

/-! ## The forms (R193, R194) -/

/-- The place of an aligned record of n bytes at a captured pair. -/
def recordPlace (s : State) (u : Issuer) (c : Captured) (k n : Nat) : Except FaultAt (Loc × Nat) :=
  match baseOf c k 0 with
  | none => .error (addrForm u.cls false false (log2size n))
  | some a => access s u a (.read n) false

/-- Reads an aligned record of n bytes for the band, at a captured pair. -/
def readRecord (s : State) (u : Issuer) (c : Captured) (k n : Nat) : Except FaultAt (List Byte) :=
  match recordPlace s u c k n with
  | .error f => .error f
  | .ok (l, ord) => .ok (readAt s u l ord n)

/-- What the read of a record leaves behind in the core. -/
def afterRecord (s : State) (u : Issuer) (c : Captured) (k n : Nat) : State :=
  match recordPlace s u c k n with
  | .error _ => s
  | .ok p => afterReads s u false [p]

/-- spat: the record at the pair goes into stream k with position 0. -/
def spatCore (k : Fin 4) (c : Captured) (s : State) : Ans :=
  match readRecord s (s.issuer 3) c 0 64 with
  | .error f => .fault [f] c.mask [] s
  | .ok bs => match streamRecord bs with
    | none => .fault [{ code := code.streamRec, cls := 3 }] c.mask [] s
    | some r =>
      let s := afterPast s (s.issuer 3) ((recordPlace s (s.issuer 3) c 0 64).toOption.toList)
      .done [] (s.modBand fun b => { b with streams := b.streams.put k.val { rcd := r, pos := 0 } })

def execSpat (a : SReg) (k : Fin 4) (s : State) : Out :=
  form (.spat a k) s always (fun b => b.cap (.spat a k) (pairOf a) [] 0) (spatCore k)

def unset : FaultAt := { code := code.streamUnset, cls := 3 }

def sresetCore (k : Fin 4) (c : Captured) (s : State) : Ans :=
  match s.band.streams.find? k.val with
  | none => .fault [unset] c.mask [] s
  | some r => .done [] (s.modBand fun b => { b with streams := b.streams.put k.val { r with pos := 0 } })

def execSreset (k : Fin 4) (s : State) : Out :=
  form (.sreset k) s always (fun b => b.cap (.sreset k) [] [] 0) (sresetCore k)

/-- The stream that a form captures: its record and position (R194), which a replay walks too (log 21). -/
def withStream (b : Band) (k : Fin 4) (c : Captured) : Captured :=
  match b.streams.find? k.val with
  | none => c
  | some r => { c with stream := some r.rcd, pos := r.pos }

/-- The position after a form that walks the stream: 96 further, at most T (R194). -/
def Band.advanceStream (b : Band) (k : Fin 4) : Band :=
  match b.streams.find? k.val with
  | none => b
  | some r => { b with streams := b.streams.put k.val { r with pos := min (r.pos + 96) r.rcd.total } }

/-- Pairs of the stream's element size: a pair register must be even (R194). -/
def streamRegs (r : StreamRec) : Nat := if r.esz = 3 then 2 else 1

/-- The elements of the enabled lanes: out of range, or the place of the access or its fault. -/
def streamLanes (s : State) (u : Issuer) (r : StreamRec) (c : Captured) (k : Want) :
    List (Nat × Option (Except FaultAt (Loc × Nat))) :=
  (laneList c.lanes).map fun l =>
    if !r.inRange (c.pos + l) then (l, none)
    else match elemAddr s u r (c.pos + l) with
      | .error f => (l, some (.error f))
      | .ok a => (l, some (access s u a k false))

def streamChecks (xs : List (Nat × Option (Except FaultAt (Loc × Nat)))) : List (Nat × Except FaultAt (Loc × Nat)) :=
  xs.filterMap fun e => e.2.map fun x => (e.1, x)

/-- The places of the index array that the enabled lanes' elements read. -/
def indexReads (s : State) (u : Issuer) (r : StreamRec) (c : Captured) : List (Loc × Nat) :=
  if !r.ind then []
  else (laneList c.lanes).filterMap fun l =>
    if r.inRange (c.pos + l) then (indexPlace s u r (c.pos + l)).toOption else none

/-- sld: an element out of range reads as 0. -/
def sldCore (d : VReg) (c : Captured) (s : State) : Ans :=
  match c.stream with
  | none => .fault [unset] c.lanes [] s
  | some r =>
    if r.esz = 3 && d.val % 2 = 1 || !s.band.vregs? d.val (streamRegs r) then .early { code := code.illegal }
    else
      let u := s.issuer 3
      let n := 2 ^ r.esz
      let xs := streamLanes s u r c (.read n)
      let bytes : List (Nat × List Byte) := xs.filterMap fun e => match e.2 with
        | none => some (e.1, List.replicate n 0)
        | some (.ok p) => some (e.1, readAt s u p.1 p.2 n)
        | some (.error _) => none
      let kind := if r.esz = 3 then LoadKind.words else if r.sx then .sign else .zero
      let m := maskOf (bytes.map (·.1))
      let ws := (List.range (streamRegs r)).map fun j =>
        vWrite (d.val + j) m (bytes.map fun e => (e.1, loadValue kind e.2 j))
      let cs := streamChecks xs
      endLanes (laneFaults cs) (if bytes.isEmpty then [] else ws)
        (afterPast s u (indexReads s u r c ++ (laneOks cs).map Prod.snd))

/-- sst: lanes ascending, elements out of range not written. -/
def sstCore (v : VReg) (c : Captured) (s : State) : Ans :=
  match c.stream with
  | none => .fault [unset] c.lanes [] s
  | some r =>
    if r.esz = 3 && v.val % 2 = 1 || !s.band.vregs? v.val (streamRegs r) then .early { code := code.illegal }
    else
      let u := s.issuer 3
      let n := 2 ^ r.esz
      let cs := streamChecks (streamLanes s u r c (.write n))
      let oks := laneOks cs
      if oks.any fun e => busyLoc s n e.2.1 then .wait .tileStore [] s
      else
        let s := afterPast s u (indexReads s u r c)
        endLanes (laneFaults cs) [] (strong (writeMany s u s.me (oks.map fun e => (e.2.1, laneBytes n c e.1, e.2.2))) u.core
          (oks.map (·.2.2)))

/-- A form that walks stream k: its position advances once, at issue, whatever lanes are enabled or fault (R194). -/
def streamForm (i : Instr) (k : Fin 4) (r : VReg) (store : Bool) (la : Nat) (f : Captured → State → Ans) (s : State) : Out :=
  issue i s (·.vregs? r.val 1) fun b =>
    let pair := (b.streams.find? k.val).any fun x => x.rcd.esz = 3
    let c := withStream b k (b.cap i [] (if !store then [] else if pair then [r.val, r.val + 1] else [r.val]) la)
    let t := s.modBand fun b => b.advanceStream k
    match f c t with
    | .early x => trapEarly s c.word x
    | a => finish c a t

def execSld (la : LA) (d : VReg) (k : Fin 4) (s : State) : Out :=
  streamForm (.sld la d k) k d false la.val (sldCore d) s
def execSst (v : VReg) (k : Fin 4) (s : State) : Out :=
  streamForm (.sst v k) k v true 0 (sstCore v) s

end Sys2Proof.Machine
end

