-- ==== Sys2Proof/Machine/Tile.lean ====
section
/-!
DEFINITION. TILE: tiles and their states (R204 to R211) and circular buffers (R212 to R215).
-/
namespace Sys2Proof.Machine

/-! ## Tiles -/

def tileAt (s : State) (core t : Nat) : Tile := (s.core core).tiles.getD t Tile.undefined

def setTile (s : State) (core t : Nat) (x : Tile) : State :=
  let k := s.core core
  s.setCore core { k with tiles := k.tiles.setD t x Tile.undefined }

/-- First byte of a tile as a global scratchpad address. -/
def tileBase (core t : Nat) (x : Tile) : Nat := spadAt core (t / 256 * Config.sliceBytes + 16 * x.base)

/-- The tile number in a captured scalar: bits [31:10] zero, or ILLEGAL; its slice the band's owner's, or SPAD_OWNER
(R204). -/
def tileNumber (s : State) (c : Captured) (k : Nat) : Except Ans Nat :=
  let w := c.scalars.getD k 0
  if wfield w 31 10 ≠ 0 then .error (.early { code := code.illegal })
  else if sliceOwner s s.myCore (w.toNat / 256) ≠ s.band.part then
    .error (.fault [{ code := code.spadOwner }] c.mask [] s)
  else .ok w.toNat

def withTile (c : Captured) (s : State) (k : Nat) (f : Nat → Tile → Ans) : Ans :=
  match tileNumber s c k with
  | .error a => a
  | .ok t => f t (tileAt s s.myCore t)

def uniformFault (code : Nat) (c : Captured) (s : State) : Ans := .fault [{ code := code }] c.mask [] s

/-- A signal write (R222) that puts a tile entry. -/
def putTile (s : State) (t : Nat) (x : Tile) : State := setTile (s.modBand Band.needBoundary) s.myCore t x

/-- The graph firing that the band of `cur` runs, if it runs one. -/
def myFiring (s : State) : Option (Word × Nat) :=
  match s.launches.find? s.band.lnch.toNat with
  | none => none
  | some l => match l.kind with
    | .firing h k => some (h, k)
    | .queue _ | .child _ | .task _ => none

/-- A tile of a bound graph, which only the bands of its own firings reach by a state form (R387). -/
def graphTile (s : State) (core t : Nat) : Bool :=
  (s.part s.band.part).graphs.any fun (e : Nat × BoundGraph) =>
    8 * e.2.cluster + e.2.ccore = core && (e.2.edges.any fun x => x.tile0 ≤ t && t < x.tile0 + x.nslot)
    && !((myFiring s).any fun f => f.1.toNat = e.1)

/-- The limits of a tile descriptor record (R205). -/
def tileRecordOk (bs : List Byte) : Bool :=
  let n := leAt bs
  bs.length = 8 && n 0 2 < 1024 && n 2 2 = 0 && n 4 2 ≤ 17407 && 1 ≤ n 6 2 && n 6 2 ≤ 17408 && n 4 2 + n 6 2 ≤ 17408

/-- tdef (R205): TILE_STATE comes before the other checks of the record (R474, log 21). -/
def tdefCore (c : Captured) (s : State) : Ans :=
  match readRecord s (s.issuer 0) c 0 8 with
  | .error f => .fault [f] c.mask [] s
  | .ok bs =>
    let num := leAt bs 0 2
    let t := num % 1024
    let base := leAt bs 4 2
    let len := leAt bs 6 2
    let s := afterRecord s (s.issuer 0) c 0 8
    if (tileAt s s.myCore t).state ≠ 0 || graphTile s s.myCore t then uniformFault code.tileState c s
    else if !tileRecordOk bs then
      uniformFault code.tileBound c s
    else if sliceOwner s s.myCore (t / 256) ≠ s.band.part then uniformFault code.spadOwner c s
    else .done [] (putTile s t { (tileAt s s.myCore t) with base := base, len := len, ver := 0, torn := false })

/-- Whether a path of the band still waits to store into a tile's bytes: its earlier stores are not performed. -/
def storesPending (s : State) (t : Nat) (x : Tile) : Bool :=
  let lo := tileBase s.myCore t x
  s.band.valid.any fun k => match (s.band.entry k).wait with
    | some w => w.kind = .tileStore && busyTile s lo (16 * x.len)
    | none => false

/-- A state form: it applies in one state only (R206). -/
def stateForm (from_ : Nat) (f : Nat → Tile → Ans) (c : Captured) (s : State) : Ans :=
  withTile c s 0 fun t x =>
    if x.state ≠ from_ || graphTile s s.myCore t then uniformFault code.tileState c s else f t x

def tfillCore (c : Captured) (s : State) : Ans :=
  stateForm 0 (fun t x => if x.len = 0 then uniformFault code.tileState c s else .done [] (putTile s t { x with state := 1 })) c s

def tcommitCore (c : Captured) (s : State) : Ans :=
  stateForm 1 (fun t x => if storesPending s t x then .wait .tcommit [] s else .done [] (putTile s t { x with state := 2 })) c s

def tdrainCore (c : Captured) (s : State) : Ans :=
  stateForm 2 (fun t x => .done [] (putTile s t { x with state := 3 })) c s

/-- trel waits for the readers, and clears TORN (R211). -/
def trelCore (c : Captured) (s : State) : Ans :=
  stateForm 3 (fun t x => if x.readers > 0 then .wait .trel [] s
    else .done [] (putTile s t { x with state := 0, torn := false })) c s

/-- The word of tstate (R207). -/
def tileWord (x : Tile) : Word :=
  w32 (x.state + 4 * (decide (x.len ≠ 0)).toNat + 8 * x.torn.toNat + 2 ^ 8 * x.readers + 2 ^ 16 * x.ver)

def tstateCore (d : SReg) (c : Captured) (s : State) : Ans :=
  withTile c s 0 fun _ x => .done [sWrite d.val (tileWord x)] s

/-- tst.aon (R209): opens with s[M] = 1, closes with 0. -/
def tstAonCore (c : Captured) (s : State) : Ans :=
  let m := c.scalars.getD 1 0
  if m ≠ 0 ∧ m ≠ 1 then .early { code := code.illegal }
  else withTile c s 0 fun t x =>
    if m = 1 then
      if x.state ≠ 2 || x.ver % 2 = 1 then .wait .tstOpen [] s
      else .done [] (putTile s t { x with ver := (x.ver + 1) % 2 ^ 16, torn := false, opener := s.cur })
    else if x.ver % 2 = 0 then uniformFault code.tileState c s
    else if storesPending s t x then .wait .tstClose [] s
    else .done [] (putTile s t { x with ver := (x.ver + 1) % 2 ^ 16 })

/-- tld.ver (R210): while the tile is ready and no bracket is open its words are read at one instant. Its ILLEGAL checks come first
(R474); an offset that is no multiple of 4 is one (log 21). -/
def tldVerCore (d : SReg) (c : Captured) (s : State) : Ans :=
  let w := c.scalars.getD 1 0
  let off := wfield w 19 0
  let n := wfield w 31 28 + 1
  let regs := (List.range n).map (d.val + ·)
  if wfield w 27 20 ≠ 0 || off % 4 ≠ 0 || d.val + n > 64 || regs.any (fun r => 60 ≤ r && r ≤ 62) then
    .early { code := code.illegal }
  else if wfield (c.scalars.getD 0 0) 31 10 = 0 && off + 4 * n > 16 * (tileAt s s.myCore (c.scalars.getD 0 0).toNat).len
      && sliceOwner s s.myCore ((c.scalars.getD 0 0).toNat / 256) ≠ s.band.part then .early { code := code.illegal }
  else withTile c s 0 fun t x =>
    if x.state ≠ 2 then .wait .tldVer [] s
    else if off + 4 * n > 16 * x.len then .early { code := code.illegal }
    else if x.torn then uniformFault code.tileState c s
    else if x.ver % 2 = 1 then .wait .tldVer [] s
    else
      let a := tileBase s.myCore t x + off
      match spadPoisoned? s a (4 * n) with
      | some g => .fault [{ code := code.memPoison, d := poisonDetail (g - spadAt s.myCore 0) 1 }] c.mask [] s
      | none => .done ((List.range n).map fun j => sWrite (d.val + j) (w32 (s.spad.num (a + 4 * j) 4))) s

def tileForm (i : Instr) (scalars : List Nat) (k : Captured → State → Ans) (s : State) : Out :=
  form i s always (fun b => b.cap i scalars [] 0) k

def execTdef (a : SReg) (s : State) : Out := tileForm (.tdef a) (pairOf a) tdefCore s
def execTfill (t : SReg) (s : State) : Out := tileForm (.tfill t) [t.val] tfillCore s
def execTcommit (t : SReg) (s : State) : Out := tileForm (.tcommit t) [t.val] tcommitCore s
def execTdrain (t : SReg) (s : State) : Out := tileForm (.tdrain t) [t.val] tdrainCore s
def execTrel (t : SReg) (s : State) : Out := tileForm (.trel t) [t.val] trelCore s
def execTstate (d t : SReg) (s : State) : Out := tileForm (.tstate d t) [t.val] (tstateCore d) s
def execTstAon (t m : SReg) (s : State) : Out := tileForm (.tstAon t m) [t.val, m.val] tstAonCore s
def execTldVer (d t c : SReg) (s : State) : Out := tileForm (.tldVer d t c) [t.val, c.val] (tldVerCore d) s

def execTcommitWake (slot path : Nat) (s : State) : Out := .next (wake slot path .tcommit tcommitCore s)
def execTrelWake (slot path : Nat) (s : State) : Out := .next (wake slot path .trel trelCore s)
def execTstAonOpenWake (slot path : Nat) (s : State) : Out := .next (wake slot path .tstOpen tstAonCore s)
def execTstAonCloseWake (slot path : Nat) (s : State) : Out := .next (wake slot path .tstClose tstAonCore s)

/-- An abandoned bracket closes (R211): VER + 1, TORN set. -/
def execTornBracketClose (core tile : Nat) (s : State) : Out :=
  .next <|
  let x := tileAt s core tile
  if x.ver % 2 = 1 && x.opener = 4096 then
    setTile s core tile { x with ver := (x.ver + 1) % 2 ^ 16, torn := true, opener := 0 }
  else s

/-! ## Circular buffers -/

/-- available and room (R213). -/
def CircBuf.available (b : CircBuf) : Nat := (b.pp - b.cp).toNat
def CircBuf.room (b : CircBuf) : Nat := b.nslot - b.available

def setCb (s : State) (core n : Nat) (b : CircBuf) : State :=
  let k := s.core core
  s.setCore core { k with cbs := k.cbs.put n b }

/-- cbdef (R213): the ILLEGAL checks, then SPAD_OWNER, TILE_BOUND and CB_BUSY. -/
def cbdefCore (c : Captured) (s : State) : Ans :=
  let n := (c.scalars.getD 0 0).toNat
  if n ≥ 32 then .early { code := code.illegal }
  else match readRecord s (s.issuer 0) c 1 16 with
  | .error f => .fault [f] c.mask [] s
  | .ok bs =>
    let s := afterRecord s (s.issuer 0) c 1 16
    let t0 := leAt bs 0 2
    let ns := leAt bs 2 2
    let sz := leAt bs 4 4
    if t0 ≥ 1024 || ns = 0 || ns > 256 || sz % 16 ≠ 0 || sz < 16 || sz > 65536 || leAt bs 8 8 ≠ 0 then
      .early { code := code.illegal }
    else if sliceOwner s s.myCore (n / 8) ≠ s.band.part then uniformFault code.spadOwner c s
    else if (List.range ns).any fun k =>
        (t0 + k) / 256 ≠ n / 8 || 16 * (tileAt s s.myCore (t0 + k)).len < sz || graphTile s s.myCore (t0 + k) then
      uniformFault code.tileBound c s
    else
      let old := (s.core s.myCore).cbs.find? n
      if old.any fun o => o.available > 0 || o.prod.isSome || o.cons.isSome then uniformFault code.cbBusy c s
      else .done [] (setCb (s.modBand Band.needBoundary) s.myCore n
        { tile0 := t0, nslot := ns, recsz := sz, pp := 0, cp := 0, prod := none, cons := none })

/-- The checks of the buffer forms in the order of R214. `count` is the captured scalar of n, if the form has one. -/
def withCb (c : Captured) (s : State) (k : Nat) (count : Option Nat) (f : Nat → CircBuf → Nat → Ans) : Ans :=
  let n := (c.scalars.getD k 0).toNat
  if n ≥ 32 then .early { code := code.illegal }
  else if sliceOwner s s.myCore (n / 8) ≠ s.band.part then uniformFault code.spadOwner c s
  else match (s.core s.myCore).cbs.find? n with
    | none => uniformFault code.cbState c s
    | some b =>
      let m := match count with | some j => (c.scalars.getD j 0).toNat | none => 1
      if m = 0 || m > b.nslot then .early { code := code.illegal } else f n b m

/-- An end that another agent serves (R215): a stage's end serves only the firings of that stage (R392). -/
def endBusy (s : State) (o : Option EndOwner) : Bool :=
  match o with
  | none => false
  | some (.band _) => true
  | some (.graph p h k) => !(p = s.band.part && myFiring s = some (h, k))

/-- cbpush (R212, R214, R215): CB_BUSY comes before CB_OVER (log 21). -/
def cbpushCore (c : Captured) (s : State) : Ans :=
  withCb c s 0 (some 1) fun n b m =>
    if endBusy s b.prod then uniformFault code.cbBusy c s
    else if b.room < m then uniformFault code.cbOver c s
    else .done [] (setCb (s.modBand Band.needBoundary) s.myCore n { b with pp := b.pp + w32 m })

/-- cbpop (R212, R214, R215): CB_BUSY comes before CB_UNDER (log 21). -/
def cbpopCore (c : Captured) (s : State) : Ans :=
  withCb c s 0 (some 1) fun n b m =>
    if endBusy s b.cons then uniformFault code.cbBusy c s
    else if b.available < m then uniformFault code.cbUnder c s
    else .done [] (setCb (s.modBand Band.needBoundary) s.myCore n { b with cp := b.cp + w32 m })

/-- cbwait: with s[M] = 0 for n records, with 1 for room. The acquire at CORE scope discards nothing (R346). -/
def cbwaitCore (c : Captured) (s : State) : Ans :=
  let m := c.scalars.getD 2 0
  if m ≠ 0 ∧ m ≠ 1 then .early { code := code.illegal }
  else withCb c s 0 (some 1) fun _ b n =>
    if (if m = 0 then b.available else b.room) < n then .wait .cbwait [] s else .done [] s

def cbpeekCore (d : SReg) (c : Captured) (s : State) : Ans :=
  let f := (c.scalars.getD 1 0).toNat
  if f > 3 then .early { code := code.illegal }
  else withCb c s 0 none fun _ b _ =>
    .done [sWrite d.val (w32 (match f with
      | 0 => b.available
      | 1 => b.room
      | 2 => b.tile0 + b.pp.toNat % b.nslot
      | _ => b.tile0 + b.cp.toNat % b.nslot))] s

def execCbdef (b a : SReg) (s : State) : Out := tileForm (.cbdef b a) (b.val :: pairOf a) cbdefCore s
def execCbpush (b n : SReg) (s : State) : Out := tileForm (.cbpush b n) [b.val, n.val] cbpushCore s
def execCbpop (b n : SReg) (s : State) : Out := tileForm (.cbpop b n) [b.val, n.val] cbpopCore s
def execCbwait (b n m : SReg) (s : State) : Out := tileForm (.cbwait b n m) [b.val, n.val, m.val] cbwaitCore s
def execCbpeek (d b f : SReg) (s : State) : Out := tileForm (.cbpeek d b f) [b.val, f.val] (cbpeekCore d) s
def execCbwaitWake (slot path : Nat) (s : State) : Out := .next (wake slot path .cbwait cbwaitCore s)

end Sys2Proof.Machine
end

