-- ==== Sys2Proof/Machine/Copy.lean ====
section
/-!
DEFINITION. COPY: lane copies and their line operations (R195, R196, R199), copies between memory and a tile (R197), and
packing and expanding (R200 to R203).
-/
namespace Sys2Proof.Machine

/-! ## Engines (R438, R439) -/

/-- Whether a partition holds an engine of a kind on the die of a core: 0 copy, 1 compression, 2 collective. -/
def holdsEngine (s : State) (core kind part : Nat) : Bool :=
  s.engines.any fun e => e.1 / 128 = core / 64 && e.1 % 128 / 32 = kind && e.2 = part

/-- The end of n line operations: the drain table of their core counts them off (R338), and they are charged (R440). -/
def copyEnds (s : State) (u : Issuer) (ref : BandRef) (n : Nat) : State :=
  charge (drainSub s u.core ref.lnch n) u.part ref 11 n

/-- COPY_FAULT (R199, R406): the counter, the bytes that are not delivered and the inner code. -/
def copyFault (s : State) (u : Issuer) (ref : BandRef) (f : FaultAt) (cnt n : Nat) (pc : Addr) (word : Word) : State :=
  reportFault s u.part ref
    { f with code := code.copyFault, cls := 1, lane := 127
             d := [w32 cnt, w32 (cnt / 2 ^ 32), w32 n, w32 (n / 2 ^ 32), w32 f.code] } pc word 0

/-- The place of a counter at the time of its addition. -/
def counterAt (s : State) (u : Issuer) (cnt : Nat) : Except FaultAt (Loc × Nat) := access s u cnt (.rmw 8) true

/-- The count of a line operation `orig`, once its bytes are written in `t`: its request goes to the counter's engine at once, or,
where some bytes are remote, when all of them have been acknowledged (R336). -/
def countLine (s t : State) (u : Issuer) (ref : BandRef) (orig : Nat) (k : Loc × Nat) (n : Nat) : State :=
  if (t.remotes.drop s.remotes.length).isEmpty then counterAdd t u ref true orig 0 k n
  else
    let (line, t) := (owedBy s t orig).nextSeq
    { t with remotes := t.remotes.take s.remotes.length ++ (t.remotes.drop s.remotes.length).map fun r => { r with count := some (line, k, n) } }

/-! ## cpy -/

/-- The checks of one lane: both pairs, then both alignments (R195, R474), the destination first (log 21). -/
def cpyLane (n : Nat) (c : Captured) (l : Nat) : Except FaultAt CopyPart :=
  let w (k : Nat) : Word := (c.vecs.getD k []).getD l 0
  match pairAddr (w 0) (w 1), pairAddr (w 2) (w 3) with
  | none, _ => .error (addrForm 1 true false (log2size n))
  | some _, none => .error (addrForm 1 false false (log2size n))
  | some d, some a =>
    if d % n ≠ 0 then .error { code := code.align, w := true, cls := 1, sz := log2size n, va := d }
    else if a % n ≠ 0 then .error { code := code.align, cls := 1, sz := log2size n, va := a }
    else .ok { src := a, dst := d, n := n }

/-- Values grouped by a key, in the order in which the keys first appear; each group keeps its order. -/
def groupBy {α : Type} (key : α → Nat) (xs : List α) : List (List α) :=
  (xs.map key).eraseDups.map fun k => xs.filter fun x => key x = k

/-- Queues one line operation. -/
def queueCopy (c : Captured) (u : Issuer) (cnt : Nat) (s : State) (parts : List CopyPart) (tile : Option TilePart)
    (count : Nat) : State :=
  let (seq, s) := s.nextSeq
  let op : CopyOp := { seq := seq, ref := s.me, u := u, parts := parts, tile := tile, count := count, cnt := cnt
                       pc := c.pc, word := c.word }
  { drainAdd s u.core s.band.lnch 1 with copies := s.copies ++ [op] }

/-- cpy (R195): the counter pair is checked first; when a lane fails, nothing is issued, and the log keeps every
enabled lane. -/
def cpyCore (n : Nat) (c : Captured) (s : State) : Ans :=
  let u := s.issuer 1
  match counterAddr c 0 1 with
  | .error f => .fault [f] c.lanes [] s
  | .ok cnt =>
    let lanes := (laneList c.lanes).map fun l => (l, cpyLane n c l)
    let bad := lanes.filterMap fun e => match e.2 with | .error f => some { f with lane := e.1 } | .ok _ => none
    if !bad.isEmpty then .fault bad c.lanes [] s
    else
      let parts := lanes.filterMap fun e => match e.2 with | .ok p => some p | .error _ => none
      .done [] ((groupBy (fun p => p.dst / 128) parts).foldl
        (fun s g => queueCopy c u cnt s g none ((g.map (·.n)).foldl (· + ·) 0)) (s.modBand Band.needBoundary))

/-- vD and vA name even pairs below the allocation (R195). -/
def cpyForm (i : Instr) (n : Nat) (d a c : SReg) (s : State) : Out :=
  form i s (fun b => b.vregs? d.val 2 && b.vregs? a.val 2)
    (fun b => b.cap i (pairOf c) [d.val, d.val + 1, a.val, a.val + 1] 0) (cpyCore n)

def execCpy4 (d a c : SReg) (s : State) : Out := cpyForm (.cpy4 d a c) 4 d a c s
def execCpy8 (d a c : SReg) (s : State) : Out := cpyForm (.cpy8 d a c) 8 d a c s
def execCpy16 (d a c : SReg) (s : State) : Out := cpyForm (.cpy16 d a c) 16 d a c s

/-! ## cpt (R197) -/

/-- The range that the destination of element e lies in: an address divided by 128, with 1 above for memory. An element
that is not written to memory is grouped by its place in the tile. -/
def cptRange (s : State) (u : Issuer) (t : TilePart) (e : Nat) : Nat :=
  let here := (t.base + e * 2 ^ t.rcd.esz) / 128
  if t.toTile || !t.rcd.inRange e then 2 * here
  else match elemAddr s u t.rcd e with
    | .error _ => 2 * here
    | .ok a => 2 * (a / 128) + 1

/-- The record of a cpt, if it is valid: it is read once, at issue. -/
def cptRecord (s : State) (c : Captured) : Except FaultAt (Option StreamRec) :=
  match c.stream with
  | some r => .ok (some r)
  | none => match readRecord s (s.issuer 0) c 1 64 with
    | .error f => .error f
    | .ok bs => .ok (streamRecord bs)

/-- What a cpt captures. -/
def cptCap (s : State) (c : Captured) : Captured :=
  match cptRecord s c with
  | .ok r => { c with stream := r }
  | .error _ => c

/-- cpt (R197): the checks in its own order, then those of the counter (R474, log 21). -/
def cptCore (c : Captured) (s : State) : Ans :=
  let w := c.scalars.getD 0 0
  let u := s.issuer 1
  let toTile := !wbit w 31
  if wfield w 30 10 ≠ 0 then .early { code := code.illegal }
  else
    let t := w.toNat % 1024
    if sliceOwner s s.myCore (t / 256) ≠ s.band.part then uniformFault code.spadOwner c s
    else match cptRecord s c with
    | .error f => .fault [f] c.mask [] s
    | .ok none => .fault [{ code := code.streamRec, cls := 1 }] c.mask [] s
    | .ok (some r) =>
      let s := afterRecord s (s.issuer 0) c 1 64
      let x := tileAt s s.myCore t
      let esize := 2 ^ r.esz
      if r.total * esize > 16 * x.len then uniformFault code.tileBound c s
      else if !(if toTile then [1, 2] else [2, 3]).contains x.state then uniformFault code.tileState c s
      else match counterAddr c 3 1 with
      | .error f => .fault [f] c.mask [] s
      | .ok cnt =>
      if toTile && x.state = 2 && x.readers > 0 then .wait .tileStore [] s
      else
        let part (es : List Nat) : TilePart := { rcd := r, base := tileBase s.myCore t x, toTile := toTile, elems := es }
        .done [] ((groupBy (cptRange s u (part [])) (List.range r.total)).foldl
          (fun s es => queueCopy c u cnt s [] (some (part es)) (esize * es.length)) (s.modBand Band.needBoundary))

def execCpt (t a c : SReg) (s : State) : Out :=
  form (.cpt t a c) s always (fun b => cptCap s (b.cap (.cpt t a c) ([t.val] ++ pairOf a ++ pairOf c) [] 0)) cptCore

/-! ## Line operations (R196, R197, R199) -/

/-- The reads and writes of a line operation: the data to write and its place. -/
abbrev Moves := List (Loc × List Byte)

/-- Every lane copy reads before anything is written. -/
def cpyMoves (s : State) (u : Issuer) : List CopyPart → Except FaultAt Moves
  | [] => .ok []
  | p :: ps =>
    match access s u p.dst (.write p.n) false, access s u p.src (.read p.n) false with
    | .error f, _ => .error f
    | .ok _, .error f => .error f
    | .ok (d, _), .ok (a, ord) => match cpyMoves s u ps with
      | .error f => .error f
      | .ok ms => .ok ((d, readAt s u a ord p.n) :: ms)

/-- An element out of range reads as zeros going to the tile, and is not written going to memory. -/
def cptMoves (s : State) (u : Issuer) (t : TilePart) : List Nat → Except FaultAt Moves
  | [] => .ok []
  | e :: es =>
    let n := 2 ^ t.rcd.esz
    let here := t.base + e * n
    match cptMoves s u t es with
    | .error f => .error f
    | .ok ms =>
      if !t.rcd.inRange e then .ok (if t.toTile then (.spad here, List.replicate n 0) :: ms else ms)
      else match elemAddr s u t.rcd e with
        | .error f => .error f
        | .ok a => match access s u a (if t.toTile then .read n else .write n) false with
          | .error f => .error f
          | .ok (l, ord) =>
            if t.toTile then .ok ((.spad here, readAt s u l ord n) :: ms)
            else match spadPoisoned? s here n with
              | some g => .error { code := code.memPoison, cls := 1, sz := t.rcd.esz, d := poisonDetail (g % Config.spadBytes) 1 }
              | none => .ok ((l, s.spad.bytes here n) :: ms)

/-- The pieces at addresses that a line operation reads and writes. -/
def copyPieces (s : State) (o : CopyOp) : List (Nat × Nat) :=
  match o.tile with
  | none => o.parts.flatMap fun p => [(p.src, p.n), (p.dst, p.n)]
  | some t => (t.elems.filter t.rcd.inRange).filterMap fun e => match elemAddr s o.u t.rcd e with
    | .ok a => some (a, 2 ^ t.rcd.esz)
    | .error _ => none

/-- The traffic of a line operation (R343, R355). -/
def copyTraffic (s : State) (o : CopyOp) : State :=
  let s := touchAt s o.u o.ref (copyPieces s o)
  match o.tile with
  | none => s
  | some t => touch s o.u o.ref (t.elems.map fun e => (.spad (t.base + e * 2 ^ t.rcd.esz), 2 ^ t.rcd.esz))

/-- A piece that is read or written lies at another device, and the partition has no port that is up (R464). -/
def portsDown (s : State) (u : Issuer) (ps : List (Nat × Nat)) : Bool :=
  !fabricUp s u.part && ps.any fun p =>
    remoteTables s u.part (p.1 % 2 ^ 48) && (tlbHit s u (p.1 % 2 ^ 48)).isNone && !inHeap u (p.1 % 2 ^ 48) && !isSpad (p.1 % 2 ^ 48)
    || match access s u (p.1 % 2 ^ 48) { r := true, w := false, n := p.2 } false with
      | .ok (.remote _ _, _) => true
      | _ => false

/-- A line operation is performed: its bytes are written in lane order (R184), then its count is added. -/
def performCopy (s : State) (o : CopyOp) (ms : Except FaultAt Moves) (cnt : Except FaultAt (Loc × Nat)) : State :=
  let rest := { s with copies := s.copies.filter fun x => x.seq ≠ o.seq }
  match ms, cnt with
  | .error f, _ | .ok _, .error f => copyEnds (copyFault rest o.u o.ref f o.cnt o.count o.pc o.word) o.u o.ref 1
  | .ok ms, .ok l =>
    if ms.any fun m => busyLoc s m.2.length m.1 then s
    else
      let t := writeMany rest o.u o.ref (ms.map fun m => (m.1, m.2, 1))
      copyEnds (copyTraffic (countLine s t o.u o.ref o.seq l o.count) o) o.u o.ref 1

/-- A line operation of cpy at a place in the queue, once its partition holds a copy engine (R439). -/
def execCopyLineOperation (index : Nat) (s : State) : Out :=
  .next <| match s.copies[index]? with
  | none => s
  | some o =>
    if o.tile.isSome || !holdsEngine s o.u.core 0 o.u.part || portsDown s o.u (copyPieces s o) then s
    else performCopy s o (cpyMoves s o.u o.parts) (counterAt s o.u o.cnt)

/-- A line operation of cpt. -/
def execTileCopyLine (index : Nat) (s : State) : Out :=
  .next <| match s.copies[index]? with
  | none => s
  | some o => match o.tile with
    | none => s
    | some t =>
      if !holdsEngine s o.u.core 0 o.u.part || portsDown s o.u (copyPieces s o) then s
      else performCopy s o (cptMoves s o.u t t.elems) (counterAt s o.u o.cnt)

/-! ## cpz (R200 to R203) -/

/-- Map bytes of a stream of n lines. -/
def mapBytes (n : Nat) : Nat := (n + 127) / 128 * 16

/-- The checks of R200 in their order, and the queueing. -/
def cpzCore (c : Captured) (s : State) : Ans :=
  let u := s.issuer 1
  match baseOf c 0 0, baseOf c 2 0 with
  | none, _ => .fault [addrForm 0 false false 5] c.mask [] s
  | some _, none => .fault [addrForm 1 true true 3] c.mask [] s
  | some r, some cnt =>
    if r % 32 ≠ 0 then .fault [{ code := code.align, sz := 5, va := r }] c.mask [] s
    else match counterAddr c 2 1 with
    | .error f => .fault [f] c.mask [] s
    | .ok _ => match readRecord s (s.issuer 0) c 0 32 with
    | .error f => .fault [f] c.mask [] s
    | .ok bs =>
      let src := leAt bs 0 8
      let dst := leAt bs 8 8
      let nline := leAt bs 16 4
      let cap := leAt bs 20 4
      let dir := leAt bs 24 1
      if src ≥ 2 ^ 48 || dst ≥ 2 ^ 48 || nline = 0 || nline > 2 ^ 24 || cap % 16 ≠ 0 || cap < 48 || dir > 1
          || leAt bs 25 7 ≠ 0 then .early { code := code.illegal }
      else
        let (line, stream) := if dir = 0 then (src, dst) else (dst, src)
        if line % 128 ≠ 0 then .fault [{ code := code.align, w := dir = 1, cls := 1, sz := 7, va := line }] c.mask [] s
        else if stream % 16 ≠ 0 then .fault [{ code := code.align, w := dir = 0, cls := 1, sz := 4, va := stream }] c.mask [] s
        else
          let (seq, s) := ((afterRecord s (s.issuer 0) c 0 32).modBand Band.needBoundary).nextSeq
          let op : CzOp := { seq := seq, ref := s.me, u := u, cls := 1, src := src, dst := dst, nline := nline, cap := cap
                             expand := dir = 1, cnt := cnt, checked := false, lines := [], pc := c.pc, word := c.word }
          .done [] { drainAdd s u.core s.band.lnch nline with czs := s.czs ++ [op] }

def execCpz (r c : SReg) (s : State) : Out :=
  form (.cpz r c) s always (fun b => b.cap (.cpz r c) (pairOf r ++ pairOf c) [] 0) cpzCore

/-- Reads n blocks of `size` bytes from an address, each by its own access. -/
def readBlocks (s : State) (u : Issuer) (size a : Nat) : Nat → Except FaultAt (List (List Byte))
  | 0 => .ok []
  | n + 1 =>
    match access s u (a % 2 ^ 48) (.read size) false with
    | .error f => .error f
    | .ok (l, ord) => match readBlocks s u size (a + size) n with
      | .error f => .error f
      | .ok bs => .ok (readAt s u l ord size :: bs)

/-- The places of bytes to write in blocks of 16. -/
def writeBlocks (s : State) (u : Issuer) (a : Nat) : List (List Byte) → Except FaultAt Moves
  | [] => .ok []
  | b :: bs =>
    match access s u (a % 2 ^ 48) (.write 16) false with
    | .error f => .error f
    | .ok (l, _) => match writeBlocks s u (a + 16) bs with
      | .error f => .error f
      | .ok ms => .ok ((l, b) :: ms)

/-- The words of a line, eight bytes each. -/
def lineWords (line : List Byte) : List (List Byte) := (List.range 16).map fun k => (line.drop (8 * k)).take 8

def allZero (bs : List Byte) : Bool := bs.all fun b => b = 0

/-- The entry of a line: its mask and its nonzero words (R201). -/
def lineEntry (line : List Byte) : List Byte :=
  let ws := lineWords line
  let mask := (ws.zipIdx.filter fun e => !allZero e.1).foldl (fun m e => m + 2 ^ e.2) 0
  leBytes 2 mask ++ (ws.filter fun w => !allZero w).flatten

/-- The MAP of a list of lines. -/
def lineMap (lines : List (List Byte)) : List Byte :=
  (List.range (mapBytes lines.length)).map fun j => BitVec.ofNat 8 <|
    (List.range 8).foldl (fun m k => m + (if (lines[8 * j + k]?).any fun l => !allZero l then 2 ^ k else 0)) 0

/-- Bytes padded with zeros to a multiple of 16. -/
def pad16 (bs : List Byte) : List Byte := bs ++ List.replicate ((16 - bs.length % 16) % 16) 0

def streamHeader (nline len flags : Nat) : List Byte :=
  leBytes 4 nline ++ leBytes 4 len ++ leBytes 1 flags ++ List.replicate 23 0

/-- The stream of some lines (R201), or its header alone where it does not fit (R202). -/
def packStream (lines : List (List Byte)) (cap : Nat) : List Byte :=
  let body := pad16 (lineMap lines ++ ((lines.filter fun l => !allZero l).flatMap lineEntry))
  let len := 32 + body.length
  if len ≤ cap then streamHeader lines.length len 0 ++ body else streamHeader lines.length len 1

/-- Bytes cut into pieces of 16. -/
def blocks16 (bs : List Byte) : List (List Byte) := (List.range (bs.length / 16)).map fun k => (bs.drop (16 * k)).take 16

/-- An operation of a compression engine ends in a fault: nothing more is written or counted. -/
def czFails (s : State) (o : CzOp) (f : FaultAt) : State :=
  let rest := { s with czs := s.czs.filter fun x => x.seq ≠ o.seq }
  copyEnds (copyFault rest o.u o.ref f o.cnt (o.nline * 128) o.pc o.word) o.u o.ref o.nline

/-- The step of a pack (R202): the lines are read, the stream is written, and the counter grows once. -/
def execCzPack (index : Nat) (s : State) : Out :=
  .next <| match s.czs[index]? with
  | none => s
  | some o =>
    let pieces := (List.range o.nline).map fun k => (o.src + 128 * k, 128)
    if o.expand || !holdsEngine s o.u.core 1 o.u.part || portsDown s o.u pieces then s
    else match readBlocks s o.u 128 o.src o.nline with
    | .error f => czFails s o f
    | .ok lines => match writeBlocks s o.u o.dst (blocks16 (packStream lines o.cap)), counterAt s o.u o.cnt with
      | .error f, _ => czFails s o f
      | .ok _, .error f => czFails s o f
      | .ok ms, .ok l =>
        if ms.any fun m => busyLoc s 16 m.1 then s
        else
          let t := writeMany { s with czs := s.czs.filter fun x => x.seq ≠ o.seq } o.u o.ref (ms.map fun m => (m.1, m.2, 1))
          let t := touchAt (countLine s t o.u o.ref o.seq l (o.nline * 128)) o.u o.ref
            (pieces ++ (List.range ms.length).map fun k => (o.dst + 16 * k, 16))
          copyEnds t o.u o.ref o.nline

/-- A line from its entry's mask and words. -/
def expandLine (mask : Nat) (words : List Byte) : List Byte :=
  ((List.range 16).foldl (fun (acc : List Byte × List Byte) k =>
    if mask.testBit k then (acc.1 ++ acc.2.take 8, acc.2.drop 8) else (acc.1 ++ List.replicate 8 0, acc.2)) ([], words)).1

/-- The lines that a stream's entries give, from line k on, with what is left of the stream; none where an entry does
not end within it. -/
def expandLines (map : List Byte) (k : Nat) : Nat → List Byte → Option (List (Nat × List Byte) × List Byte)
  | 0, bs => some ([], bs)
  | n + 1, bs =>
    if (map.getD (k / 8) 0).getLsbD (k % 8) then
      let mask := leAt bs 0 2
      let size := 2 + 8 * ((List.range 16).filter mask.testBit).length
      if bs.length < size then none
      else (expandLines map (k + 1) n (bs.drop size)).map fun r => ((k, expandLine mask (bs.drop 2)) :: r.1, r.2)
    else (expandLines map (k + 1) n bs).map fun r => ((k, List.replicate 128 0) :: r.1, r.2)

/-- The lines of a stream of `len` bytes, unless it is malformed (R202). -/
def expandStream (nline : Nat) (bs : List Byte) : Option (List (Nat × List Byte)) :=
  let m := mapBytes nline
  let map := (bs.drop 32).take m
  let past := (List.range (8 * m)).any fun k => nline ≤ k && (map.getD (k / 8) 0).getLsbD (k % 8)
  if bs.length < 32 + m || past then none
  else match expandLines map 0 nline (bs.drop (32 + m)) with
    | none => none
    | some (ls, rest) => if allZero rest then some ls else none

/-- The bytes of a stream whose header is well formed for the record. -/
def streamOk (o : CzOp) (hd : List Byte) : Bool :=
  leAt hd 0 4 = o.nline && leAt hd 4 4 ≤ o.cap && leAt hd 8 1 = 0 && allZero (hd.drop 9)

def czForm : FaultAt := { code := code.czForm, cls := 1 }

/-- The check of an expand before it writes any line. -/
def execCzExpandCheck (index : Nat) (s : State) : Out :=
  .next <| match s.czs[index]? with
  | none => s
  | some o =>
    let pieces (n : Nat) : List (Nat × Nat) := (List.range n).map fun k => (o.src + 16 * k, 16)
    if !o.expand || o.checked || !holdsEngine s o.u.core 1 o.u.part || portsDown s o.u (pieces 2) then s
    else match readBlocks s o.u 16 o.src 2 with
    | .error f => czFails s o f
    | .ok hd =>
      let hd := hd.flatten
      let len := leAt hd 4 4
      if !streamOk o hd then czFails s o czForm
      else if portsDown s o.u (pieces ((len + 15) / 16)) then s
      else match readBlocks s o.u 16 o.src ((len + 15) / 16) with
        | .error f => czFails s o f
        | .ok bs => match expandStream o.nline (bs.flatten.take len) with
          | none => czFails s o czForm
          | some ls =>
            touchAt { s with czs := s.czs.map fun x => if x.seq = o.seq then { x with checked := true, lines := ls } else x } o.u o.ref
              (pieces ((len + 15) / 16))

/-- One destination line of an expand (R202, R203): a fault loses that line only. -/
def execCzExpandLine (index line : Nat) (s : State) : Out :=
  .next <| match s.czs[index]? with
  | none => s
  | some o =>
    match o.lines.find? fun e => e.1 = line with
    | none => s
    | some (_, bs) =>
      if !o.checked || !holdsEngine s o.u.core 1 o.u.part then s
      else
        let left := o.lines.filter fun e => e.1 ≠ line
        let rest := { s with czs := s.czs.filterMap fun x =>
          if x.seq ≠ o.seq then some x else if left.isEmpty then none else some { x with lines := left } }
        match access s o.u ((o.dst + 128 * line) % 2 ^ 48) (.write 128) false, counterAt s o.u o.cnt with
        | .error f, _ | .ok _, .error f => copyEnds (copyFault rest o.u o.ref f o.cnt 128 o.pc o.word) o.u o.ref 1
        | .ok (l, ord), .ok k =>
          if busyLoc s 128 l then s
          else copyEnds (touch (countLine s (writeAt rest o.u o.ref l bs ord) o.u o.ref o.seq k 128) o.u o.ref [(l, 128)]) o.u o.ref 1

end Sys2Proof.Machine
end

