-- ==== Sys2Proof/Machine/Matrix.lean ====
section
/-!
DEFINITION. MTX and the matrix sequencer: posting (R224 to R227), issue and its orders (R228 to R230), accumulators
(R231), format-blocks (R232, R233), the Saggar (R234 to R238), MLOOP with the arithmetic of AOR 1 (R68 to R72, R239 to
R242), MLD and MST (R243 to R245), mwait and mquery (R246, R247), faults and suspension (R249 to R251).
-/
namespace Sys2Proof.Machine

/-! ## Records and posting -/

/-- The fields of a command word (R225). -/
def mtx.fn (w : Word) : Nat := wfield w 26 24
def mtx.id (w : Word) : Nat := wfield w 23 18
def mtx.p1 (w : Word) : Nat := wfield w 17 12
def mtx.p2 (w : Word) : Nat := wfield w 11 6

/-- Words in the record of each command. -/
def recordLength : Nat → Nat
  | 0 => 1 | 1 => 8 | 2 => 7 | 3 => 1 | 4 => 4 | _ => 5

/-- The record as words. -/
def rword (r : List Word) (k : Nat) : Word := r.getD k 0

/-- The record of an MST names a companion tile (R244). -/
def mstCompanion (r : List Word) : Option Nat :=
  if wbit (rword r 3) 7 then some (wfield (rword r 3) 10 8) else none

/-- MLOOP takes A from a circular buffer (R239). -/
def mloopCb (r : List Word) : Option Nat := if wbit (rword r 0) 31 then some (wfield (rword r 0) 4 0) else none

/-- The zero and range rules of each record (R231, R234, R239, R243, R244). -/
def recordOk (fn : Nat) (m : Word) (r : List Word) : Bool :=
  let w := rword r
  match fn with
  | 0 => wfield (w 0) 31 4 = 0
  | 1 => wfield (w 2) 31 24 = 0 && (w 2).toNat % 16 = 0 && (w 3).toNat % 16 = 0 && wfield (w 4) 31 18 = 0
      && (w 4).toNat % 64 = 0 && wfield (w 5) 31 18 = 0 && (w 5).toNat % 64 = 0 && w 5 ≠ 0 && wfield (w 6) 31 16 = 0
      && w 6 ≠ 0 && wfield (w 7) 31 21 = 0 && (w 7).toNat % 32 = 0
  | 2 => (if wbit (w 0) 31 then wfield (w 0) 30 5 = 0 && w 2 = 0 else wfield (w 0) 30 10 = 0)
      && wfield (w 1) 31 21 = 0 && (w 1).toNat % 16 = 0 && (w 2).toNat % 16 = 0 && wfield (w 3) 31 18 = 0
      && (w 3).toNat % 64 = 0 && (w 4).toNat % 64 = 0 && wfield (w 5) 31 19 = 0 && wfield (w 5) 15 0 ≠ 0
      && wfield (w 6) 31 21 = 0 && (w 6).toNat % 32 = 0
  | 3 => wfield (w 0) 31 8 = 0 && w 0 ≠ 0
  | 4 => wfield (w 2) 31 24 = 0 && wfield (w 3) 31 3 = 0
  | _ =>
    let dt := wfield (w 3) 6 3
    wfield (w 2) 31 24 = 0 && wfield (w 3) 31 11 = 0 && 6 ≤ dt && dt ≤ 10
      && (match mstCompanion r with
          | none => wfield (w 3) 10 8 = 0
          | some t => t ≠ wfield (w 3) 2 0 && mr.rm m = 5)
      && wfield (w 4) 31 18 = 0 && (if dt = 10 then Fmt.validReg (w 4) else w 4 = 0)

/-- The accumulator tiles that a command names (R226, R228). -/
def accsOf (fn : Nat) (r : List Word) : List Nat :=
  let w := rword r
  match fn with
  | 0 => [wfield (w 0) 2 0]
  | 1 => []
  | 2 => [wfield (w 5) 18 16]
  | 3 => (List.range 8).filter fun t => wbit (w 0) t
  | 4 => [wfield (w 3) 2 0]
  | _ => wfield (w 3) 2 0 :: (mstCompanion r).toList

/-- The Saggar offsets of R228: a WLD's range, or that of an MLOOP, which starts at 0 where its lower end is negative. -/
def saggarRange (fn : Nat) (r : List Word) : Option (Nat × Nat) :=
  let w := rword r
  match fn with
  | 1 => some ((w 4).toNat, (w 4).toNat + (w 6).toNat * (w 5).toNat - 1)
  | 2 =>
    let a : Int := (w 3).toNat
    let b : Int := a + ((wfield (w 5) 15 0 : Nat) - 1 : Int) * (w 4).toInt
    some ((min a b).toNat, min ((max a b).toNat + 8767) 0x3FFFF)
  | _ => none

/-- The orders of R228 between an earlier command and one that is posted. -/
def ordered (x c : Cmd) : Bool :=
  let same := x.ref.lnch = c.ref.lnch && x.ref.bid = c.ref.bid && x.firing = c.firing
  (same && x.accs.any c.accs.contains)
  || (same && x.cb.isSome && x.cb = c.cb)
  || ((x.fn = 1 || c.fn = 1) && (x.fn = 1 || x.fn = 2) && (c.fn = 1 || c.fn = 2) && x.lo ≤ c.hi && c.lo ≤ x.hi)

/-- A command as it is posted. -/
def newCmd (seq : Nat) (ref : BandRef) (u : Issuer) (c : Captured) (fn id : Nat) (preds : List Nat) : Cmd :=
  { seq := seq, ref := ref, u := u, id := id, fn := fn, rcd := c.scalars, mr := c.mr, preds := preds, after := []
    accs := accsOf fn c.scalars, cb := if fn = 2 then mloopCb c.scalars else none, reads := [], stage := .posted, done := 0
    lo := ((saggarRange fn c.scalars).getD (1, 0)).1, hi := ((saggarRange fn c.scalars).getD (1, 0)).2
    pc := c.pc, word := c.word, mask := c.mask, fb := [], firing := none }

/-- Puts a command at the end of a queue, after the commands that R228 puts before it. -/
def pushCmd (s : State) (q : Nat) (c : Cmd) : State :=
  let qd := s.quad q
  let c := { c with after := (qd.queue.filter fun x => ordered x c).map (·.seq) }
  s.setQuad q { qd with queue := qd.queue ++ [c] }

/-- Free accumulator tiles become owned at posting (R28). -/
def ownAccs (s : State) (q : Nat) (o : AccOwner) (ts : List Nat) : State :=
  let qd := s.quad q
  s.setQuad q { qd with accOwn := ts.foldl (fun t k => if t.has k then t else t.put k o) qd.accOwn }

/-- A tile that another band or a graph owns. -/
def accBusy (s : State) (q : Nat) (r : BandRef) (t : Nat) : Bool :=
  match (s.quad q).accOwn.find? t with
  | none => false
  | some (.band x) => !(x.lnch = r.lnch && x.bid = r.bid)
  | some (.graph _ _) => true

/-- The fault of a buffer that a post names (R241): its slice, its definition, its consumer end. -/
def cbPostFault (s : State) (core part : Nat) (r : BandRef) (n : Nat) : Option Nat :=
  if sliceOwner s core (n / 8) ≠ part then some code.spadOwner
  else match (s.core core).cbs.find? n with
    | none => some code.cbState
    | some b => match b.cons with
      | none => none
      | some (.band x) => if x.lnch = r.lnch && x.bid = r.bid then none else some code.cbBusy
      | some (.graph _ _ _) => some code.cbBusy

/-- The unretired command of a band with an id. -/
def liveCmd (s : State) (q : Nat) (b : Band) (id : Nat) : Option Cmd :=
  (commandsOf s q (refOf b)).find? fun c => c.id = id

/-- Whether a predecessor has ended badly (R227). -/
def badPred (s : State) (q : Nat) (b : Band) (p : Nat) : Bool :=
  p ≠ 63 && (liveCmd s q b p).isNone && (b.cmdEnds.find? p).any (·.failed)

/-- The commands in the queue: a suspended one stands with its band (R251). -/
def queued (q : Quad) : Nat := (q.queue.filter fun c => c.stage ≠ .suspended).length

/-- Binds the consumer end of the buffer that a command names (R241). -/
def bindCb (s : State) (core : Nat) (o : EndOwner) (cb : Option Nat) : State :=
  match cb with
  | none => s
  | some n =>
    let k := s.core core
    s.setCore core { k with cbs := k.cbs.adjust n fun b => { b with cons := some o } }

/-- Posting (R224, R226): the record's limits, the upper half of its address pair, the accumulators, the buffer; then the
waits for a place in the queue and for the id. A command whose predecessor has ended badly is cancelled at once. -/
def postCore (c : Captured) (s : State) : Ans :=
  let fn := mtx.fn c.word
  let id := mtx.id c.word
  let r := c.scalars
  let b := s.band
  let q := s.myQuad
  let cb := if fn = 2 then mloopCb r else none
  if !recordOk fn c.mr r then .early { code := code.illegal }
  else if (fn = 1 || fn = 4 || fn = 5) && wfield (rword r 1) 31 16 ≠ 0 then .early (addrForm 2 (fn = 5) false 0)
  else if (accsOf fn r).any (accBusy s q s.me) then .early { code := code.accOwner }
  else match cb.bind (cbPostFault s s.myCore b.part s.me) with
  | some f => .early { code := f }
  | none =>
    if 64 ≤ queued (s.quad q) || (liveCmd s q b id).isSome then .wait .mtxPost [] s
    else
      let ps := [mtx.p1 c.word, mtx.p2 c.word].filter fun p => p ≠ 63
      let (seq, t) := (s.modBand Band.needBoundary).nextSeq
      let cmd := newCmd seq s.me (s.issuer 2) c fn id (ps.filterMap fun p => (liveCmd s q b p).map (·.seq))
      let t := drainAdd (bindCb (pushCmd (ownAccs t q (.band s.me) cmd.accs) q cmd) s.myCore (.band s.me) cb) s.myCore b.lnch 1
      .done [] (if ps.any (badPred s q b) then retireCmd t q cmd true 0 else t)

/-- An MTX word outside trap mode first delivers a pending matrix fault (R249). -/
def mtxForm (i : Instr) (s : State) (scalars : List Nat) (k : Captured → State → Ans) : Out :=
  issue i s always fun b =>
    if !b.inTrap && !b.mfaults.isEmpty then deliverMatrix s
    else
      let c := b.cap i scalars [] 0
      finish c (k c s) s

def recordRegs (fn : Nat) (r : SReg) : List Nat := (List.range (recordLength fn)).map (r.val + ·)

def execMfmt (i p q : Fin 64) (r : SReg) (s : State) : Out := mtxForm (.mfmt i p q r) s (recordRegs 0 r) postCore
def execWld (i p q : Fin 64) (r : SReg) (s : State) : Out := mtxForm (.wld i p q r) s (recordRegs 1 r) postCore
def execMloop (i p q : Fin 64) (r : SReg) (s : State) : Out := mtxForm (.mloop i p q r) s (recordRegs 2 r) postCore
def execMzero (i p q : Fin 64) (r : SReg) (s : State) : Out := mtxForm (.mzero i p q r) s (recordRegs 3 r) postCore
def execMld (i p q : Fin 64) (r : SReg) (s : State) : Out := mtxForm (.mld i p q r) s (recordRegs 4 r) postCore
def execMst (i p q : Fin 64) (r : SReg) (s : State) : Out := mtxForm (.mst i p q r) s (recordRegs 5 r) postCore

/-- A post that waited goes on (R224, R226). -/
def execMtxPostWake (slot path : Nat) (s : State) : Out := .next (wake slot path .mtxPost postCore s)

/-! ## mwait and mquery (R246, R247) -/

/-- mwait waits for the commands that the band has now: the one with its id, or all. -/
def mwaitCore (i : Nat) (_ : Captured) (s : State) : Ans :=
  let cs := (commandsOf s s.myQuad s.me).filter fun c => i = 63 || c.id = i
  if cs.isEmpty then .done [] s else .wait .mwait (cs.map fun c => (c.seq, true)) s

def execMwait (i : Fin 64) (s : State) : Out := mtxForm (.mwait i) s [] (mwaitCore i.val)

/-- The commands that a waiting mwait named have retired. -/
def execMwaitWake (slot path : Nat) (s : State) : Out :=
  .next <| match waitOf s slot path .mwait, s.bands.find? slot with
  | none, _ | _, none => s
  | some w, some b =>
      if (commandsOf s (quadOf slot) (refOf b)).any fun c => w.phases.any fun e => e.1 = c.seq then s
      else s.onSlot slot fun s => onPath s path fun s => s.modBand Band.advance

/-- The two words of mquery for an id. -/
def queryId (s : State) (b : Band) (i : Nat) : Word × Word :=
  let word (st done fn : Nat) : Word := w32 (st + done * 2 ^ 8 + fn * 2 ^ 24)
  let steps (fn done : Nat) : Nat := if fn = 1 || fn = 2 || fn = 5 then done else 0
  match liveCmd s s.myQuad b i with
  | some c => (word (match c.stage with | .running => 2 | .posted | .suspended => 1) (steps c.fn c.done) c.fn, 0)
  | none => match b.cmdEnds.find? i with
    | none => (0, 0)
    | some e => (word (if e.failed then 3 else 0) (steps e.fn e.done) e.fn, if e.failed then w32 e.code else 0)

def mqueryCore (i : Nat) (d : SReg) (_ : Captured) (s : State) : Ans :=
  let b := s.band
  let (x, y) := if i = 63 then (w32 (commandsOf s s.myQuad s.me).length, w32 b.mfaults.length) else queryId s b i
  .done [sWrite d.val x, sWrite (d.val + 1) y] s

def execMquery (i : Fin 64) (d : SReg) (s : State) : Out := mtxForm (.mquery i d) s [] (mqueryCore i.val d)

/-! ## Format-blocks (R232, R233) -/

/-- The half of a format-block from byte 16 h: its words. -/
def fbHalf (fb : List Word) (h : Nat) : List Word := (fb.drop (4 * h)).take 4

def half.kind (h : List Word) : Nat := wfield (rword h 0) 31 28
def half.blk (h : List Word) : Nat := wfield (rword h 1) 7 0
def half.sc (h : List Word) : Bool := wbit (rword h 1) 8
def half.sp (h : List Word) : Bool := wbit (rword h 1) 9
def half.srs (h : List Word) : Nat := wfield (rword h 1) 31 16
def half.scale (h : List Word) : Nat := (rword h 2).toNat + 2 ^ 32 * (rword h 3).toNat
def half.desc (h : List Word) : Word := rword h 0 &&& 0x3FFFF

/-- The format of a kind and descriptor. -/
def kindFmt (kind : Nat) (desc : Word) : Fmt :=
  match kind with
  | 0 => Fmt.ofReg desc | 1 => Fmt.binary16 | 2 => Fmt.bfloat16 | 3 => Fmt.binary32 | _ => Fmt.binary64

/-- Element bytes (R233). -/
def kindBytes : Nat → Nat
  | 0 => 1 | 1 | 2 => 2 | 3 => 4 | _ => 8

/-- The K depth of a step. -/
def depth (kind : Nat) : Nat := 256 / kindBytes kind

/-- A half is valid (R232). -/
def half.ok (isA : Bool) (h : List Word) : Bool :=
  let k := half.kind h
  k ≤ 4 && wfield (rword h 0) 27 18 = 0 && (if k = 0 then Fmt.validReg (half.desc h) else half.desc h = 0)
  && wfield (rword h 1) 15 10 = 0 && !(half.sp h && (isA || k ≥ 3)) && !(half.sc h && k ≥ 3)
  && (if half.sc h then
        4 ≤ half.blk h && half.blk h ≤ 8 && half.scale h < (if isA then 2 ^ 20 else 2 ^ 48)
      else half.blk h = 0 && half.srs h = 0 && half.scale h = 0)

/-- A scratchpad address from its offset (R40, R180). -/
def spadVa (off : Nat) : Nat := 0xFFFF * 2 ^ 32 + off

/-- The format-block at an offset of the core's scratchpad, through class M, with both halves checked. -/
def readFb (s : State) (u : Issuer) (off : Nat) : Except FaultAt (List Word) :=
  match access s u (spadVa off) (.read 32) false with
  | .error f => .error f
  | .ok (l, ord) =>
    let fb := leWords 8 (readAt s u l ord 32)
    if half.ok true (fbHalf fb 0) && half.ok false (fbHalf fb 1) then .ok fb else .error { code := code.mtxFmt, cls := 2 }

/-- Decode of an element under the scale of its block (R58); none for an elided block (R59). -/
def scaled (t : Fmt) (code : Nat) (sc : Option Byte) : Option FVal :=
  match sc with
  | none => some (fdecode (code % 2 ^ t.width) t)
  | some b => if b = 0x80 then none else some ((fdecode (code % 2 ^ t.width) t).scale b.toInt)

/-! ## Accumulators -/

def accCode (qd : Quad) (t i j : Nat) : Nat := (qd.acc.getD (1024 * t + 32 * i + j) 0).toNat

def accIs64 (qd : Quad) (t : Nat) : Bool := qd.accFmt.has t

def accType (qd : Quad) (t : Nat) : Fmt := if accIs64 qd t then Fmt.binary64 else Fmt.binary32

/-- Writes every element of a tile. -/
def setAcc (qd : Quad) (t : Nat) (f : Nat → Nat → Nat) : Quad :=
  let rest := qd.acc.filter fun e => e.1 / 1024 ≠ t
  let new : Tab DWord := (List.range 1024).filterMap fun k =>
    let x : DWord := BitVec.ofNat 64 (f (k / 32) (k % 32))
    if x = 0 then none else some (1024 * t + k, x)
  { qd with acc := (rest.filter fun e => e.1 < 1024 * t) ++ new ++ (rest.filter fun e => 1024 * t ≤ e.1) }

/-! ## Steps of AOR 1 (R70, R71) -/

/-- StepNarrow: the terms of the products that no elided block takes away. -/
def stepNarrow (t : Fmt) (acc : Nat) (as bs : List (Option FVal)) : Nat :=
  let terms := (as.zip bs).filterMap fun e => match e.1, e.2 with
    | some a, some b => some (a.mul b)
    | _, _ => none
  let c := fround (FVal.exactSum terms) t .rne false
  fround (FVal.exactSum [fdecode acc t, fdecode c t]) t .rne false

/-- One level of the pairwise tree. -/
def treeLevel (t : Fmt) : List FVal → List FVal
  | x :: y :: r => fdecode (fround (FVal.exactSum [x, y]) t .rne false) t :: treeLevel t r
  | [x] => [x]
  | [] => []

/-- The root of the tree, given enough levels. -/
def treeSum (t : Fmt) : Nat → List FVal → FVal
  | 0, xs => xs.headD (.zero false)
  | n + 1, xs => treeSum t n (treeLevel t xs)

/-- StepWide. -/
def stepWide (t : Fmt) (acc : Nat) (as bs : List (Option FVal)) : Nat :=
  let ps := (as.zip bs).map fun e => (e.1.getD (.zero false)).mul (e.2.getD (.zero false))
  fround (FVal.exactSum [fdecode acc t, treeSum t (Nat.log2 ps.length) ps]) t .rne false

/-! ## WLD (R234 to R238) -/

/-- The address of an element of the B source. -/
def wldAddr (r : List Word) (e step j k : Nat) : Nat :=
  ea ((rword r 0).toNat + 2 ^ 32 * (rword r 1).toNat)
    ((step : Int) * (rword r 3).toInt + (j * (rword r 2).toNat + k * e : Nat))

/-- Reads n bytes through class M. -/
def readM (s : State) (u : Issuer) (va n : Nat) : Except FaultAt Nat :=
  match access s u va (.read n) false with
  | .error f => .error f
  | .ok (l, ord) => .ok (leNat (readAt s u l ord n))

/-- Reads a list of addresses, in order. -/
def readAll (s : State) (u : Issuer) (n : Nat) : List (Nat × Nat) → Except FaultAt (List (Nat × Nat))
  | [] => .ok []
  | (k, va) :: r =>
    match readM s u va n with
    | .error f => .error f
    | .ok x => match readAll s u n r with
      | .error f => .error f
      | .ok xs => .ok ((k, x) :: xs)

/-- The elements of a group of 4 that are stored (R237), or none for more than two nonzero ones: those left out read as
+0, code 0. -/
def sparseGroup (t : Fmt) (g : List Nat) : Option (List Nat) :=
  let isZero (x : Nat) : Bool := match fdecode (x % 2 ^ t.width) t with | .zero _ => true | .nan | .inf _ | .fin _ _ _ => false
  let nz := (List.range 4).filter fun k => !isZero (g.getD k 0)
  if nz.length > 2 then none
  else
    let fill := ((List.range 4).filter fun k => isZero (g.getD k 0)).take (2 - nz.length)
    some ((List.range 4).map fun k => if nz.contains k || fill.contains k then g.getD k 0 else 0)

/-- A run of elements in groups of 4. -/
def sparseRun (t : Fmt) : Nat → List Nat → Option (List Nat)
  | 0, _ => some []
  | n + 1, xs => match sparseGroup t (xs.take 4), sparseRun t n (xs.drop 4) with
    | some g, some r => some (g ++ r)
    | _, _ => none

/-- A block of a column as it is stored: its elements, none when it is elided. -/
structure SagBlock where
  scale : Byte
  elems : Option (List Nat)
  deriving DecidableEq, Repr

/-- Reads block b of column j of a step: its scale, then its elements unless it is elided. The Saggar holds the bits of the element's
width alone (R56). -/
def readBlock (s : State) (c : Cmd) (h : List Word) (step j b len : Nat) : Except FaultAt SagBlock :=
  let e := kindBytes (half.kind h)
  let kappa := step * depth (half.kind h) + b * len
  match (if half.sc h then readM s c.u ((half.scale h + j * half.srs h + kappa / 2 ^ half.blk h) % 2 ^ 48) 1 else .ok 0) with
  | .error f => .error f
  | .ok sc =>
    if half.sc h && sc = 0x80 then .ok { scale := 0x80, elems := none }
    else match readAll s c.u e ((List.range len).map fun k => (k, wldAddr c.rcd e step j (b * len + k))) with
      | .error f => .error f
      | .ok xs => .ok { scale := BitVec.ofNat 8 sc, elems := some (xs.map fun x => x.2 % 2 ^ (kindFmt (half.kind h) (half.desc h)).width) }

/-- Reads blocks given by column and number. -/
def readBlocksOf (s : State) (c : Cmd) (h : List Word) (step len : Nat) :
    List (Nat × Nat) → Except FaultAt (List (Nat × Nat × SagBlock))
  | [] => .ok []
  | (j, b) :: r => match readBlock s c h step j b len with
    | .error f => .error f
    | .ok x => match readBlocksOf s c h step len r with
      | .error f => .error f
      | .ok xs => .ok ((j, b, x) :: xs)

/-- The blocks of an image as it stores them: with SP = 1 every group of 4 is checked and compressed, after all of the
image's blocks have been read (R235, R237). -/
def compress (h : List Word) : List (Nat × Nat × SagBlock) → Option (List (Nat × Nat × SagBlock))
  | [] => some []
  | (j, b, x) :: r =>
    let es := match x.elems with
      | none => some none
      | some xs => if half.sp h then (sparseRun (kindFmt (half.kind h) (half.desc h)) (xs.length / 4) xs).map some else some (some xs)
    match es, compress h r with
    | some es, some r => some ((j, b, { x with elems := es }) :: r)
    | _, _ => none

/-- Elements of a block within one step, and blocks of a column of a step (R236). -/
def blockLen (h : List Word) : Nat := if half.sc h then min (2 ^ half.blk h) (depth (half.kind h)) else depth (half.kind h)
def blockCount (h : List Word) : Nat := depth (half.kind h) / blockLen h

/-- The length of an image in bytes (R236). -/
def imageLength (h : List Word) (bs : List (Nat × Nat × SagBlock)) : Nat :=
  let e := kindBytes (half.kind h)
  let d := bs.foldl (fun n x => match x.2.2.elems with
    | none => n
    | some es => n + (if half.sp h then es.length * e / 2 + es.length / 8 else es.length * e)) 0
  (64 + 32 * (if half.sc h then blockCount h else 0) + d + 63) / 64 * 64

/-- The image that blocks make. -/
def makeImage (h : List Word) (units : Nat) (bs : List (Nat × Nat × SagBlock)) : SagImage :=
  let n := depth (half.kind h)
  { units := units, kind := half.kind h, desc := half.desc h, blk := blockLen h, scaled := half.sc h
    elems := (bs.flatMap fun x => (x.2.2.elems.getD []).zipIdx.map fun e =>
      (n * x.1 + blockLen h * x.2.1 + e.2, BitVec.ofNat 64 e.1)).filter fun (e : Nat × DWord) => e.2 ≠ 0
    scales := (bs.map fun x => (16 * x.1 + x.2.1, x.2.2.scale)).filter fun (e : Nat × Byte) => e.2 ≠ 0
    bad := false }

/-- Writes an image at an offset: earlier images that share a unit with it lose their start (R238). -/
def putImage (qd : Quad) (o : Nat) (img : SagImage) : Quad :=
  { qd with images := Tab.put (qd.images.filter fun (e : Nat × SagImage) => e.1 + 64 * e.2.units ≤ o || o + 64 * img.units ≤ e.1) o img }

/-! ## Issue (R227 to R229) -/

/-- Replaces a command of a queue. -/
def setCmd (s : State) (q : Nat) (c : Cmd) : State :=
  let qd := s.quad q
  s.setQuad q { qd with queue := qd.queue.map fun x => if x.seq = c.seq then c else x }

/-- Whether the matrix unit, or the transfer path, is held by a command that runs there as a whole (R229). An MST whose
rows are all written only awaits its acknowledgements. -/
def matrixBusy (qd : Quad) : Bool := qd.queue.any fun c => c.stage = .running && (c.fn = 0 || c.fn = 3)
def transferBusy (qd : Quad) : Bool := qd.queue.any fun c => c.stage = .running && (c.fn = 4 || (c.fn = 5 && c.done < 32))

/-- The bytes of the core's scratchpad between two addresses of the window. -/
def spadSpan (core lo hi : Nat) : List (Nat × Nat) := if isSpad lo then [(spadAt core (lo % 2 ^ 32), hi - lo)] else []

def rowAddr (r : List Word) (i : Nat) : Nat :=
  ea ((rword r 0).toNat + 2 ^ 32 * (rword r 1).toNat) (i * (rword r 2).toNat : Nat)

/-- Destination element bytes of an MST. -/
def mstFmt (r : List Word) : Fmt :=
  match wfield (rword r 3) 6 3 with
  | 6 => Fmt.binary16 | 7 => Fmt.bfloat16 | 8 => Fmt.binary32 | 9 => Fmt.binary64 | _ => Fmt.ofReg (rword r 4)
def mstBytes (r : List Word) : Nat :=
  match wfield (rword r 3) 6 3 with
  | 6 | 7 => 2 | 8 => 4 | 9 => 8 | _ => 1

/-- Scratchpad ranges that a command writes while it runs (R228). -/
def writesSpad (core : Nat) (c : Cmd) : List (Nat × Nat) :=
  if c.fn = 5 then (List.range 32).flatMap fun i => spadSpan core (rowAddr c.rcd i) (rowAddr c.rcd i + 32 * mstBytes c.rcd)
  else []

/-- The scale bytes that a WLD reads, from the lowest to the highest (R233); its format-block says where they lie. -/
def scaleSpan (s : State) (core : Nat) (c : Cmd) : List (Nat × Nat) :=
  match readFb s c.u (rword c.rcd 7).toNat with
  | .error _ => []
  | .ok fb =>
    let h := fbHalf fb 1
    let last := ((rword c.rcd 6).toNat * depth (half.kind h) - 1) / 2 ^ half.blk h
    if half.sc h then spadSpan core (half.scale h) (half.scale h + 31 * half.srs h + last + 1) else []

/-- Scratchpad ranges that a command reads: an A tile, or the slots of its buffer; the range from the lowest to the highest
byte of a WLD's source, and its scales; the rows of an MLD; and the format-block (R228). -/
def readsSpad (s : State) (core : Nat) (c : Cmd) : List (Nat × Nat) :=
  match c.fn with
  | 1 =>
    let n := (rword c.rcd 6).toNat - 1
    let a := wldAddr c.rcd 1 0 0 0
    let b := wldAddr c.rcd 1 n 0 0
    (spadAt core (rword c.rcd 7).toNat, 32) :: spadSpan core (min a b) (max a b + 31 * (rword c.rcd 2).toNat + 256)
      ++ scaleSpan s core c
  | 2 =>
    let tiles := match c.cb with
      | none => [wfield (rword c.rcd 0) 9 0]
      | some n => match (s.core core).cbs.find? n with
        | none => []
        | some b => (List.range b.nslot).map (b.tile0 + ·)
    (spadAt core (rword c.rcd 6).toNat, 32) :: tiles.map fun t => (tileBase core t (tileAt s core t), 16 * (tileAt s core t).len)
  | 4 =>
    let z := if accIs64 (s.quad c.u.quad) (wfield (rword c.rcd 3) 2 0) then 8 else 4
    (List.range 32).flatMap fun i => spadSpan core (rowAddr c.rcd i) (rowAddr c.rcd i + 32 * z)
  | _ => []

/-- A running command of the core writes bytes that this one would read (R228). -/
def writerRuns (s : State) (core : Nat) (c : Cmd) : Bool :=
  let rs := readsSpad s core c
  (List.range 4).any fun i => (s.quad (4 * core + i)).queue.any fun x =>
    x.stage = .running && (writesSpad core x).any fun w => rs.any fun r => w.1 < r.1 + r.2 && r.1 < w.1 + w.2

/-- The effect of mfmt and mzero (R231). -/
def clearAccs (qd : Quad) (c : Cmd) : Quad :=
  let qd := c.accs.foldl (fun qd t => { setAcc qd t (fun _ _ => 0) with accBad := qd.accBad.del t }) qd
  if c.fn = 0 then
    { qd with accFmt := c.accs.foldl (fun f t => if wbit (rword c.rcd 0) 3 then f.put t 1 else f.del t) qd.accFmt }
  else qd

/-- A command starts to run. -/
def startCmd (s : State) (q : Nat) (c : Cmd) : State := setCmd s q { c with stage := .running }

/-- The checks and effects of the issue of a command that may issue, by its fn3. The order of an MLOOP's checks and of an MST's is
the model's (log 21). -/
def issueCmd (s : State) (q : Nat) (c : Cmd) : State :=
  let core := q / 4
  let qd := s.quad q
  let fail (f : FaultAt) : State := faultCmd s q c f
  let align (a n : Nat) (w : Bool) : FaultAt := { code := code.align, w := w, sz := log2size n, va := a }
  match c.fn with
  | 0 | 3 => startCmd (s.setQuad q (clearAccs qd c)) q c
  | 1 => match readFb s c.u (rword c.rcd 7).toNat with
      | .error f => fail f
      | .ok fb =>
        let e := kindBytes (half.kind (fbHalf fb 1))
        let a := wldAddr c.rcd e 0 0 0
        if a % e ≠ 0 then fail (align a e false) else startCmd s q { c with fb := fb }
  | 2 => match c.cb with
    | some n =>
      match readFb s c.u (rword c.rcd 6).toNat, (s.core core).cbs.find? n with
      | .error f, _ => fail f
      | .ok _, none => fail { code := code.cbState }
      | .ok fb, some b =>
        if (List.range b.nslot).any fun k => sliceOwner s core ((b.tile0 + k) / 256) ≠ c.u.part then fail { code := code.spadOwner }
        else if half.sc (fbHalf fb 0) && 2 ^ half.blk (fbHalf fb 0) > depth (half.kind (fbHalf fb 0)) then fail { code := code.mtxFmt }
        else startCmd s q { c with fb := fb }
    | none =>
      let t := wfield (rword c.rcd 0) 9 0
      let x := tileAt s core t
      if sliceOwner s core (t / 256) ≠ c.u.part then fail { code := code.spadOwner }
      else if x.state ≠ 2 then fail { code := code.tileState }
      else match readFb s c.u (rword c.rcd 6).toNat with
        | .error f => fail f
        | .ok fb =>
          startCmd (setTile s core t { x with readers := x.readers + 1 }) q { c with fb := fb, reads := [t] }
  | 4 =>
    let z := if accIs64 qd (wfield (rword c.rcd 3) 2 0) then 8 else 4
    if (rowAddr c.rcd 0) % z ≠ 0 || (rword c.rcd 2).toNat % z ≠ 0 then fail (align (rowAddr c.rcd 0) z false)
    else startCmd s q c
  | _ =>
    let z := mstBytes c.rcd
    if (mstCompanion c.rcd).any fun t => accIs64 qd t then fail { code := code.accFmt }
    else if (rowAddr c.rcd 0) % z ≠ 0 || (rword c.rcd 2).toNat % z ≠ 0 then fail (align (rowAddr c.rcd 0) z true)
    else startCmd s q c


/-- mzero and mfmt retire (R231). -/
def execMzeroMfmtRetire (quad : Nat) (s : State) : Out :=
  .next <| match (s.quad quad).queue.find? fun c => c.stage = .running && (c.fn = 0 || c.fn = 3) with
  | none => s
  | some c => retireCmd s quad c false 0

/-- A command of a band that is saved stops where it is; its tile has a reader less. -/
def suspendCmd (s : State) (q : Nat) (c : Cmd) : State :=
  modRef (setCmd (dropReaders s (q / 4) c.reads) q { c with stage := .suspended, reads := [] }) c.ref
    fun b => { b with suspended := b.suspended ++ [c.seq] }

/-- One step, image or row more; the command retires after its last, and stops here while its band is saved (R251). -/
def cmdDone (s : State) (q : Nat) (c : Cmd) (total : Nat) : State :=
  let c := { c with done := c.done + 1 }
  let s := setCmd s q c
  if c.done = total then retireCmd s q c false 0
  else if (s.slotOf? c.ref).any fun n => (s.bands.find? n).any (·.stopped) then suspendCmd s q c
  else s

/-- The pieces of the source that the blocks of an image are read from: each block's scale, and its elements unless it is elided
(R59). -/
def imageRuns (c : Cmd) (h : List Word) (step : Nat) (bs : List (Nat × Nat × SagBlock)) : List (Nat × Nat) :=
  let n := blockLen h * kindBytes (half.kind h)
  bs.flatMap fun x =>
    (if half.sc h then
      [((half.scale h + x.1 * half.srs h + (step * depth (half.kind h) + x.2.1 * blockLen h) / 2 ^ half.blk h) % 2 ^ 48, 1)] else [])
    ++ if x.2.2.elems.isNone then [] else lineRuns n (wldAddr c.rcd (kindBytes (half.kind h)) step x.1 (x.2.1 * blockLen h)) n

/-- The next image of a WLD (R235). -/
def runImage (s : State) (q : Nat) (c : Cmd) : State :=
  let h := fbHalf c.fb 1
  let pos := (List.range 32).flatMap fun j => (List.range (blockCount h)).map fun b => (j, b)
  let n := depth (half.kind h) * kindBytes (half.kind h)
  if portsDown s c.u ((List.range 32).flatMap fun j => lineRuns n (wldAddr c.rcd 1 c.done j 0) n) then s
  else match readBlocksOf s c h c.done (blockLen h) pos with
  | .error f => faultCmd s q c f
  | .ok raw => match compress h raw with
    | none => faultCmd s q c { code := code.mtxSparse }
    | some bs =>
      let l := imageLength h bs
      let o := (rword c.rcd 4).toNat + c.done * (rword c.rcd 5).toNat
      if l > (rword c.rcd 5).toNat || o + l > 0x40000 then faultCmd s q c { code := code.saggarRange }
      else
        let s := s.setQuad q (putImage (s.quad q) o (makeImage h (l / 64) bs))
        let s := touchAt s c.u c.ref (imageRuns c h c.done raw)
        cmdDone (charge s c.u.part c.ref 10 ((l + 127) / 128)) q c (rword c.rcd 6).toNat

/-! ## MLOOP (R239 to R242) -/

/-- The A operand of a step: the tile it lies in, its first byte, its K offset for scales. -/
structure StepA where
  tile : Tile
  base : Nat
  off  : Int
  k0   : Nat
  deriving DecidableEq, Repr

/-- Reads bytes of the A tile, which must lie within it (R240). -/
def readTile (s : State) (a : StepA) (off : Int) (n : Nat) : Except FaultAt Nat :=
  if off < 0 || off + n > 16 * a.tile.len then .error { code := code.tileBound }
  else
    let g := a.base + off.toNat
    match spadPoisoned? s g n with
    | some x => .error { code := code.memPoison, d := poisonDetail (x % Config.spadBytes) 1 }
    | none => .ok (s.spad.num g n)

/-- Element k of row i of A, none in an elided block. -/
def elemA (s : State) (h : List Word) (a : StepA) (i k : Nat) : Except FaultAt (Option FVal) :=
  let t := kindFmt (half.kind h) (half.desc h)
  let e := kindBytes (half.kind h)
  let sc : Except FaultAt (Option Byte) :=
    if half.sc h then
      (readTile s a (half.scale h + i * half.srs h + (a.k0 + k) / 2 ^ half.blk h : Nat) 1).map fun x => some (BitVec.ofNat 8 x)
    else .ok none
  match sc with
  | .error f => .error f
  | .ok (some 0x80) => .ok none
  | .ok b => (readTile s a (a.off + k * e) e).map fun x => scaled t x b

/-- The elements of a row. -/
def rowA (s : State) (h : List Word) (a : StepA) (i : Nat) : List Nat → Except FaultAt (List (Option FVal))
  | [] => .ok []
  | k :: ks => match elemA s h a i k with
    | .error f => .error f
    | .ok x => match rowA s h a i ks with
      | .error f => .error f
      | .ok xs => .ok (x :: xs)

/-- The rows of A; row i starts i × ARS bytes on. -/
def rowsA (s : State) (h : List Word) (a : StepA) (ars : Nat) : List Nat → Except FaultAt (List (List (Option FVal)))
  | [] => .ok []
  | i :: is => match rowA s h { a with off := a.off + (i * ars : Nat) } i (List.range (depth (half.kind h))) with
    | .error f => .error f
    | .ok r => match rowsA s h a ars is with
      | .error f => .error f
      | .ok rs => .ok (r :: rs)

/-- Column j of an image (R235, R237). -/
def columnB (img : SagImage) (j : Nat) : List (Option FVal) :=
  let n := depth img.kind
  let t := kindFmt img.kind img.desc
  (List.range n).map fun k =>
    scaled t (img.elems.getD (n * j + k) 0).toNat (if img.scaled then some (img.scales.getD (16 * j + k / img.blk) 0) else none)

/-- The accumulator after a step (R70, R71). -/
def stepAcc (qd : Quad) (t kind : Nat) (rows : List (List (Option FVal))) (img : SagImage) : Quad :=
  let ty := accType qd t
  let cols := (List.range 32).map (columnB img)
  let f := if kindBytes kind ≤ 2 then stepNarrow ty else stepWide ty
  setAcc qd t fun i j => f (accCode qd t i j) (rows.getD i []) (cols.getD j [])

/-- The A input of the next step: the tile, or the current slot of the buffer, if a record is there. -/
def stepInput (s : State) (core : Nat) (c : Cmd) : Option StepA :=
  let kst := depth (half.kind (fbHalf c.fb 0))
  match c.cb with
  | none =>
    let t := wfield (rword c.rcd 0) 9 0
    let x := tileAt s core t
    some { tile := x, base := tileBase core t x, off := (c.done : Int) * (rword c.rcd 2).toInt, k0 := c.done * kst }
  | some n => match (s.core core).cbs.find? n with
    | none => none
    | some b =>
      if b.available = 0 then none
      else
        let t := b.tile0 + b.cp.toNat % b.nslot
        let x := tileAt s core t
        some { tile := x, base := tileBase core t x, off := 0, k0 := 0 }

/-- Energy weight of a step (R440). -/
def stepWeight (kind : Nat) : Nat := match kindBytes kind with | 1 => 6 | 2 => 7 | 4 => 8 | _ => 9

/-- The fault of a step that needs no A operand: the image and the formats (R233, R238, R242). -/
def stepFault (qd : Quad) (c : Cmd) : Except FaultAt SagImage :=
  let o : Int := ((rword c.rcd 3).toNat : Int) + c.done * (rword c.rcd 4).toInt
  if o < 0 || o > 0x3FFC0 then .error { code := code.saggarRange }
  else match qd.images.find? o.toNat with
    | none => .error { code := code.saggarImage }
    | some img =>
      if img.bad then .error { code := code.memPoison, d := poisonDetail o.toNat 0 }
      else
      let ka := half.kind (fbHalf c.fb 0)
      if kindBytes ka ≠ kindBytes img.kind then .error { code := code.mtxFmt }
      else if ka = 4 && !accIs64 qd (wfield (rword c.rcd 5) 18 16) then .error { code := code.accFmt }
      else .ok img

/-- The words of scratchpad of one clock of an A fetch (R342): of the 64 halves of the 32 rows of 256 bytes, that with number k. The words
of elided blocks are not fetched (R59). -/
def fetchWords (s : State) (h : List Word) (a : StepA) (ars k : Nat) : List (Nat × Nat) :=
  let e := kindBytes (half.kind h)
  let i := k / 2
  let elided (w : Nat) : Bool :=
    half.sc h && (match readTile s a (half.scale h + i * half.srs h + (a.k0 + 16 * w / e) / 2 ^ half.blk h : Nat) 1 with
      | .ok x => x = 0x80
      | .error _ => false)
  (((List.range 8).map (8 * (k % 2) + ·)).filter fun w => !elided w).flatMap fun w =>
    spadWords (a.base + (a.off + (i * ars + 16 * w : Nat)).toNat) 16

/-- The A rows of a step that lie in another quadrant's slice are fetched as beats of that slice (R342, R343). -/
def fetchRows (s : State) (q : Nat) (h : List Word) (a : StepA) (ars : Nat) : State :=
  if a.base / Config.sliceBytes = q then s
  else (List.range 64).foldl (fun s k => sendBeat s (q / 4) (q % 4) (clockOf s (q / 32) + k) (fetchWords s h a ars k)) s

/-- A command reads a poisoned accumulator (R358): its band's launch is killed, or its graph takes the fault. The detail's address is free
(log 37). -/
def meetsPoison (s : State) (q : Nat) (c : Cmd) : State :=
  let (x, s) := s.draw
  let (y, s) := s.draw
  match c.firing with
  | some _ => faultCmd s q c { code := code.memPoison, d := [x, y, 0] }
  | none => poisonKills s c.ref [x, y, 0]

/-- One step of a command. -/
def runStep (s : State) (q : Nat) (c : Cmd) : State :=
  let qd := s.quad q
  let h := fbHalf c.fb 0
  match stepFault qd c, stepInput s (q / 4) c with
  | .error f, _ => faultCmd s q c f
  | .ok _, none => s
  | .ok img, some a =>
    if qd.accBad.has (wfield (rword c.rcd 5) 18 16) then meetsPoison s q c
    else match rowsA s h a (rword c.rcd 1).toNat (List.range 32) with
    | .error f => faultCmd s q c f
    | .ok rows =>
      let s := fetchRows (s.setQuad q (stepAcc qd (wfield (rword c.rcd 5) 18 16) (half.kind h) rows img)) q h a (rword c.rcd 1).toNat
      let k := s.core (q / 4)
      let s := match c.cb with
        | none => s
        | some n => s.setCore (q / 4) { k with cbs := k.cbs.adjust n fun b => { b with cp := b.cp + 1 } }
      cmdDone (charge s c.u.part c.ref (stepWeight (half.kind h)) 1) q c (wfield (rword c.rcd 5) 15 0)

/-- A step can run or fault now: it waits only for a buffer's record. -/
def stepReady (s : State) (q : Nat) (c : Cmd) : Bool :=
  c.stage = .running && c.fn = 2
  && (match stepFault (s.quad q) c with | .error _ => true | .ok _ => (stepInput s (q / 4) c).isSome)

/-- The banks of its own slice from which a quadrant's matrix unit fetches in this clock: of 8 consecutive words of one row of the A
tile of the step that could run (R342, R343). Which ones goes with the clock (log 10). -/
def aFetch (s : State) (q : Nat) : List (Nat × Nat) :=
  match (s.quad q).queue.find? (stepReady s q) with
  | none => []
  | some c => match stepInput s (q / 4) c with
    | none => []
    | some a =>
      if a.base / Config.sliceBytes ≠ q then []
      else
        (fetchWords s (fbHalf c.fb 0) a (rword c.rcd 1).toNat (clockOf s (q / 32) % 64)).map fun e => (e.1 % 4, e.2 % 17)

/-! ## The order in which the two units start (R229) -/

/-- A posted command may issue: its predecessors have retired, the orders of R228 allow it, its unit is free, and its tile
is not filling (R227, R240). -/
def mayIssue (s : State) (q : Nat) (c : Cmd) : Bool :=
  c.stage = .posted && c.preds.isEmpty && c.after.isEmpty
  && !(if c.fn = 1 || c.fn = 4 || c.fn = 5 then transferBusy (s.quad q) else matrixBusy (s.quad q))
  && !writerRuns s (q / 4) c
  && !(c.fn = 2 && c.cb.isNone && (tileAt s (q / 4) (wfield (rword c.rcd 0) 9 0)).state = 1
    && sliceOwner s (q / 4) (wfield (rword c.rcd 0) 9 0 / 256) = c.u.part)

/-- What a unit could start now: a command that may issue, or the next step or image of one that runs. -/
def mayStart (s : State) (q : Nat) (c : Cmd) : Bool :=
  mayIssue s q c || stepReady s q c || (c.stage = .running && c.fn = 1)

/-- No command posted earlier could start on the same unit (R229). -/
def unitTurn (s : State) (q : Nat) (c : Cmd) : Bool :=
  let path (x : Cmd) : Bool := x.fn = 1 || x.fn = 4 || x.fn = 5
  !(((s.quad q).queue.takeWhile fun x => x.seq ≠ c.seq).any fun x => path x = path c && mayStart s q x)

/-- A posted command issues once it may and its unit has no older one to start (R227 to R229). -/
def execMatrixCommandIssue (quad index : Nat) (s : State) : Out :=
  .next <| match (s.quad quad).queue[index]? with
  | none => s
  | some c => if mayIssue s quad c && unitTurn s quad c then issueCmd s quad c else s

/-- The matrix unit runs a step of the oldest command that may (R229). -/
def execMloopStep (quad : Nat) (s : State) : Out :=
  .next <|
  if matrixBusy (s.quad quad) then s
  else match (s.quad quad).queue.find? (stepReady s quad) with
  | none => s
  | some c => if unitTurn s quad c then runStep s quad c else s

/-- The step of a WLD that loads one image (R235), of the oldest command that runs. -/
def execWldImage (quad : Nat) (s : State) : Out :=
  .next <|
  if transferBusy (s.quad quad) then s
  else match (s.quad quad).queue.find? fun c => c.stage = .running && c.fn = 1 with
  | none => s
  | some c => if unitTurn s quad c then runImage s quad c else s

/-! ## MLD and MST (R243 to R245) -/

/-- MLD: all 32 rows are read before the tile is written. -/
def execMldTransfer (quad : Nat) (s : State) : Out :=
  .next <|
  let qd := s.quad quad
  match qd.queue.find? fun c => c.stage = .running && c.fn = 4 with
  | none => s
  | some c =>
    let t := wfield (rword c.rcd 3) 2 0
    let z := if accIs64 qd t then 8 else 4
    let runs := (List.range 32).flatMap fun i => lineRuns (32 * z) (rowAddr c.rcd i) (32 * z)
    if portsDown s c.u runs then s
    else match readAll s c.u z ((List.range 1024).map fun k => (k, (rowAddr c.rcd (k / 32) + k % 32 * z) % 2 ^ 48)) with
    | .error f => faultCmd s quad c f
    | .ok xs =>
      let s := s.setQuad quad { setAcc qd t (fun i j => ((xs[32 * i + j]?).getD (0, 0)).2) with accBad := qd.accBad.del t }
      let s := touchAt s c.u c.ref runs
      retireCmd (charge s c.u.part c.ref 10 (8 * z)) quad c false 0

/-- The places of a row's elements with their kinds, each checked for a write of its own bytes. -/
def rowPlaces (s : State) (u : Issuer) (z a : Nat) : Nat → Except FaultAt (List (Loc × Nat))
  | 0 => .ok []
  | n + 1 => match access s u (a % 2 ^ 48) (.write z) false with
    | .error f => .error f
    | .ok l => match rowPlaces s u z (a + z) n with
      | .error f => .error f
      | .ok ls => .ok (l :: ls)

/-- The delivered code and the new companion of one element (R245). -/
def mstElement (qd : Quad) (c : Cmd) (i j : Nat) : Nat × Nat :=
  let t := wfield (rword c.rcd 3) 2 0
  let x := fdecode (accCode qd t i j) (accType qd t)
  let d := mstFmt c.rcd
  match mstCompanion c.rcd with
  | some k => errorFeedback x (accCode qd k i j % 2 ^ 32) d false
  | none => (fround x d (mr.rounding c.mr) false, 0)

/-- A row of an MST would change bytes of a ready tile that has readers: it waits (R208, R228). -/
def rowWaits (s : State) (c : Cmd) : Bool :=
  match rowPlaces s c.u (mstBytes c.rcd) (rowAddr c.rcd c.done) 32 with
  | .error _ => false
  | .ok ls => ls.any fun l => busyLoc s (mstBytes c.rcd) l.1

/-- The row of an MST: it is written whole, and its companion row with it. A command that faults here retires once what it has written
is complete: its fault waits until other devices have acknowledged the rows before (R224). -/
def runRow (s : State) (q : Nat) (c : Cmd) : State :=
  let z := mstBytes c.rcd
  let i := c.done
  match rowPlaces s c.u z (rowAddr c.rcd i) 32 with
  | .error f => if owes s c.seq then s else faultCmd s q c f
  | .ok ls =>
    if ls.any fun l => busyLoc s z l.1 then s
    else if (accsOf 5 c.rcd).any (s.quad q).accBad.has then meetsPoison s q c
    else
      let out := (List.range 32).map (mstElement (s.quad q) c i)
      let s := owedBy s (writeMany s c.u c.ref ((ls.zip out).map fun e => (e.1.1, leBytes z e.2.1, e.1.2))) c.seq
      let qd := s.quad q
      let s := match mstCompanion c.rcd with
        | none => s
        | some k => s.setQuad q (setAcc qd k fun r j => if r = i then (out.getD j (0, 0)).2 else accCode qd k r j)
      let s := touch s c.u c.ref (ls.map fun l => (l.1, z))
      let s := charge s c.u.part c.ref 10 ((32 * z + 127) / 128)
      if i < 31 || !owes s c.seq then cmdDone s q c 32 else setCmd s q { c with done := 32 }

/-- An MST that has written its rows retires when other devices have acknowledged them (R224); else the one that runs
writes its next row. -/
def execMstRow (quad : Nat) (s : State) : Out :=
  .next <|
  match (s.quad quad).queue.find? fun c => c.stage = .running && c.fn = 5 && c.done = 32 && !owes s c.seq with
  | some c => retireCmd s quad c false 0
  | none => match (s.quad quad).queue.find? fun c => c.stage = .running && c.fn = 5 && c.done < 32 with
    | none => s
    | some c => runRow s quad c

/-! ## Suspension (R251) -/

/-- A unit of a command is under way: the one that its unit of the quadrant is busy with. A command that waits to start a
step, image or row, for a record, for a slot or for its turn, has none (R251). -/
def unitRuns (s : State) (q : Nat) (c : Cmd) : Bool :=
  c.stage = .running && match c.fn with
    | 0 | 3 => true
    | 1 => !transferBusy (s.quad q) && unitTurn s q c
    | 2 => !matrixBusy (s.quad q) && stepReady s q c && unitTurn s q c
    | 4 => false
    | _ => c.done = 32 || !rowWaits s c

/-- Quiescence (R251): a command with no unit under way is suspended at once, a running MLD is abandoned; a unit under way
goes on to its end. -/
def quiesce (s : State) (q : Nat) (r : BandRef) : State :=
  ((commandsOf s q r).filter fun c => c.stage ≠ .suspended && !unitRuns s q c).foldl (fun s c => suspendCmd s q c) s

/-- A resumed band posts its commands again, in their order. -/
def repostAll (s : State) (q : Nat) (r : BandRef) : State :=
  let s := (commandsOf s q r).foldl (fun s c => if c.stage = .suspended then setCmd s q { c with stage := .posted } else s) s
  modRef s r fun b => { b with suspended := [] }

/-- The clocks that a unit waits for its operand bytes once its band is to be saved. -/
def abandonClocks : Nat := 4000

/-- A unit whose operand bytes have not come 4,000 clocks after the pre-emption signal is abandoned (R251). -/
def execMatrixOperandAbandon (quad index : Nat) (s : State) : Out :=
  .next <| match (s.quad quad).queue[index]? with
  | none => s
  | some c => match s.slotOf? c.ref with
    | none => s
    | some n =>
      let since := ((s.bands.find? n).bind (·.preAt)).map fun t => (s.cluster (clusterOf n)).clk.toNat - t
      if c.stage = .running && (since.any fun k => abandonClocks ≤ k) then suspendCmd s quad c else s

end Sys2Proof.Machine
end

