-- ==== Sys2Proof/Machine/Forms.lean ====
section
/-!
DEFINITION. What the issue of a form depends on: its group (R80), its pipe (R285), its energy weight (R440), the registers
that it reads and how long its results take (R289), and the accesses that it makes (R300). A register key is r for scalar
register r and 128 + v for vector register v. Forms that have none of these, and the steps without a word, fall under the
last arm of each table.
-/
namespace Sys2Proof.Machine

/-- The groups of R80, the prefixes, and the steps of the machine that have no word. -/
inductive Group where
  | sys | br | salu | salui | sli | band | valu | valui | vfp | vsf | vcvt | vlane | vcmp | ld | st | fld | fst | fla
  | smem | atom | copy | tile | fence | mtx | lnch | pre | step
  deriving DecidableEq, Repr

def group (i : Instr) : Group :=
  match i with
  | .nop | .trap _ | .tret | .mode _ | .modei _ _ | .fmtset _ _ | .fmtget _ _ | .mfsr _ _ | .mtsr _ _ | .rwp _ _
  | .brk _ | .caps _ _ => .sys
  | .br _ | .bz _ _ | .bnz _ _ | .bneg _ _ | .bnneg _ _ | .call _ | .pbr _ _ _ | .jr _ | .jl _ | .ret => .br
  | .add _ _ _ | .sub _ _ _ | .mul24 _ _ _ | .mul _ _ _ | .mulh _ _ _ | .mulhn _ _ _ | .and _ _ _ | .or _ _ _
  | .xor _ _ _ | .andn _ _ _ | .orn _ _ _ | .sll _ _ _ | .srl _ _ _ | .sra _ _ _ | .rol _ _ _ | .ror _ _ _
  | .min _ _ _ | .max _ _ _ | .minn _ _ _ | .maxn _ _ _ | .slt _ _ _ | .sltn _ _ _ | .eq _ _ _ | .popc _ _
  | .clz _ _ | .ctz _ _ | .brev _ _ | .bswap _ _ | .sxb _ _ | .sxh _ _ | .zxb _ _ | .zxh _ _ => .salu
  | .addi _ _ _ | .andi _ _ _ | .ori _ _ _ | .xori _ _ _ | .slti _ _ _ | .sltni _ _ _ | .slli _ _ _ | .srli _ _ _
  | .srai _ _ _ | .rori _ _ _ | .muli _ _ _ => .salui
  | .sli _ _ | .slu _ _ => .sli
  | .join _ | .leave | .gbar | .regroup | .rcv | .voteAny _ _ | .voteAll _ _ | .voteCnt _ _ | .voteBal _ _ | .lid _
  | .tid _ | .bid _ => .band
  | .vadd _ _ _ | .vsub _ _ _ | .vmul24 _ _ _ | .vmul32 _ _ _ | .vmulh32 _ _ _ | .vmulhn32 _ _ _ | .vand _ _ _
  | .vor _ _ _ | .vxor _ _ _ | .vandn _ _ _ | .vsll _ _ _ | .vsrl _ _ _ | .vsra _ _ _ | .vrol _ _ _ | .vmin _ _ _
  | .vmax _ _ _ | .vabsd _ _ _ | .vpopc _ _ | .vclz _ _ | .vctz _ _ | .vbrev _ _ | .vsel _ _ _ | .vmov _ _ => .valu
  | .vaddi _ _ _ | .vmuli24 _ _ _ | .vandi _ _ _ | .vori _ _ _ | .vxori _ _ _ | .vslli _ _ _ | .vsrli _ _ _
  | .vsrai _ _ _ | .vmini _ _ _ | .vmaxi _ _ _ | .vmovi _ _ => .valui
  | .vfadd _ _ _ | .vfsub _ _ _ | .vfmul _ _ _ | .vfma _ _ _ | .vfms _ _ _ | .vfnma _ _ _ | .vfmin _ _ _
  | .vfmax _ _ _ | .vfabs _ _ | .vfneg _ _ | .vfcpys _ _ _ | .vfclass _ _ | .vfrnd _ _ => .vfp
  | .vrcp _ _ _ | .vrsq _ _ _ | .vsqrt _ _ _ | .vdiv _ _ _ | .vexp2 _ _ _ | .vlog2 _ _ _ | .vsin _ _ _
  | .vcos _ _ _ | .vtanh _ _ _ => .vsf
  | .vcvt _ _ _ | .vcvtef _ _ _ | .vcvti _ _ _ | .vcvtf _ _ _ | .vpk _ _ _ | .vupk _ _ _ | .vscale _ _ _ => .vcvt
  | .vbs _ _ | .vrd _ _ _ | .vwr _ _ _ | .vshfl _ _ _ | .vshfx _ _ _ | .vrot _ _ _ | .vredadd _ _ | .vredmin _ _
  | .vredmax _ _ | .vredminx _ _ _ | .vredmaxx _ _ _ | .vscan _ _ | .vredand _ _ | .vredor _ _ | .vredxor _ _ => .vlane
  | .vcmp _ _ _ _ _ | .vcmpn _ _ _ _ _ | .vfcmp _ _ _ _ _ | .vfcmpn _ _ _ _ _ => .vcmp
  | .ldb _ _ _ _ | .ldbs _ _ _ _ | .ldh _ _ _ _ | .ldhs _ _ _ _ | .ldw _ _ _ _ | .ldd _ _ _ _ | .ldq _ _ _ _
  | .lds _ _ _ _ | .ldx _ _ _ _ | .ldwAcq _ _ _ _ | .lddAcq _ _ _ _ | .ldsAcq _ _ _ _ => .ld
  | .stb _ _ _ _ | .sth _ _ _ _ | .stw _ _ _ _ | .std _ _ _ _ | .stq _ _ _ _ | .sts _ _ _ _ | .stx _ _ _ => .st
  | .fld _ _ _ _ => .fld
  | .fst _ _ _ _ => .fst
  | .fla _ _ _ => .fla
  | .spat _ _ | .sld _ _ _ | .sst _ _ | .sreset _ => .smem
  | .aadd _ _ _ _ | .aaddNr _ _ _ _ | .amin _ _ _ _ | .aminNr _ _ _ _ | .amax _ _ _ _ | .amaxNr _ _ _ _
  | .aminn _ _ _ _ | .aminnNr _ _ _ _ | .amaxn _ _ _ _ | .amaxnNr _ _ _ _ | .aand _ _ _ _ | .aandNr _ _ _ _
  | .aor _ _ _ _ | .aorNr _ _ _ _ | .axor _ _ _ _ | .axorNr _ _ _ _ | .axchg _ _ _ _ | .axchgNr _ _ _ _
  | .acas _ _ _ _ | .acasNr _ _ _ _ | .ainc _ _ _ _ | .aincNr _ _ _ _ | .afadd _ _ _ _ | .afaddNr _ _ _ _ => .atom
  | .cpy4 _ _ _ | .cpy8 _ _ _ | .cpy16 _ _ _ | .cpt _ _ _ | .cpz _ _ | .cntadd _ _ | .cntw _ _ | .cntrd _ _ => .copy
  | .tdef _ | .tfill _ | .tcommit _ | .tdrain _ | .trel _ | .tstate _ _ | .tstAon _ _ | .tldVer _ _ _ | .cbdef _ _
  | .cbpush _ _ | .cbpop _ _ | .cbwait _ _ _ | .cbpeek _ _ _ => .tile
  | .fence _ _ | .pfence _ _ | .swrel _ _ | .swacq _ _ => .fence
  | .mfmt _ _ _ _ | .wld _ _ _ _ | .mloop _ _ _ _ | .mzero _ _ _ _ | .mld _ _ _ _ | .mst _ _ _ _ | .mwait _
  | .mquery _ _ => .mtx
  | .launch _ _ | .lwait _ _ | .exit | .dsp _ _ | .gbind _ _ _ | .gstart _ | .gstop _ _ | .grebind _ _ _
  | .qput _ _ => .lnch
  | .rep _ _ | .limm _ => .pre
  | .gbarUnblock _ _ | .regroupTimeout _ | .fusionComplete _ _ | .resultArrival _ _ | .cntwWake _ _
  | .cbwaitWake _ _ | .swacqWake _ _ | .lwaitWake _ _ | .mwaitWake _ _ | .tcommitWake _ _ | .trelWake _ _
  | .tstAonOpenWake _ _ | .tstAonCloseWake _ _ | .tldVerWake _ _ | .tileStoreWake _ _ | .tornBracketClose _ _
  | .launchWaitWake _ _ | .qputWaitWake _ _ | .mtxPostWake _ _ | .gbindAnswer _ _ | .gstopWaitWake _ _
  | .matrixCommandIssue _ _ | .mloopStep _ | .wldImage _ | .mstRow _ | .mldTransfer _ | .matrixOperandAbandon _ _
  | .copyLineOperation _ | .tileCopyLine _ | .czPack _ | .czExpandCheck _ | .czExpandLine _ _
  | .atomicRequestAccept _ | .hotStoreFill _ _ | .pageWalkFill _ _ | .eccReadRetry _ | .cacheLineExpiry _ _
  | .remoteLineExpiry _ _ | .bandwidthWindow _ | .leaseBoundary _ | .logReplay _ _ | .faultRecordWrite _
  | .launchQueueDoorbell _ _ _ | .queueRecordSkip _ _ | .queueRecordLaunch _ _ | .queueRecordTemplate _ _
  | .queueRecordTaskQueue _ _ | .bindStart _ _ | .bindRestore _ _ | .bindPreempt _ _ | .bindInvalid _ _
  | .preemptAtBoundary _ | .boundarySave _ | .resultRedirect _ | .saveComplete _ | .restoreComplete _
  | .drainReport _ _ | .launchCompletion _ | .deadlineWorkExpiry _ | .taskDispatch _ _ | .graphFiringStart _ _
  | .graphFiringEnd _ _ _ | .graphAllowExpiry _ _ _ | .faultDoorbellReplay _ _ | .faultDoorbellDeliver _ _
  | .faultDoorbellKill _ _ | .faultDoorbellIgnore _ _ | .create _ _ | .createInitDone _ | .destroy _ | .update _
  | .shootdown _ | .shootdownAck _ | .propose _ | .accept _ _ | .close _ | .attest _ | .life _ | .kilnBadOp _
  | .loadCodeObject _ | .hostMemoryRead _ _ _ | .hostMemoryWrite _ _ _ | .registerWrite _ _ | .powerLimitSet _
  | .warmReset | .coldReset | .devsetLock _ | .isoWrite _ _ | .collectiveSlotConsume _ | .collectiveComplete _
  | .collectiveTimeout _ | .remoteRequest _ | .remoteAck _ | .flitReceive _ _ | .portSilenceTimeout _
  | .idleFlitTimer _ | .powerEstimateWindow _ | .idleTimeout | .thermalAlarm | .thermalTrip
  | .illegalInstructionWord _ | .arithmeticClock | .mzeroMfmtRetire _ | .thermalStateEnd | .portUp _ => .step

/-! ## Pipes (R285) -/

/-- The pipe that a form holds: 0 S, 1 V, 2 F, 3 M. -/
def pipeOf (i : Instr) : Nat :=
  match i with
  | .lid _ | .tid _ => 1
  | .lds _ _ _ _ | .ldsAcq _ _ _ _ | .sts _ _ _ _ => 0
  | .sld _ _ _ | .sst _ _ | .cpy4 _ _ _ | .cpy8 _ _ _ | .cpy16 _ _ _ | .qput _ _ => 3
  | _ => match group i with
    | .valu | .valui | .vfp | .vcvt | .vlane | .vcmp => 1
    | .vsf => 2
    | .ld | .st | .atom => 3
    | .sys | .br | .salu | .salui | .sli | .band | .fld | .fst | .fla | .smem | .copy | .tile | .fence | .mtx | .lnch
    | .pre | .step => 0

/-- The forms that multiply 32 by 32 bits on V. -/
def longMultiply (i : Instr) : Bool :=
  match i with
  | .vmul32 _ _ _ | .vmulh32 _ _ _ | .vmulhn32 _ _ _ => true
  | _ => false

/-- Clocks for which it holds the pipe. -/
def pipeClocks (f64 : Bool) (i : Instr) : Nat :=
  if longMultiply i then 12
  else match pipeOf i with
    | 0 => 1
    | 2 => if f64 then 24 else 12
    | _ => 3

/-- The weight that an issue is charged (R440). -/
def weightOf (f64 : Bool) (i : Instr) : Nat :=
  if longMultiply i then 3
  else match pipeOf i with
    | 0 => 0
    | 1 => if f64 && group i ≠ .band then 2 else 1
    | 2 => 4
    | _ => 5

/-- The long-latency forms (R84), which have a lookahead field. -/
def longLatency (i : Instr) : Bool :=
  match group i with
  | .vsf | .fld | .ld => true
  | .smem => (match i with | .sld _ _ _ => true | _ => false)
  | .atom => (match i with
  | .aaddNr _ _ _ _ | .aminNr _ _ _ _ | .amaxNr _ _ _ _ | .aminnNr _ _ _ _ | .amaxnNr _ _ _ _ | .aandNr _ _ _ _
  | .aorNr _ _ _ _ | .axorNr _ _ _ _ | .axchgNr _ _ _ _ | .acasNr _ _ _ _ | .aincNr _ _ _ _ | .afaddNr _ _ _ _ => false
    | _ => true)
  | _ => false

/-! ## Registers -/

def vecRegs (v n : Nat) : List Nat := (List.range n).map fun k => 128 + v + k

/-- The registers of an element operand, and of a scalar that carries an element. -/
def elemRegs (b : Band) (v : VReg) : List Nat := vecRegs v.val (if b.ty.is64 then 2 else 1)
def scalarRegs (b : Band) (r : SReg) : List Nat := if b.ty.is64 then [r.val, r.val + 1] else [r.val]
def predRegs (k : Nat) : List Nat := [36 + 3 * k, 37 + 3 * k, 38 + 3 * k]

/-- The registers that a form reads, but for its guard. -/
def sources (x : Band) (i : Instr) : List Nat :=
  match i with
  | .bz a _ | .bnz a _ | .bneg a _ | .bnneg a _ | .mode a | .fmtset _ a | .mtsr a _ | .jr a | .jl a | .join a
    => [a.val]
  | .ret => [1]
  | .rwp a n => (List.range ((n.val + 3) / 4)).map (a.val + ·)
  | .pbr _ p _ => predRegs p.val
  | .voteAny _ p | .voteAll _ p | .voteCnt _ p | .voteBal _ p => predRegs p.val
  | .add _ a b | .sub _ a b | .mul24 _ a b | .mul _ a b | .mulh _ a b | .mulhn _ a b | .and _ a b | .or _ a b
  | .xor _ a b | .andn _ a b | .orn _ a b | .sll _ a b | .srl _ a b | .sra _ a b | .rol _ a b | .ror _ a b
  | .min _ a b | .max _ a b | .minn _ a b | .maxn _ a b | .slt _ a b | .sltn _ a b | .eq _ a b => [a.val, b.val]
  | .popc _ a | .clz _ a | .ctz _ a | .brev _ a | .bswap _ a | .sxb _ a | .sxh _ a | .zxb _ a | .zxh _ a
  | .addi _ a _ | .andi _ a _ | .ori _ a _ | .xori _ a _ | .slti _ a _ | .sltni _ a _ | .slli _ a _ | .srli _ a _
  | .srai _ a _ | .rori _ a _ | .muli _ a _ => [a.val]
  | .slu d _ => [d.val]
  | .vadd _ a b | .vsub _ a b | .vmul24 _ a b | .vmul32 _ a b | .vmulh32 _ a b | .vmulhn32 _ a b | .vand _ a b
  | .vor _ a b | .vxor _ a b | .vandn _ a b | .vsll _ a b | .vsrl _ a b | .vsra _ a b | .vrol _ a b | .vmin _ a b
  | .vmax _ a b | .vabsd _ a b | .vfadd _ a b | .vfsub _ a b | .vfmul _ a b | .vfmin _ a b | .vfmax _ a b
  | .vfcpys _ a b => elemRegs x a ++ elemRegs x b
  | .vpopc _ a | .vclz _ a | .vctz _ a | .vbrev _ a | .vmov _ a | .vfabs _ a | .vfneg _ a | .vfclass _ a
  | .vfrnd _ a | .vaddi _ a _ | .vmuli24 _ a _ | .vandi _ a _ | .vori _ a _ | .vxori _ a _ | .vslli _ a _
  | .vsrli _ a _ | .vsrai _ a _ | .vmini _ a _ | .vmaxi _ a _ => elemRegs x a
  | .vupk _ a _ => [128 + a.val]
  | .vfma d a b | .vfms d a b | .vfnma d a b | .vsel d a b => elemRegs x d ++ elemRegs x a ++ elemRegs x b
  | .vrcp _ _ a | .vrsq _ _ a | .vsqrt _ _ a | .vexp2 _ _ a | .vlog2 _ _ a | .vsin _ _ a | .vcos _ _ a
  | .vtanh _ _ a => elemRegs x a
  | .vdiv _ d a => elemRegs x d ++ elemRegs x a
  | .vcvt _ a t | .vcvti _ a t | .vcvtf _ a t => vecRegs a.val (if t.val = 9 then 2 else 1)
  | .vcvtef _ a b => [128 + a.val, 128 + b.val]
  | .vpk d a b => (if x.ty.width ≤ 8 then [128 + d.val] else []) ++ [128 + a.val, 128 + b.val]
  | .vscale _ a b => elemRegs x a ++ [128 + b.val]
  | .vbs _ a => scalarRegs x a
  | .vwr _ a b => scalarRegs x a ++ [b.val]
  | .vrd _ a b | .vrot _ a b => elemRegs x a ++ [b.val]
  | .vshfl _ a b | .vshfx _ a b => elemRegs x a ++ [128 + b.val]
  | .vredadd _ a | .vredmin _ a | .vredmax _ a | .vredand _ a | .vredor _ a | .vredxor _ a | .vscan _ a
  | .vredminx _ a _ | .vredmaxx _ a _ => elemRegs x a
  | .vcmp _ p m a b | .vcmpn _ p m a b | .vfcmp _ p m a b | .vfcmpn _ p m a b
    => (if m = .set then [] else predRegs p.val) ++ elemRegs x a ++ elemRegs x b
  | .ldb _ _ a _ | .ldbs _ _ a _ | .ldh _ _ a _ | .ldhs _ _ a _ | .ldw _ _ a _ | .ldd _ _ a _ | .ldq _ _ a _
  | .ldwAcq _ _ a _ | .lddAcq _ _ a _ | .lds _ _ a _ | .ldsAcq _ _ a _ => pairOf a
  | .ldx _ v a _ => (128 + v.val) :: pairOf a
  | .stb _ v a _ | .sth _ v a _ | .stw _ v a _ => (128 + v.val) :: pairOf a
  | .std _ v a _ | .stx v a _ => vecRegs v.val 2 ++ pairOf a
  | .stq _ v a _ => vecRegs v.val 4 ++ pairOf a
  | .sts _ v a _ => v.val :: pairOf a
  | .fst _ _ v _ => [v.val]
  | .spat a _ => pairOf a
  | .sst v k => vecRegs v.val (if (x.streams.find? k.val).any fun r => r.rcd.esz = 3 then 2 else 1)
  | .acas _ v a _ | .acasNr _ v a _ => vecRegs v.val 3 ++ pairOf a
  | .aadd _ v a _ | .amin _ v a _ | .amax _ v a _ | .aminn _ v a _ | .amaxn _ v a _ | .aand _ v a _ | .aor _ v a _
  | .axor _ v a _ | .axchg _ v a _ | .ainc _ v a _ | .afadd _ v a _ | .aaddNr _ v a _ | .aminNr _ v a _
  | .amaxNr _ v a _ | .aminnNr _ v a _ | .amaxnNr _ v a _ | .aandNr _ v a _ | .aorNr _ v a _ | .axorNr _ v a _
  | .axchgNr _ v a _ | .aincNr _ v a _ | .afaddNr _ v a _ => vecRegs v.val 2 ++ pairOf a
  | .cpy4 d a c | .cpy8 d a c | .cpy16 d a c => vecRegs d.val 2 ++ vecRegs a.val 2 ++ pairOf c
  | .cpt t a c => t.val :: (pairOf a ++ pairOf c)
  | .cpz r c => pairOf r ++ pairOf c
  | .cntadd c v | .cntw c v => pairOf v ++ pairOf c
  | .cntrd _ c => pairOf c
  | .tdef a => pairOf a
  | .tfill t | .tcommit t | .tdrain t | .trel t | .tstate _ t => [t.val]
  | .cbdef t m => t.val :: pairOf m
  | .tstAon t m | .tldVer _ t m | .cbpush t m | .cbpop t m | .cbpeek _ t m => [t.val, m.val]
  | .cbwait b n m => [b.val, n.val, m.val]
  | .swrel w g | .swacq w g => g.val :: pairOf w
  | .mfmt _ _ _ r => recordRegs 0 r
  | .wld _ _ _ r => recordRegs 1 r
  | .mloop _ _ _ r => recordRegs 2 r
  | .mzero _ _ _ r => recordRegs 3 r
  | .mld _ _ _ r => recordRegs 4 r
  | .mst _ _ _ r => recordRegs 5 r
  | .launch _ r => (List.range 8).map (r.val + ·)
  | .lwait _ h | .gstart h => [h.val]
  | .gbind _ g b | .gstop g b | .grebind _ g b => [g.val, b.val]
  | .qput t q => [q.val] ++ vecRegs t.val 2
  | _ => []

/-- The forms that act on enabled lanes, and so read their guard (R13, R14). -/
def guarded (i : Instr) : Bool :=
  match i with
  | .voteAny _ _ | .voteAll _ _ | .voteCnt _ _ | .voteBal _ _ | .join _ | .leave | .gbar | .lid _ | .tid _ | .exit
  | .qput _ _ | .cpy4 _ _ _ | .cpy8 _ _ _ | .cpy16 _ _ _ | .sld _ _ _ | .sst _ _ => true
  | .lds _ _ _ _ | .ldsAcq _ _ _ _ | .sts _ _ _ _ => false
  | _ => match group i with
    | .valu | .valui | .vfp | .vsf | .vcvt | .vlane | .vcmp | .ld | .st | .atom => true
    | .sys | .br | .salu | .salui | .sli | .band | .fld | .fst | .fla | .smem | .copy | .tile | .fence | .mtx | .lnch
    | .pre | .step => false

/-- The activity mask is a source of the forms that act on active lanes (R11, R13), and of those that split or capture it. -/
def readsMask (i : Instr) : Bool :=
  guarded i || match i with
  | .pbr _ _ _ | .rwp _ _ => true
  | _ => false

/-- All the registers that a form reads. -/
def reads (b : Band) (i : Instr) : List Nat :=
  sources b i ++ (if guarded i && mr.gpe b.mr then predRegs (mr.gpi b.mr) else []) ++ (if readsMask i then [60, 61, 62] else [])

/-- The key under which a band's scoreboard holds the unit after a VSF form with LA = 0 (R84, R289). -/
def nextUnitKey (b : Band) : Nat := 256 + (if b.inTrap then 8 else 0) + b.ix

/-- Clocks from the issue of a VSF form to its retirement, with its registers (R166): the readers of a result with LA = 0, and the
path itself, wait for them. -/
def vsfTime (x : Band) (la : LA) (d : VReg) (f32 f64 : Nat) : Nat × List Nat :=
  if la.val = 0 then (if x.ty.is64 then f64 else f32, nextUnitKey x :: elemRegs x d) else (1, [])

/-- Clocks until the results of a form can be read, and the registers that this holds for (R289). -/
def resultTime (x : Band) (i : Instr) : Nat × List Nat :=
  match i with
  | .mul d _ _ | .mulh d _ _ | .mulhn d _ _ | .muli d _ _ => (4, [d.val])
  | .vmul32 d _ _ | .vmulh32 d _ _ | .vmulhn32 d _ _ => (12, elemRegs x d)
  | .lid d | .tid d | .vfclass d _ => (3, [128 + d.val])
  | .vadd d _ _ | .vsub d _ _ | .vmul24 d _ _ | .vand d _ _ | .vor d _ _ | .vxor d _ _ | .vandn d _ _ | .vsll d _ _
  | .vsrl d _ _ | .vsra d _ _ | .vrol d _ _ | .vmin d _ _ | .vmax d _ _ | .vabsd d _ _ | .vfadd d _ _
  | .vfsub d _ _ | .vfmul d _ _ | .vfmin d _ _ | .vfmax d _ _ | .vfcpys d _ _ | .vpopc d _ | .vclz d _ | .vctz d _
  | .vbrev d _ | .vmov d _ | .vfabs d _ | .vfneg d _ | .vfrnd d _ | .vaddi d _ _ | .vmuli24 d _ _ | .vandi d _ _
  | .vori d _ _ | .vxori d _ _ | .vslli d _ _ | .vsrli d _ _ | .vsrai d _ _ | .vmini d _ _ | .vmaxi d _ _
  | .vmovi d _ | .vfma d _ _ | .vfms d _ _ | .vfnma d _ _ | .vsel d _ _ | .vcvt d _ _
  | .vcvti d _ _ | .vcvtf d _ _ | .vpk d _ _ | .vupk d _ _ | .vscale d _ _ | .vbs d _ | .vwr d _ _ | .vshfl d _ _
  | .vshfx d _ _ | .vrot d _ _ => (3, elemRegs x d)
  | .vcvtef d _ b => (3, [128 + d.val, 128 + b.val])
  | .vrcp la d _ | .vrsq la d _ | .vsqrt la d _ | .vexp2 la d _ | .vlog2 la d _ => vsfTime x la d 24 48
  | .vdiv la d _ => vsfTime x la d 32 64
  | .vsin la d _ | .vcos la d _ | .vtanh la d _ => vsfTime x la d 40 88
  | .vrd d _ _ => (4, scalarRegs x d)
  | .vredadd d _ | .vredmin d _ | .vredmax d _ | .vredand d _ | .vredor d _ | .vredxor d _ => (11, scalarRegs x d)
  | .vredminx d _ i | .vredmaxx d _ i => (11, i.val :: scalarRegs x d)
  | .vscan d _ => (11, elemRegs x d)
  | .vcmp _ p _ _ _ | .vcmpn _ p _ _ _ | .vfcmp _ p _ _ _ | .vfcmpn _ p _ _ _ => (4, predRegs p.val)
  | _ => (1, [])

/-- The destination set of a form that a log entry can hold (R409). -/
def destsOf (x : Band) (i : Instr) : List Nat :=
  match i with
  | .ldb _ v _ _ | .ldbs _ v _ _ | .ldh _ v _ _ | .ldhs _ v _ _ | .ldw _ v _ _ | .ldx _ v _ _ | .ldwAcq _ v _ _
    => [128 + v.val]
  | .ldd _ v _ _ | .lddAcq _ v _ _ => vecRegs v.val 2
  | .ldq _ v _ _ => vecRegs v.val 4
  | .sld _ v k => vecRegs v.val (if (x.streams.find? k.val).any fun r => r.rcd.esz = 3 then 2 else 1)
  | .aadd _ v _ _ | .amin _ v _ _ | .amax _ v _ _ | .aminn _ v _ _ | .amaxn _ v _ _ | .aand _ v _ _ | .aor _ v _ _
  | .axor _ v _ _ | .axchg _ v _ _ | .acas _ v _ _ | .ainc _ v _ _ | .afadd _ v _ _ => [128 + v.val]
  | .lds _ d _ _ | .ldsAcq _ d _ _ | .fld _ _ d _ => [d.val]
  | .fla _ d _ | .cntrd d _ => pairOf d
  | .tstate d _ | .launch d _ | .gbind d _ _ | .grebind d _ _ | .cbpeek d _ _ => [d.val]
  | _ => []

/-- The registers that a form writes. -/
def writesOf (x : Band) (i : Instr) : List Nat :=
  destsOf x i ++ (resultTime x i).2 ++
  match i with
  | .add d _ _ | .sub d _ _ | .mul24 d _ _ | .and d _ _ | .or d _ _ | .xor d _ _ | .andn d _ _ | .orn d _ _ | .sll d _ _
  | .srl d _ _ | .sra d _ _ | .rol d _ _ | .ror d _ _ | .min d _ _ | .max d _ _ | .minn d _ _ | .maxn d _ _ | .slt d _ _
  | .sltn d _ _ | .eq d _ _ | .popc d _ | .clz d _ | .ctz d _ | .brev d _ | .bswap d _ | .sxb d _ | .sxh d _ | .zxb d _
  | .zxh d _ | .addi d _ _ | .andi d _ _ | .ori d _ _ | .xori d _ _ | .slti d _ _ | .sltni d _ _ | .slli d _ _
  | .srli d _ _ | .srai d _ _ | .rori d _ _ | .sli d _ | .slu d _ | .voteAny d _ | .voteAll d _ | .voteCnt d _ | .bid d
  | .mfsr d _ | .fmtget d _ | .caps d _ | .lwait d _ => [d.val]
  | .tldVer d _ m => (List.range (wfield (x.sreg m.val) 31 28 + 1)).map (d.val + ·)
  | .voteBal q _ => predRegs q.val
  | .call _ | .jl _ => [1]
  | .dsp d _ | .mquery _ d => pairOf d
  | .vrcp _ d _ | .vrsq _ d _ | .vsqrt _ d _ | .vdiv _ d _ | .vexp2 _ d _ | .vlog2 _ d _ | .vsin _ d _ | .vcos _ d _
  | .vtanh _ d _ => elemRegs x d
  | _ => []

/-! ## Accesses -/

/-- The engine classes of the operations of a form (R79, R220), as a mask: B, C, M, G, X, A from bit 0 up. A form that reads a
record from memory makes a class B access beside its own, and the tile and window forms come after what a pfence that names B
orders before them (R221, R332, R337). -/
def classOf (i : Instr) : BitVec 6 :=
  match group i with
  | .ld | .fld => 1
  | .st | .fst => (match i with
    | .stw (some .device) _ _ _ | .stw (some .fabric) _ _ _ | .sts (some .device) _ _ _ | .sts (some .fabric) _ _ _ => 17
    | _ => 1)
  | .copy => (match i with
    | .cntadd _ _ | .cntw _ _ | .cntrd _ _ => 32
    | .cpt _ _ _ | .cpz _ _ => 3
    | _ => 2)
  | .mtx => (match i with
    | .mwait _ | .mquery _ _ => 0
    | _ => 4)
  | .smem => (match i with
    | .sreset _ => 0
    | _ => 8)
  | .atom => 32
  | .tile => (match i with
    | .tdef _ | .cbdef _ _ | .tcommit _ | .tstAon _ _ | .tldVer _ _ _ => 1
    | .cbpush _ _ | .cbpop _ _ | .cbwait _ _ _ => 32
    | _ => 0)
  | .fence => (match i with
    | .swrel _ _ => 1
    | _ => 0)
  | .lnch => (match i with
    | .launch _ _ | .qput _ _ => 1
    | _ => 0)
  | _ => 0

/-- The units that wait while a log entry of their path waits (R409): memory accesses of every class, the forms of
R312, fences, engine issues, posts, launch, qput and exit. -/
def heldByLog (i : Instr) : Bool :=
  match i with
  | .gbar | .cbpush _ _ | .cbpop _ _ | .cbwait _ _ _ | .tldVer _ _ _ | .launch _ _ | .lwait _ _ | .qput _ _ | .exit => true
  | .sreset _ | .tcommit _ | .tstAon _ _ => false
  | _ => classOf i ≠ 0 || group i = .fence

/-- The scope of a release that a form is, without that of its address (R309, R312, R336). -/
def releaseScope (i : Instr) : Option Scope :=
  match i with
  | .stb r _ _ _ | .sth r _ _ _ | .stw r _ _ _ | .std r _ _ _ | .stq r _ _ _ => r
  | .sts r _ _ _ => r
  | .fst r _ _ _ => r
  | .aaddNr r _ _ _ | .aminNr r _ _ _ | .amaxNr r _ _ _ | .aminnNr r _ _ _ | .amaxnNr r _ _ _ | .aandNr r _ _ _
  | .aorNr r _ _ _ | .axorNr r _ _ _ | .axchgNr r _ _ _ | .acasNr r _ _ _ | .aincNr r _ _ _ | .afaddNr r _ _ _ => r
  | .cntadd _ _ | .launch _ _ | .qput _ _ => some .device
  | .cbpush _ _ | .cbpop _ _ => some .core
  | .gbar => some .gang
  | .swrel _ _ => some .fabric
  | _ => none

/-- Accesses of a unit: the threads that each belongs to (R300), with address and size. -/
abbrev Spots := List (Lanes × Nat × Nat)

/-- The scalar and vector registers that a memory form captures, in its order. -/
def captures (i : Instr) : List Nat × List Nat :=
  match i with
  | .sts _ v a _ => (v.val :: pairOf a, [])
  | .ldx _ v a _ => (pairOf a, [v.val])
  | .stx v a _ => (pairOf a, [v.val, v.val + 1])
  | .cpt t a c => (t.val :: (pairOf a ++ pairOf c), [])
  | .cpz r c => (pairOf r ++ pairOf c, [])
  | .tdef a => (pairOf a, [])
  | .cbdef b a => (b.val :: pairOf a, [])
  | .cntadd c _ | .cntw c _ | .cntrd _ c => (pairOf c, [])
  | .ldb _ _ a _ | .ldbs _ _ a _ | .ldh _ _ a _ | .ldhs _ _ a _ | .ldw _ _ a _ | .ldd _ _ a _ | .ldq _ _ a _
  | .ldwAcq _ _ a _ | .lddAcq _ _ a _ | .lds _ _ a _ | .ldsAcq _ _ a _ | .stb _ _ a _ | .sth _ _ a _ | .stw _ _ a _
  | .std _ _ a _ | .stq _ _ a _ => (pairOf a, [])
  | .aadd _ v a _ | .amin _ v a _ | .amax _ v a _ | .aminn _ v a _ | .amaxn _ v a _ | .aand _ v a _ | .aor _ v a _
  | .axor _ v a _ | .axchg _ v a _ | .acas _ v a _ | .ainc _ v a _ | .afadd _ v a _ | .aaddNr _ v a _
  | .aminNr _ v a _ | .amaxNr _ v a _ | .aminnNr _ v a _ | .amaxnNr _ v a _ | .aandNr _ v a _ | .aorNr _ v a _
  | .axorNr _ v a _ | .axchgNr _ v a _ | .acasNr _ v a _ | .aincNr _ v a _ | .afaddNr _ v a _ => (pairOf a, [v.val, v.val + 1])
  | _ => ([], [])

/-- What the unit that the band's current path is about to issue would capture. -/
def liveCap (b : Band) (i : Instr) : Captured := capture b b.enabled 0 (captures i).1 (captures i).2 0

def uniformSpot (b : Band) (c : Captured) (a : Option Nat) (n : Nat) : Spots :=
  match a with
  | none => []
  | some x => [(ownersOf c b, x, n)]

def linearSpots (c : Captured) (i : BitVec 6) (n : Nat) : Spots :=
  match baseOf c 0 (memOffset c.wide i n) with
  | none => []
  | some x => (laneList c.lanes).map fun l => (BitVec.twoPow 96 l, linear n c x l, n)

def indexedSpots {w : Nat} (c : Captured) (k : Nat) (i : BitVec w) : Spots :=
  match baseOf c 0 (memOffset c.wide i 4) with
  | none => []
  | some x => (laneList c.lanes).map fun l => (BitVec.twoPow 96 l, indexed k c x l, 4)

/-- The class B and class A accesses of a unit of band b with what it captures: loads, stores, atomics, counters, and the
records that the uniform forms read. -/
def spots (b : Band) (c : Captured) (i : Instr) : Spots :=
  match i with
  | .ldb _ _ _ i | .ldbs _ _ _ i => linearSpots c i 1
  | .stb _ _ _ i => linearSpots c i 1
  | .ldh _ _ _ i | .ldhs _ _ _ i | .sth _ _ _ i => linearSpots c i 2
  | .ldw _ _ _ i | .stw _ _ _ i => linearSpots c i 4
  | .ldwAcq _ _ _ _ => linearSpots c 0#6 4
  | .ldd _ _ _ i | .std _ _ _ i => linearSpots c i 8
  | .lddAcq _ _ _ _ => linearSpots c 0#6 8
  | .ldq _ _ _ i | .stq _ _ _ i => linearSpots c i 16
  | .ldx _ _ _ i => indexedSpots c 0 i
  | .stx _ _ i => indexedSpots c 1 i
  | .lds _ _ _ i => uniformSpot b c (baseOf c 0 (memOffset c.wide i 4)) 4
  | .sts _ _ _ i => uniformSpot b c (baseOf c 1 (memOffset c.wide i 4)) 4
  | .ldsAcq _ _ _ _ => uniformSpot b c (baseOf c 0 0) 4
  | .fld _ e _ o | .fst _ e _ o => uniformSpot b c (some (ea (b.disp1 e.val).toNat (4 * o.toNat : Nat))) 4
  | .cntadd _ _ | .cntw _ _ | .cntrd _ _ => uniformSpot b c (baseOf c 0 0) 8
  | .cpt _ _ _ => uniformSpot b c (baseOf c 1 0) 64
  | .cpz _ _ => uniformSpot b c (baseOf c 0 0) 32
  | .tdef _ => uniformSpot b c (baseOf c 0 0) 8
  | .cbdef _ _ => uniformSpot b c (baseOf c 1 0) 16
  | .aadd _ _ _ o | .amin _ _ _ o | .amax _ _ _ o | .aminn _ _ _ o | .amaxn _ _ _ o | .aand _ _ _ o | .aor _ _ _ o
  | .axor _ _ _ o | .axchg _ _ _ o | .acas _ _ _ o | .ainc _ _ _ o | .afadd _ _ _ o | .aaddNr _ _ _ o
  | .aminNr _ _ _ o | .amaxNr _ _ _ o | .aminnNr _ _ _ o | .amaxnNr _ _ _ o | .aandNr _ _ _ o | .aorNr _ _ _ o
  | .axorNr _ _ _ o | .axchgNr _ _ _ o | .acasNr _ _ _ o | .aincNr _ _ _ o | .afaddNr _ _ _ o => indexedSpots c 1 o
  | _ => []

/-- The forms whose accesses the atomic engines perform, in the order of their requests (R319, R353). -/
def byEngine (i : Instr) : Bool :=
  match i with
  | .cntadd _ _ | .cntrd _ _ => true
  | _ => group i = .atom

/-- A branch, whose unit may leave the path where it was. -/
def isBranch (i : Instr) : Bool := group i = .br

end Sys2Proof.Machine
end

