-- ==== Sys2Proof/Machine/Fence.lean ====
section
/-!
DEFINITION. FENCE (R219 to R221) and what a fence waits for: the band's own operations that are still under way. The
model performs loads and stores at their issue (log 5), so that a fence, a release or an acquire acts on what engines
and other devices still owe (R220, R328, R335), and on cached copies (R326, R346).
-/
namespace Sys2Proof.Machine

def sameBand (r : BandRef) (b : Band) : Bool := r.lnch = b.lnch && r.bid = b.bid

/-- Line requests of a band that no engine has applied. -/
def pendingRequests (s : State) (b : Band) : List LineReq := (allRequests s).filter fun r => sameBand r.ref b

/-- Remote operations of a band that are not acknowledged (R325). -/
def pendingRemote (s : State) (b : Band) : List RemoteOp := s.remotes.filter fun r => sameBand r.ref b

/-- Forms of a class mask bit k that a band has issued and that wait: stores for tile readers, and posts for their queue. -/
def waitingForms (b : Band) (k : Nat) : List Nat :=
  (b.prog ++ b.trp).filterMap fun e => match e.2.v, e.2.wait with
    | true, some w =>
      if (w.kind = .tileStore && (match decodePlain w.cap.word.toNat with
          | .ok i => (classOf i).getLsbD k
          | .error _ => false)) || (w.kind = .mtxPost && k = 2) then some w.order else none
    | _, _ => none

/-- Sequence numbers of a band's operations under way, per class: 0 B, 1 C, 2 M, 3 G, 4 X, 5 A. -/
def underWay (s : State) (b : Band) : Nat → List Nat
  | k =>
    ((pendingRemote s b).filter fun r => r.cls = k).map (·.orig)
    ++ ((pendingRequests s b).filter fun r => r.cls = k).map (·.seq) ++ waitingForms b k
    ++ match k with
      | 1 => (s.copies.filter fun o => sameBand o.ref b).map (·.seq) ++ (s.czs.filter fun o => sameBand o.ref b).map (·.seq)
      | 2 => (s.quad (quadOf b.slot)).queue.filterMap fun c => if sameBand c.ref b then some c.seq else none
      | 4 => (s.collectives.filterMap fun c => if c.ref.any fun r => sameBand r b then some c.seq else none)
        ++ (s.part b.part).ticks.filterMap fun e => if sameBand e.2.1 b then some e.2.2 else none
      | _ => []

/-- Whether operations of a class mask that were issued before `upto` are under way. -/
def fencePending (s : State) (b : Band) (m : BitVec 6) (upto : Nat) : Bool :=
  (List.range 6).any fun k => m.getLsbD k && (underWay s b k).any fun q => q < upto

/-- A fence waits for operations of the band, and of the band that issued it where that has been absorbed. -/
def fenceOpen (s : State) (b : Band) (f : ClassFence) : Bool :=
  fencePending s b f.src f.upto || (f.bid ≠ b.bid && fencePending s { b with bid := f.bid } f.src f.upto)

/-- fence (R219, R311): with ll, ls or sl a core gives up cached lines at CLUSTER scope or wider, and remote lines at
FABRIC scope (R326, R346): a later load is performed after the fence. -/
def execFence (c : Scope) (k : BitVec 4) (s : State) : Out :=
  issue (.fence c k) s always fun _ =>
    let s := if k.getLsbD 0 || k.getLsbD 1 || k.getLsbD 2 then acquire s s.myCore c else s
    s.modBand Band.advance

/-- A pfence whose classes are B and A only, which acts as fence.device with all four kinds (R335). -/
def plainFence (u d : BitVec 6) : Bool := (u ||| d) &&& 0b011110 = 0

/-- pfence (R220): later operations of the destination classes wait until the earlier ones of the source classes have
completed; class B then reads no cached copy that is older. -/
def execPfence (u d : BitVec 6) (s : State) : Out :=
  issue (.pfence u d) s always fun b =>
    let s := if d.getLsbD 0 || plainFence u d then acquire s s.myCore .device else s
    let (n, s) := s.nextSeq
    let s := if fencePending s b u (n + 1) then
        s.modBand fun b => { b with fences := b.fences ++ [{ src := u, dst := d, upto := n + 1, bid := b.bid }] }
      else s
    s.modBand Band.advance

/-- Fences whose operations have completed are spent; one that holds class B then discards the core's copies. -/
def settleFences (s : State) : State :=
  let b := s.band
  let (open_, done) := b.fences.partition (fenceOpen s b)
  if done.isEmpty then s
  else
    let s := if done.any fun f => f.dst.getLsbD 0 then acquire s s.myCore .device else s
    s.modBand fun b => { b with fences := open_ }

/-! ## Scarf windows (R221, R331 to R333, R449) -/

/-- The window that a handle pair names for a partition, if it is mapped there and the random word matches (R449). -/
def windowOf (s : State) (part : Nat) (key num : Word) : Option (Nat × Window) :=
  if wfield num 31 7 ≠ 0 then none
  else match s.windows.find? num.toNat with
    | none => none
    | some w =>
      if (w.a = part && w.keyA = key) || (w.b = part && w.keyB = key) then some (num.toNat, w) else none

/-- Copies the lines of a tenant from the working image to the published one, and clears its dirty bits (R332). A line that reads poisoned
is poisoned in the copy (R358). -/
def publish (s : State) (n : Nat) (w : Window) (part : Nat) (gen : Word) : State :=
  let lines := if part = w.a then w.dirtyA else w.dirtyB
  let s := lines.foldl (fun s k =>
    let image := imageAt w.published (128 * k)
    let from_ := imageAt w.working (128 * k)
    let bad := poisoned? s from_ 128
    let s := glazeWrite (unpoison { s with mem := s.mem.setBytes image (s.mem.bytes from_ 128) } image 128) image
    let s := match bad with
      | some (_, kind) => { s with poison := s.poison.put image (128, kind) }
      | none => s
    demandLine (demandLine s part s.me from_) part s.me image) s
  let w := if part = w.a then { w with dirtyA := [], gen := gen } else { w with dirtyB := [], gen := gen }
  { s with windows := s.windows.put n w }

def swrelCore (c : Captured) (s : State) : Ans :=
  let part := s.band.part
  match windowOf s part (c.scalars.getD 0 0) (c.scalars.getD 1 0) with
  | none => .fault [{ code := code.scarfHandle }] c.mask [] s
  | some (n, w) =>
    let g := c.scalars.getD 2 0
    if g ≠ w.gen + 1 then .fault [{ code := code.scarfGen }] c.mask [] s
    else .done [] (publish (s.modBand Band.needBoundary) n w part g)

/-- swacq waits until the generation has been reached, and then acquires (R221). -/
def swacqCore (c : Captured) (s : State) : Ans :=
  match windowOf s s.band.part (c.scalars.getD 0 0) (c.scalars.getD 1 0) with
  | none => .fault [{ code := code.scarfHandle }] c.mask [] s
  | some (_, w) =>
    if (w.gen - c.scalars.getD 2 0).toNat < 2 ^ 31 then .done [] (acquire s s.myCore .fabric) else .wait .swacq [] s

def execSwrel (w g : SReg) (s : State) : Out :=
  form (.swrel w g) s always (fun b => b.cap (.swrel w g) (pairOf w ++ [g.val]) [] 0) swrelCore
def execSwacq (w g : SReg) (s : State) : Out :=
  form (.swacq w g) s always (fun b => b.cap (.swacq w g) (pairOf w ++ [g.val]) [] 0) swacqCore
def execSwacqWake (slot path : Nat) (s : State) : Out := .next (wake slot path .swacq swacqCore s)

end Sys2Proof.Machine
end

