-- ==== Sys2Proof/Machine/Order.lean ====
section
/-!
DEFINITION. What the ordering rules make an access or a unit wait for: earlier accesses of its thread (R300, R301, R304, R305,
R307, R327), a release or a fence (R311, R312, R328, R336), and a pfence (R220, R335).
-/
namespace Sys2Proof.Machine

/-- A lane of an atomic or of a counter operation of a band that has not been performed: where it acts, the threads that it
belongs to, the kind of its page, and the core that sent it. -/
structure Owed where
  dev    : Option Nat
  pa     : Nat
  size   : Nat
  owners : Lanes
  ord    : Nat
  core   : Nat
  deriving DecidableEq, Repr

/-- The lanes of a request. -/
def LineReq.owed (r : LineReq) : List Owed := r.lanes.map fun o =>
  { dev := r.dev, pa := o.pa, size := r.op.size, owners := if o.lane = 127 then r.owners else BitVec.twoPow 96 o.lane
    ord := o.ord, core := r.core }

/-- The class A operations of a band under way. -/
def owedBy? (s : State) (b : Band) : List Owed :=
  let reqs := pendingRequests s b ++ (pendingRemote s b).filterMap fun o => if o.performed then none else o.req
  (reqs.filter fun r => r.cls = 5).flatMap LineReq.owed

/-- Remote writes of a band's threads that have not been performed. -/
def posted (s : State) (b : Band) : List RemoteOp :=
  (pendingRemote s b).filter fun o => !o.performed && o.req.isNone && (o.cls = 0 || o.cls = 3)

def locDev : Loc → Option Nat
  | .remote d _ => some d
  | .spad _ | .mem _ => none

/-- An access of the threads `owners` to n bytes at a place has to come after an earlier operation (R304, R307): they have a
thread and a byte in common, and not both pages are UN. -/
def mustFollow (owners : Lanes) (l : Loc) (ord n : Nat) (p : Owed) : Bool :=
  owners &&& p.owners ≠ 0
  && (match l with | .spad _ => false | .mem _ | .remote _ _ => true)
  && locDev l = p.dev && p.pa < paOf l + n && paOf l < p.pa + p.size && !(ord = 2 && p.ord = 2)

/-- A remote write to a common byte has not been performed. -/
def afterPosted (l : Loc) (n : Nat) (o : RemoteOp) : Bool :=
  locDev l = some o.dev && o.pa < paOf l + n && paOf l < o.pa + o.data.length

/-- An access to an SO page waits for every access before it, and every access for one to an SO page (R305, R327). -/
def strongHolds (pend : List Owed) (post : List RemoteOp) (ord : Nat) : Bool :=
  (ord = 0 && !(pend.isEmpty && post.isEmpty)) || pend.any (fun p => p.ord = 0) || post.any fun o => o.ord = 0

/-- The accesses of a unit that earlier accesses of the band hold back. Two operations of the engines on one byte keep their order
there, if one core has sent them. -/
def accessHeld (s : State) (b : Band) (i : Instr) (c : Captured) : Bool :=
  let pend := owedBy? s b
  let post := posted s b
  if pend.isEmpty && post.isEmpty then false
  else
    let u := s.issuer (if group i = .atom then 5 else 0)
    (spots b c i).any fun e =>
      match access s u e.2.1 { r := false, w := false, n := e.2.2 } (group i = .atom) with
      | .error _ => false
      | .ok (l, ord) =>
        strongHolds pend post ord
        || (pend.any fun p => mustFollow e.1 l ord e.2.2 p && !(byEngine i && p.core = u.core))
        || ((match i with | .cntw _ _ => true | _ => false) && post.any (afterPosted l e.2.2))

/-- The forms whose accesses are those of lanes, in the beat of the lane (R286). -/
def perLane (i : Instr) : Bool :=
  match i with
  | .lds _ _ _ _ | .sts _ _ _ _ | .ldsAcq _ _ _ _ => false
  | _ => [.ld, .st, .atom].contains (group i)

/-- The accesses of a unit with the beats that make them: those of its lanes, of a stream's elements, or one of the band. -/
def beatSpots (s : State) (x : Band) (i : Instr) : List (Nat × Nat × Nat) :=
  let c := liveCap x i
  let elems (k : Fin 4) : List (Nat × Nat × Nat) := match x.streams.find? k.val with
    | none => []
    | some r => (laneList x.enabled).filterMap fun l =>
        if !r.rcd.inRange (r.pos + l) then none
        else match elemAddr s (s.issuer 3) r.rcd (r.pos + l) with
          | .error _ => none
          | .ok a => some (l / 32, a, 2 ^ r.rcd.esz)
  match i with
  | .sld _ _ k => elems k
  | .sst _ k => elems k
  | _ => (spots x c i).map fun e => (if perLane i then ((laneList e.1).headD 0) / 32 else 0, e.2.1, e.2.2)

/-- A form that stores: its lines are written through the copies that a core has. -/
def storing (i : Instr) : Bool :=
  match i with
  | .sst _ _ => true
  | _ => group i = .st || group i = .fst

/-- A plain access to a line of a hot store goes to its engine (R352): it waits until the port of its core is empty and the rotation comes
to it (R353). -/
def hotHeld (s : State) (b : Band) (i : Instr) : Bool :=
  !byEngine i && (s.clusters.any fun e => !e.2.hot.isEmpty) && (beatSpots s b i).any fun e =>
    match access s (s.issuer 0) e.2.1 { r := false, w := false, n := e.2.2 } false with
    | .ok (.mem pa, _) =>
      let n := owningCluster (pa / 128 * 128)
      isHot (s.cluster n) (pa / 128 * 128) && !engineTurn s n (corePort s.myCore n) (pa / 128 * 128) b.part
    | _ => false

/-- A load of remote memory waits while the partition has no port that is up (R464), and so does an access whose tables lie at another
device. A store is posted. -/
def portHeld (s : State) (b : Band) (i : Instr) : Bool :=
  !fabricUp s b.part && (spots b (liveCap b i) i).any fun e =>
    let u := s.issuer 0
    if isSpad e.2.1 || inHeap u e.2.1 then false
    else if (tlbHit s u e.2.1).isNone && remoteTables s b.part e.2.1 then true
    else match access s u e.2.1 { r := !storing i, w := false, n := e.2.2 } false with
      | .ok (.remote _ _, _) => !storing i && !byEngine i
      | _ => false

/-- The scope at which a unit releases: one on scratchpad addresses only acts as CORE (R309), and a cntadd to a remote counter
releases at FABRIC scope (R336). -/
def releaseAt (s : State) (b : Band) (i : Instr) : Option Scope :=
  let at_ := spots b (liveCap b i) i
  (releaseScope i).map fun c =>
    match i with
    | .cntadd _ _ =>
      if at_.any fun e => match access s (s.issuer 5) e.2.1 { r := false, w := false, n := 8 } true with
        | .ok (.remote _ _, _) => true
        | _ => false
      then .fabric else c
    | _ => if wideScope c && !at_.isEmpty && at_.all (fun e => isSpad e.2.1) then .core else c

/-- Atomics of a band that have not been performed: at the engines of this device, or also at other devices. -/
def atomicsPend (s : State) (b : Band) (remote : Bool) : Bool :=
  ((pendingRequests s b).any fun r => r.cls = 5)
  || (remote && (pendingRemote s b).any fun o => !o.performed && o.req.isSome && o.cls = 5)

/-- Remote operations of a partition that are not acknowledged, which a release at FABRIC scope waits for: those of other threads
may happen before it (R315, R328). -/
def unacknowledged (s : State) (part : Nat) : Bool := s.remotes.any fun o => o.part = part

/-- Stores of the band that have issued and are not performed hold a fence of kinds k at a scope (R219): one of another path that waits
for tile readers (R208), and for kind sl a remote write, which only the band's own core sees (R302, R325). With kind ss a fence
makes a later write a release, which does not wait for acknowledgements below FABRIC (R328). -/
def storesPend (s : State) (b : Band) (c : Scope) (k : BitVec 4) : Bool :=
  (k.getLsbD 2 || k.getLsbD 3) && b.waitsIn .tileStore
  || wideScope c && k.getLsbD 2 && (posted s b).any fun o => o.cls = 0

/-- A release or a fence waits until the band's atomics have been performed, and at FABRIC scope until every remote
operation of the partition has been acknowledged (R311, R312, R328). -/
def releaseHeld (s : State) (b : Band) (i : Instr) : Bool :=
  match i with
  | .fence c k => atomicsPend s b true || (c = .fabric && unacknowledged s b.part) || storesPend s b c k
  | .pfence u d => plainFence u d && (atomicsPend s b true || storesPend s b .device 15)
  | _ => match releaseAt s b i with
    | none => false
    | some c => atomicsPend s b false || (c = .fabric && unacknowledged s b.part)

/-- A pfence holds the classes that it names as later ones (R220). -/
def fenceHeld (s : State) (b : Band) (i : Instr) : Bool :=
  b.fences.any fun f => f.dst &&& classOf i ≠ 0 && fenceOpen s b f

end Sys2Proof.Machine
end

