-- ==== Sys2Proof/Machine/Joiner.lean ====
section
/-!
DEFINITION. The Joiner: frames, their headers and their states (R257 to R260, R263), and admission with the making of a
launch (R368 to R376, R262).
-/
namespace Sys2Proof.Machine

/-- The Joiner and Wheel reach a partition's memory by the paged rule (R475). -/
def joiner (part : Nat) : Issuer := engineIssuer part 0 4

/-- A notification to the host (R463). -/
def notify (s : State) (vector : Nat) : State := { s with notes := s.notes ++ [vector] }

/-- Reads n bytes for Wheel, none when an address does not translate. -/
def wheelRead (s : State) (part a n : Nat) : Option (List Byte) :=
  match readVirtual s (joiner part) .memory a n with
  | .ok bs => some bs
  | .error _ => none

/-- Writes bytes for Wheel; a write that does not translate is lost (R475). -/
def wheelWrite (s : State) (part a : Nat) (bs : List Byte) : State :=
  match writeVirtual s (joiner part) nobody true a bs with
  | .ok t => t
  | .error _ => s

/-! ## Blocks of a frame -/

/-- Writes 64 bytes of a frame; the block is then a header, or is none. -/
def putBlock (s : State) (part a : Nat) (hdr : Bool) (bs : List Byte) : Option State :=
  match resolve s (joiner part) a (.write 64) false with
  | .ok (.mem pa, _) =>
    let s := writeMem s part none pa bs
    some { s with headers := if hdr then s.headers.put pa () else s.headers.del pa }
  | .ok (.spad _, _) | .ok (.remote _ _, _) | .error _ => none

/-- Writes the body of a frame in blocks of 64 bytes. -/
def putBody (part : Nat) : Nat → List (List Byte) → State → Option State
  | _, [], s => some s
  | a, b :: bs, s => match putBlock s part a false b with
    | none => none
    | some s => putBody part (a + 64) bs s

/-- Bytes cut into pieces of 64. -/
def blocks64 (bs : List Byte) : List (List Byte) := (List.range (bs.length / 64)).map fun k => (bs.drop (64 * k)).take 64

def zeros (n : Nat) : List Byte := List.replicate n 0

/-! ## Headers (R258) -/

/-- A header's fields. -/
structure Header where
  parent   : Nat
  launch   : Word
  units    : Nat
  level    : Nat
  state    : Nat
  children : Nat
  cw       : Nat
  deriving DecidableEq, Repr

def Header.bytes (h : Header) : List Byte :=
  leBytes 8 h.parent ++ leBytes 4 h.launch.toNat ++ leBytes 2 h.units ++ leBytes 1 h.level ++ leBytes 1 h.state
    ++ leBytes 2 h.children ++ zeros 6 ++ leBytes 8 h.cw ++ zeros 32

def headerFrom (bs : List Byte) : Header :=
  { parent := leAt bs 0 8, launch := w32 (leAt bs 8 4), units := leAt bs 12 2, level := leAt bs 14 1, state := leAt bs 15 1
    children := leAt bs 16 2, cw := leAt bs 24 8 }

/-- The header of a frame, from its body address. -/
def readHeader (s : State) (part body : Nat) : Option Header := (wheelRead s part (ea body (-64)) 64).map headerFrom

def writeHeader (s : State) (part body : Nat) (h : Header) : State :=
  (putBlock s part (ea body (-64)) true h.bytes).getD s

/-! ## Allocation and release (R257, R260) -/

/-- The lowest gap of a size between the blocks of the heap. -/
def gap (size limit : Nat) : Nat → Tab Nat → Option Nat
  | at_, [] => if at_ + size ≤ limit then some at_ else none
  | at_, (o, n) :: t => if at_ + size ≤ o then some at_ else gap size limit (o + n) t

/-- Space that the Joiner uses again holds no header any more (R259): n blocks of 64 bytes. -/
def unmark (part a : Nat) : Nat → State → State
  | 0, s => s
  | n + 1, s => unmark part (a + 64) n <|
    match resolve s (joiner part) a (.write 64) false with
    | .ok (.mem pa, _) => { s with headers := s.headers.del pa }
    | .ok (.spad _, _) | .ok (.remote _ _, _) | .error _ => s

/-- Takes a block of the frame heap: its address. -/
def takeHeap (s : State) (part size : Nat) : Option (Nat × State) :=
  let p := s.part part
  (gap size p.fhlen 0 p.heap).map fun o =>
    (p.fhbase + o, unmark part (p.fhbase + o) ((size + 63) / 64) (s.modPart part fun p => { p with heap := p.heap.put o size }))

/-- Returns a block to the heap. -/
def giveHeap (s : State) (part a : Nat) : State :=
  s.modPart part fun p => { p with heap := p.heap.del (a - p.fhbase) }

/-- One child more or less of a frame. -/
def addChild (s : State) (part body : Nat) : State :=
  if body = 0 then s else match readHeader s part body with
  | none => s
  | some h => writeHeader s part body { h with children := h.children + 1 }

/-- Makes a frame with its body, live, and counts it at its parent: its body address. Without space it answers none. -/
def makeFrame (s : State) (part : Nat) (h : Header) (body : List Byte) : Option (Nat × State) :=
  match takeHeap s part (64 + 64 * h.units) with
  | none => none
  | some (a, s) => match putBlock s part a true h.bytes with
    | none => none
    | some s => (putBody part (a + 64) (blocks64 body) s).map fun s => (a + 64, addChild s part h.parent)

/-- A frame is released; the release may go on to its ancestors. The fuel is above the depth of frames. -/
def release (part : Nat) : Nat → Nat → State → State
  | 0, _, s => s
  | n + 1, body, s => match readHeader s part body with
    | none => giveHeap s part (ea body (-64))
    | some h =>
      let s := giveHeap (writeHeader s part body { h with state := 3 }) part (ea body (-64))
      if h.parent = 0 then s else match readHeader s part h.parent with
      | none => s
      | some g =>
        let s := writeHeader s part h.parent { g with children := g.children - 1 }
        if g.children ≤ 1 && g.state = 2 then release part n h.parent s else s

/-- The owning launch of a frame completes (R260). -/
def frameEnds (s : State) (part body : Nat) : State :=
  match readHeader s part body with
  | none => giveHeap s part (ea body (-64))
  | some h => if h.children > 0 then writeHeader s part body { h with state := 2 } else release part 9 body s

/-! ## Launches -/

/-- The bound that is left of a reservation (R375), in clocks of the home cluster of its launch. -/
def boundLeft (s : State) (r : Word × Nat × Nat) : Nat :=
  match s.launches.find? r.1.toNat with
  | none => 0
  | some l => r.2.1 - (clockOf s l.home - r.2.2)

def remainingBound (s : State) (q : Nat) : Nat := (s.quad q).reserved.foldl (fun m r => max m (boundLeft s r)) 0

/-- The quadrants of a partition by remaining bound, ties by index. -/
def byBound (s : State) (part : Nat) : List Nat :=
  (s.part part).quads.mergeSort fun x y =>
    let a := remainingBound s x
    let b := remainingBound s y
    a < b || (a = b && x ≤ y)

/-- Admit of R375, trying S = n, n − 1, … quadrants: the quadrants and the bound. -/
def admitFrom (s : State) (qs : List Nat) (nb work budget : Nat) : Nat → Option (List Nat × Nat)
  | 0 => none
  | n + 1 =>
    let q := (qs.take (n + 1)).foldl (fun m x => max m (remainingBound s x)) 0
    let b := q + 20000 + (nb + n) / (n + 1) * (work + 500) + 40000
    if b ≤ 3600 * budget then some (qs.take (n + 1), b) else admitFrom s qs nb work budget n

def admission (s : State) (part nb work budget : Nat) : Option (List Nat × Nat) :=
  let qs := byBound s part
  admitFrom s qs nb work budget (min nb qs.length)

/-- The LNCHID after one: 0 is no launch. -/
def nextLaunch (l : Word) : Word := if l + 1 = 0 then 1 else l + 1

/-- A launch enters the table under the next number; a DEADLINE launch reserves its quadrants. -/
def addLaunch (s : State) (l : Launch) (qs : List Nat) : Word × State :=
  let id := s.lnchNext
  let l := { l with since := clockOf s l.home }
  let s := { s with launches := s.launches.put id.toNat l, lnchNext := nextLaunch id }
  (id, endRound (qs.foldl (fun s q => let qd := s.quad q
                                      s.setQuad q { qd with reserved := qd.reserved ++ [(id, l.bound, l.since)] }) s) l.part l.cls)

/-- A launch that has just been made. -/
def freshLaunch (part : Nat) (kind : LaunchKind) (home : Nat) : Launch :=
  { part := part, kind := kind, level := 0, cls := 2, home := home, entry := 0, n := 1, rf := 32, cw := 0
    thb := 0, thl := 0, tho := 0, work := 0, bound := 0, frame := 0, disp := [], ctx := 0, nbound := 0, exited := 0, killed := none, counted := false
    since := 0, left := [] }

/-- The display of a launch at a level whose frame is `body` (R26, R263). -/
def displayOf (outer : Tab Addr) (level body : Nat) : Tab Addr :=
  Tab.setD (outer.filter fun e => e.1 < level) level (BitVec.ofNat 48 body) 0

/-- Registers of an allocation code (R261). -/
def allocOf : Nat → Nat
  | 0 => 32 | 1 => 64 | _ => 128

/-- Makes the frame of a launch and admits it: the launch's number, or 0 where admission refuses it; none where the heap
has no space (R262, R366). -/
def makeLaunch (s : State) (l : Launch) (units parent : Nat) (body : List Byte) (budget : Nat) (disp : Nat → Tab Addr) :
    Option (Word × Nat × State) :=
  let h : Header := { parent := parent, launch := s.lnchNext, units := units, level := l.level, state := 1, children := 0
                      cw := l.cw }
  match makeFrame s l.part h body with
  | none => none
  | some (a, t) =>
    let l := { l with frame := BitVec.ofNat 48 a, disp := disp a }
    if l.cls = 0 then match admission t l.part (bandsOf l.n) l.work budget with
      | none => some (0, 0, release l.part 9 a t)
      | some (qs, b) => let (id, t) := addLaunch t { l with bound := b } qs
                        some (id, b, t)
    else let (id, t) := addLaunch t l []
         some (id, 0, t)

end Sys2Proof.Machine
end

