-- ==== Sys2Proof/Machine/Launch.lean ====
section
/-!
DEFINITION. LNCH, without the graph forms: exit (R254, R255), launch (R261 to R264), lwait (R268), dsp (R269), qput and
task dispatch (R275 to R278); launch queues (R363 to R367, R379) and the completion of launches (R266, R267, R373, R377,
R378).
-/
namespace Sys2Proof.Machine

/-! ## exit -/

/-- The lanes x are vacant from now on (R10, R254). -/
def Band.vacate (b : Band) (x : Lanes) : Band :=
  { b.dropGangs x with occ := b.occ &&& ~~~x, mask := b.mask &&& ~~~x, tids := b.tids.filter fun e => !x.getLsbD e.1 }

/-- The current path ends: its entry is invalid, its windows close (R84), and a sibling that waits at an RCV may go on
(R134). -/
def Band.endPath (b : Band) : Band := (b.endWindows.setPath PathEntry.empty).breakRcv

/-- A band without threads has exited: its accumulator tiles are free once no command names them (R28), and it leaves its slot
once its long-latency results have arrived (R255). -/
def settleExit (s : State) : State :=
  let b := s.band
  if b.occ ≠ 0 then s else if b.results.isEmpty then bandGone s s.cur b else freeAccs s s.myQuad

def exitLanes (s : State) : State :=
  let b := s.band
  let x := b.enabled
  if x = 0 then s.setBand b.advance
  else
    let s := gangsLose s s.myCore b x
    let b := b.vacate x
    settleExit (s.setBand (if b.mask = 0 then b.endPath else b.advance))

/-- exit (R254): in a handler it is a double fault (R412). -/
def execExit (s : State) : Out :=
  issue .exit s always fun b =>
    if b.inTrap then doubleFault s (w32 code.illegal) { code := 0 } b.unitPC b.unitPC (wordOf .exit) b.mask
    else if !b.mfaults.isEmpty then deliverMatrix s
    else exitLanes s

/-! ## launch -/

/-- The limits of a class with its budget and its work (R261, R365). -/
def classOk (cls budget work : Nat) : Bool :=
  if cls = 0 then budget ≠ 0 && 1 ≤ work && work < 2 ^ 31 else budget = 0 && work = 0

/-- The record of R261. -/
def launchOk (r : List Word) : Bool :=
  let w := rword r
  wfield (w 0) 1 0 = 0 && w 2 ≠ 0 && 1 ≤ wfield (w 3) 10 0 && wfield (w 3) 10 0 ≤ 1024 && wfield (w 3) 13 12 ≤ 2
  && wfield (w 3) 11 11 = 0 && wfield (w 3) 15 14 = 0 && wfield (w 3) 31 18 = 0
  && classOk (wfield (w 3) 17 16) (w 4).toNat (w 7).toNat

/-- The band's children or those of its frame are at their limit (R262). -/
def launchFull (s : State) (b : Band) : Bool :=
  16 ≤ b.children.length
  || ((readHeader s b.part (b.disp1 b.level).toNat).any fun h => h.children = 65535)

/-- LAUNCH (R262). The release comes after the wait: an atomic that a sibling path has issued meanwhile is performed first. -/
def launchCore (d : SReg) (c : Captured) (s : State) : Ans :=
  let b := s.band
  let r := c.scalars
  if !launchOk r then .early { code := code.illegal }
  else match pairAddr (rword r 0) (rword r 1), pairAddr (rword r 5) (rword r 6) with
  | none, _ => .fault [addrForm 0 false false 2] c.mask [] s
  | some _, none => .fault [addrForm 5 true true 3] c.mask [] s
  | some entry, some cw =>
    if cw % 8 ≠ 0 then .fault [{ code := code.align, w := true, rmw := true, cls := 5, sz := 3, va := cw }] c.mask [] s
    else if cw ≠ 0 && isSpad cw then
      .fault [{ code := code.atomSpace, w := true, rmw := true, cls := 5, sz := 3, va := cw }] c.mask [] s
    else if b.level + 1 > 7 then .fault [{ code := code.frameDepth }] c.mask [] s
    else if wfield (rword r 3) 17 16 < b.cls then .fault [{ code := code.launchClass }] c.mask [] s
    else if launchFull s b || atomicsPend s b false then .wait .launch [] s
    else
      let units := wfield (rword r 3) 10 0
      let l : Launch :=
        { freshLaunch b.part (.child s.me) s.myCluster with
          level := b.level + 1, cls := wfield (rword r 3) 17 16, entry := BitVec.ofNat 48 entry, n := (rword r 2).toNat
          rf := allocOf (wfield (rword r 3) 13 12), cw := cw, work := (rword r 7).toNat, thb := b.thb, thl := b.thl, tho := b.tho }
      match makeLaunch s l units (b.disp1 b.level).toNat (zeros (64 * units)) (rword r 4).toNat
          (displayOf b.disp (b.level + 1)) with
      | none => .fault [{ code := code.frameHeap }] c.mask [] s
      | some (h, _, s) =>
        .done [sWrite d.val h]
          (s.modBand fun b => { b.needBoundary with children := if h = 0 then b.children else b.children ++ [h] })

def execLaunch (d r : SReg) (s : State) : Out :=
  form (.launch d r) s always (fun b => b.cap (.launch d r) ((List.range 8).map (r.val + ·)) [] 0) (launchCore d)

/-! ## lwait and dsp -/

/-- The children that an lwait waits for are gone from the table; then it acquires at FABRIC scope and reports kills
(R268). -/
def lwaitCore (d : SReg) (c : Captured) (s : State) : Ans :=
  let b := s.band
  let h := c.scalars.getD 0 0
  if (if h = 0 then !b.children.isEmpty else b.children.contains h) then .wait .lwait [] s
  else
    let s := acquire s s.myCore .fabric
    if h = 0 then
      .done [sWrite d.val (w32 (b.kills.length + b.killsExtra))] (s.modBand fun b => { b with kills := [], killsExtra := 0 })
    else .done [sWrite d.val (boolWord (b.kills.contains h))] (s.modBand fun b => { b with kills := b.kills.erase h })

def execLwait (d h : SReg) (s : State) : Out :=
  form (.lwait d h) s always (fun b => b.cap (.lwait d h) [h.val] [] 0) (lwaitCore d)

/-- dsp (R269): 0 above the band's level. -/
def execDsp (d : SReg) (l : Fin 8) (s : State) : Out :=
  unit (.dsp d l) s always fun b =>
    let a := if l.val > b.level then 0 else (b.disp1 l.val).toNat
    (b.writeS d.val (w32 a)).writeS (d.val + 1) (w32 (a / 2 ^ 32))

/-- The destination register of a word of format S. -/
def destOf (w : Word) : SReg := ⟨wfield w 17 12, Nat.mod_lt _ (by decide)⟩

def execLaunchWaitWake (slot path : Nat) (s : State) : Out :=
  .next (wake slot path .launch (fun c => launchCore (destOf c.word) c) s)
def execLwaitWake (slot path : Nat) (s : State) : Out :=
  .next (wake slot path .lwait (fun c => lwaitCore (destOf c.word) c) s)

/-! ## Tasks (R275 to R278) -/

/-- Node reference: the template and the node. -/
def refTemplate (r : Word) : Nat := wfield r 31 16
def refNode (r : Word) : Nat := wfield r 15 0

/-- A registered node. -/
def nodeKnown (s : State) (part : Nat) (r : Word) : Bool :=
  match (s.part part).templates.find? (refTemplate r) with
  | none => false
  | some (_, n) => refNode r < n

/-- A delta as a signed number of k bits, if it fits: differences are taken modulo 2^w. -/
def delta (w k new old : Nat) : Option Int :=
  let z := wrapInt ((new : Int) - old) true w
  if -(2 ^ (k - 1) : Int) ≤ z && z < 2 ^ (k - 1) then some z else none

/-- The words of one task after the last one appended, at ring position p (R276): short where it can be, and a long
entry never wraps. -/
def taskWords (q : TaskQueue) (p : Nat) (r inst : Word) : List Word :=
  let long : List Word :=
    let left := q.words - p % q.words
    (if left < 3 then List.replicate left 0x80000000 else []) ++ [0x40000000, r, inst]
  match q.lastW with
  | none => long
  | some (t, n, i) =>
    if t ≠ refTemplate r then long
    else match delta 16 6 (refNode r) n, delta 32 24 inst.toNat i.toNat with
      | some x, some y => [w32 ((x % 64).toNat * 2 ^ 24 + (y % 2 ^ 24).toNat)]
      | _, _ => long

/-- Appends tasks to the queue's words: the words, and the queue with its last task. -/
def appendTasks : List (Word × Word) → TaskQueue → Nat → List Word × TaskQueue
  | [], q, _ => ([], q)
  | (r, i) :: ts, q, p =>
    let ws := taskWords q p r i
    let (rest, q) := appendTasks ts { q with lastW := some (refTemplate r, refNode r, i) } (p + ws.length)
    (ws ++ rest, q)

/-- Writes words into the ring from position p on. -/
def ringWrite (part : Nat) (q : TaskQueue) : List Word → Nat → State → State
  | [], _, s => s
  | w :: ws, p, s => ringWrite part q ws (p + 1) (wheelWrite s part (q.ring + 4 * (p % q.words)) (leBytes 4 w.toNat))

/-- qput (R277). The release comes after the wait for room. -/
def qputCore (c : Captured) (s : State) : Ans :=
  let part := s.band.part
  let n := (c.scalars.getD 0 0).toNat
  match (if n < 64 then (s.part part).tasks.find? n else none) with
  | none => .fault [{ code := code.taskQueue }] c.lanes [] s
  | some q =>
    let task (l : Nat) : Word × Word := ((c.vecs.getD 0 []).getD l 0, (c.vecs.getD 1 []).getD l 0)
    let bad := (laneList c.lanes).filter fun l => !nodeKnown s part (task l).1
    let good := (laneList c.lanes).filter fun l => nodeKnown s part (task l).1
    let (ws, q') := appendTasks (good.map task) q q.wr
    if q.words < q.wr - q.rd + ws.length || atomicsPend s s.band false then .wait .qput [] s
    else
      let s := ringWrite part q ws q.wr (s.modBand Band.needBoundary)
      let s := s.modPart part fun p => { p with tasks := p.tasks.put n { q' with wr := q.wr + ws.length } }
      endLanes (bad.map fun l => { code := code.taskNode, lane := l }) [] s

def execQput (v q : SReg) (s : State) : Out :=
  form (.qput v q) s (·.vregs? v.val 2) (fun b => b.cap (.qput v q) [q.val] [v.val, v.val + 1] 0) qputCore
def execQputWaitWake (slot path : Nat) (s : State) : Out := .next (wake slot path .qput qputCore s)

/-- The consumer's view of one entry at a position: the task, if it is one, and the words that it takes; none for an
entry that it cannot take. -/
def readEntry (s : State) (part : Nat) (q : TaskQueue) : Option (Option (Word × Word) × Nat) :=
  let at_ (k : Nat) : Option Word := (wheelRead s part (q.ring + 4 * ((q.rd + k) % q.words)) 4).map fun bs => w32 (leNat bs)
  match at_ 0 with
  | none => none
  | some w => match wfield w 31 30 with
    | 0 => match q.lastR with
      | none => none
      | some (t, n, i) =>
        let node := ((n : Int) + wrapInt (wfield w 29 24) true 6) % 2 ^ 16
        let inst := i + w32i (wrapInt (wfield w 23 0) true 24)
        some (some (w32 (t * 2 ^ 16 + node.toNat), inst), 1)
    | 1 => if wfield w 29 0 ≠ 0 then none else match at_ 1, at_ 2 with
      | some r, some i => some (some (r, i), 3)
      | _, _ => none
    | 2 => if wfield w 29 0 ≠ 0 then none else some (none, 1)
    | _ => none

/-- Reads every entry of the ring; a bad one stops the queue. -/
def readTasks (s : State) (part : Nat) : Nat → TaskQueue → TaskQueue × Bool
  | 0, q => (q, false)
  | n + 1, q =>
    if q.rd = q.wr then (q, false)
    else match readEntry s part q with
      | none => ({ q with stopped := true }, true)
      | some (none, k) => readTasks s part n { q with rd := q.rd + k }
      | some (some (r, i), k) =>
        readTasks s part n { q with rd := q.rd + k, read := q.read ++ [(r, i)], lastR := some (refTemplate r, refNode r, i) }

/-- A node record (R275). -/
structure Node where
  entry   : Nat
  argbase : Nat
  argsz   : Nat
  units   : Nat
  rf      : Nat
  deriving DecidableEq, Repr

def readNode (s : State) (part : Nat) (r : Word) : Option Node :=
  match (s.part part).templates.find? (refTemplate r) with
  | none => none
  | some (a, _) => (wheelRead s part (a + 32 * refNode r) 32).map fun bs =>
      { entry := leAt bs 0 8, argbase := leAt bs 8 8, argsz := leAt bs 16 4, units := leAt bs 20 2, rf := leAt bs 22 1 }

def sameGroup (s : State) (part : Nat) (x : Node) (r : Word) : Bool :=
  (readNode s part r).any fun y => y.entry = x.entry && y.rf = x.rf && y.units = x.units

/-- The body of a task launch (R278). -/
def taskBody (s : State) (part units : Nat) (ts : List (Word × Word)) : List Byte :=
  let one (t : Word × Word) : List Byte :=
    let arg := match readNode s part t.1 with
      | none => 0
      | some n => (n.argbase + t.2.toNat * n.argsz) % 2 ^ 48
    leBytes 4 t.1.toNat ++ leBytes 4 t.2.toNat ++ leBytes 8 arg
  let es := ts.flatMap one
  es ++ zeros (1536 + 64 * units - es.length)

/-- The first group of the tasks that have been read becomes a task launch, if the heap has space for its frame. -/
def dispatchTasks (s : State) (part n : Nat) (q : TaskQueue) : State :=
  match q.read with
  | [] => s
  | (r, _) :: _ => match readNode s part r with
    | none => s
    | some x =>
      let group := (q.read.filter fun t => sameGroup s part x t.1).take 96
      let l : Launch :=
        { freshLaunch part (.task n) q.home with
          cls := q.cls, entry := BitVec.ofNat 48 x.entry, n := group.length, rf := allocOf x.rf }
      match makeLaunch s l (24 + x.units) 0 (taskBody s part x.units group) 0 (displayOf [] 0) with
      | none => s
      | some (_, _, s) => s.modPart part fun p =>
          { p with tasks := p.tasks.put n { q with read := group.foldl (fun ts t => ts.erase t) q.read } }

/-- The step of task dispatch (R278): what the ring holds is read, and one group is launched. An entry that it cannot
take is reported as TASK_ENTRY and stops the queue (R276): nothing after it is read, and the tasks before it are launched. -/
def execTaskDispatch (part queue : Nat) (s : State) : Out :=
  .next <| match (s.part part).tasks.find? queue with
  | none => s
  | some q =>
    if (s.part part).state ≠ 1 then s
    else if q.stopped then dispatchTasks s part queue q
    else
      let (q, bad) := readTasks s part (q.wr - q.rd) q
      let s := s.modPart part fun p => { p with tasks := p.tasks.put queue q }
      let s := if bad then
          let f : FaultAt := { code := code.taskEntry, lane := 127, d := [w32 queue, w32 (q.rd % q.words)] }
          wheelRecord s part (faultRecord { Band.blank with part := part } 0 f del.report none 0 0 0 0 0)
        else s
      dispatchTasks s part queue q

/-! ## Launch queues (R363 to R366) -/

/-- Offset of a queue descriptor in the partition object (R431). -/
def qdescAt (p : Partition) (q : Nat) : Nat := p.object + 512 + 64 * q

/-- A queue's state changes; HEAD, TAIL and STATE of its descriptor follow (R363). The host hears of a stop (R463). -/
def putQueue (s : State) (part q : Nat) (v : LaunchQueue) : State :=
  let a := qdescAt (s.part part) q
  let was := ((s.part part).queues.find? q).any fun x => x.state = 1
  let s := if was && v.state = 2 then notify s (4 * part + 2) else s
  let s := s.modPart part fun p => { p with queues := p.queues.put q v }
  { s with mem := s.mem.setBytes (a + 16) (leBytes 4 v.head.toNat ++ leBytes 4 v.tail.toNat ++ leBytes 1 v.state) }

/-- A doorbell (R364): a value too far ahead stops the queue. -/
def execLaunchQueueDoorbell (part queue : Nat) (tail : Word) (s : State) : Out :=
  .next <| match (s.part part).queues.find? queue with
  | none => s
  | some q =>
    if (s.part part).state ≠ 1 then s
    else putQueue s part queue { q with tail := tail, state := if (tail - q.head).toNat > q.size && q.state = 1 then 2 else q.state }

/-- The next record of a queue that Wheel may read, with its address. -/
def nextRecord (s : State) (part queue : Nat) : Option (LaunchQueue × Nat × List Byte) :=
  match (s.part part).queues.find? queue with
  | none => none
  | some q =>
    if (s.part part).state ≠ 1 || q.state ≠ 1 || q.head = q.tail then none
    else
      let a := q.ring + 64 * (q.head.toNat % q.size)
      (wheelRead s part a 64).map fun bs => (q, a, bs)

/-- Writes what Wheel answers to a record, and advances HEAD; a bad record also stops the queue (R366). -/
def answerRecord (s : State) (part queue : Nat) (q : LaunchQueue) (a status : Nat) (id : Word) (bound : Nat) : State :=
  let s := wheelWrite s part (a + 52) (leBytes 4 id.toNat ++ leBytes 4 bound)
  let s := wheelWrite s part (a + 48) (leBytes 4 status)
  putQueue s part queue { q with head := q.head + 1, state := if status = 3 then 2 else q.state }

/-- Every listed field, offset and length, is zero. -/
def zeroFields (bs : List Byte) (fs : List (Nat × Nat)) : Bool := fs.all fun f => leAt bs f.1 f.2 = 0

/-- The check of a kind 1 record (R365, R366). -/
def launchRecordOk (q : LaunchQueue) (bs : List Byte) : Bool :=
  let n := leAt bs
  n 1 1 ≤ 3 && n 2 1 ≤ 2 && zeroFields bs [(3, 1), (22, 2), (60, 4)] && n 8 8 < 2 ^ 48 && n 8 8 % 4 = 0 && n 16 4 ≠ 0
  && 1 ≤ n 20 2 && n 20 2 ≤ 1024 && classOk (n 1 1) (n 24 4) (n 28 4) && n 32 8 < 2 ^ 48 && n 32 8 % 8 = 0
  && !isSpad (n 32 8) && n 40 8 < 2 ^ 48 && n 40 8 % 64 = 0 && q.cmax ≤ n 1 1

/-- A record of any kind is read only with the SEQ of its place. -/
def seqOk (q : LaunchQueue) (bs : List Byte) : Bool := leAt bs 4 4 = q.head.toNat

/-- A kind 0 record, and a record of no kind, which is bad. -/
def execQueueRecordSkip (part queue : Nat) (s : State) : Out :=
  .next <| match nextRecord s part queue with
  | none => s
  | some (q, a, bs) =>
    let kind := leAt bs 0 1
    if 1 ≤ kind && kind ≤ 3 then s
    else answerRecord s part queue q a (if kind = 0 && seqOk q bs then 6 else 3) 0 0

/-- A kind 1 record: its frame, with the image it names, then admission. -/
def execQueueRecordLaunch (part queue : Nat) (s : State) : Out :=
  .next <| match nextRecord s part queue with
  | none => s
  | some (q, a, bs) =>
    if leAt bs 0 1 ≠ 1 then s
    else if !seqOk q bs || !launchRecordOk q bs then answerRecord s part queue q a 3 0 0
    else
      let n := leAt bs
      let units := n 20 2
      match (if n 40 8 = 0 then some (zeros (64 * units)) else wheelRead s part (n 40 8) (64 * units)) with
      | none => answerRecord s part queue q a 3 0 0
      | some body =>
        let l : Launch :=
          { freshLaunch part (.queue queue) q.home with
            cls := n 1 1, entry := BitVec.ofNat 48 (n 8 8), n := n 16 4, rf := allocOf (n 2 1), cw := n 32 8, work := n 28 4 }
        match makeLaunch s l units 0 body (n 24 4) (displayOf [] 0) with
        | none => answerRecord s part queue q a 4 0 0
        | some (id, b, s) => answerRecord s part queue q a (if id = 0 then 2 else 1) id b

/-- A kind 2 record registers a template (R379). -/
def execQueueRecordTemplate (part queue : Nat) (s : State) : Out :=
  .next <| match nextRecord s part queue with
  | none => s
  | some (q, a, bs) =>
    let n := leAt bs
    if n 0 1 ≠ 2 then s
    else if seqOk q bs && zeroFields bs [(1, 1), (2, 1), (3, 1), (22, 2), (24, 4), (28, 4), (32, 8), (40, 8), (60, 4)]
        && n 8 8 < 2 ^ 48 && n 8 8 % 32 = 0 && 1 ≤ n 16 4 && n 16 4 ≤ 65536 && !(s.part part).templates.has (n 20 2) then
      answerRecord (s.modPart part fun p => { p with templates := p.templates.put (n 20 2) (n 8 8, n 16 4) }) part queue q a 5 0 0
    else answerRecord s part queue q a 3 0 0

/-- A kind 3 record sets up a task queue (R379). -/
def execQueueRecordTaskQueue (part queue : Nat) (s : State) : Out :=
  .next <| match nextRecord s part queue with
  | none => s
  | some (q, a, bs) =>
    let n := leAt bs
    if n 0 1 ≠ 3 then s
    else if seqOk q bs && zeroFields bs [(2, 1), (3, 1), (22, 2), (24, 4), (28, 4), (32, 8), (40, 8), (60, 4)]
        && n 1 1 ≤ 3 && n 1 1 ≠ 0 && q.cmax ≤ n 1 1 && n 8 8 < 2 ^ 48 && n 8 8 % 4 = 0 && 4 ≤ n 16 4 && n 16 4 ≤ 2 ^ 24
        && n 20 2 ≤ 63 then
      let t : TaskQueue := { ring := n 8 8, words := n 16 4, cls := n 1 1, home := q.home, wr := 0, rd := 0, lastW := none
                             lastR := none, stopped := false, read := [] }
      answerRecord (s.modPart part fun p => { p with tasks := p.tasks.put (n 20 2) t }) part queue q a 5 0 0
    else answerRecord s part queue q a 3 0 0

/-! ## Completion (R266, R267, R377, R378) -/

/-- A core's drain entry is freed once it counts nothing (R377). -/
def execDrainReport (core : Nat) (launch : Word) (s : State) : Out :=
  .next <|
  let k := s.core core
  match k.drain.find? launch.toNat with
  | none => s
  | some d => if d.count = 0 && d.bands = 0 then s.setCore core { k with drain := k.drain.del launch.toNat } else s

/-- Requests and remote operations of a launch that are not performed, or not acknowledged. -/
def launchOwes (s : State) (id : Word) : Bool :=
  ((allRequests s).any fun r => r.ref.lnch = id) || s.remotes.any fun r => r.ref.lnch = id

/-- Every core has drained, no band is unbound, and every band has exited (R378); and the release of step 1 of R267 has what it
waits for: the accesses of the launch's threads, and at FABRIC scope the acknowledgements of what happens before it (R328,
R339). -/
def mayComplete (s : State) (id : Word) (l : Launch) : Bool :=
  !(s.cores.any fun e => e.2.drain.has id.toNat) && l.exited = l.nbound && (l.killed.isSome || l.nbound = bandsOf l.n)
  && !(s.bands.any fun e => e.2.lnch = id) && !(s.saved.any fun e => e.2.lnch = id)
  && !launchOwes s id && !unacknowledged s l.part

/-- Step 2 of R267: the completion word. A fault is reported, and the step is skipped. -/
def countCompletion (s : State) (id : Word) (l : Launch) : State :=
  if l.cw = 0 || l.counted then s
  else
    let u := { joiner l.part with cls := 5, heap := true, thb := l.thb, thl := l.thl, tho := l.tho }
    let ref : BandRef := { lnch := id, bid := 0, slot := 0 }
    match access s u l.cw (.rmw 8) true with
    | .error f => reportFault s l.part ref { f with lane := 127 } 0 0 0
    | .ok k => counterAdd s u ref true 0 0 k 1

/-- Step 4: the entry leaves the child table, and a kill is recorded (R268). -/
def Band.childDone (b : Band) (id : Word) (killed : Bool) : Band :=
  let b := { b with children := b.children.erase id }
  if !killed then b
  else if b.kills.length < 64 then { b with kills := b.kills ++ [id] } else { b with killsExtra := b.killsExtra + 1 }

/-- The frame of a launch ends, but for that of a firing, which its stage keeps (R390). -/
def endFrame (s : State) (l : Launch) : State :=
  match l.kind with
  | .firing _ _ => s
  | .queue _ | .child _ | .task _ => frameEnds s l.part l.frame.toNat

/-- The launch of a firing is over: its stage keeps how it ended (R390, R396). -/
def firingDone (s : State) (part : Nat) (h : Word) (stage : Nat) (killed : Option Nat) : State :=
  s.modPart part fun p => { p with graphs := p.graphs.adjust h.toNat fun g =>
    { g with stages := g.stages.modify stage fun x => { x with lnch := none, killed := killed } } }

/-- Steps 3 and 4 of R267. -/
def endLaunch (s : State) (id : Word) (l : Launch) : State :=
  let s := endFrame s l
  let s := match l.kind with
    | .child r => modRef s r (·.childDone id l.killed.isSome)
    | .firing h k => firingDone s l.part h k l.killed
    | .queue _ | .task _ => s
  { s with launches := s.launches.del id.toNat,
           quads := s.quads.map fun e => (e.1, { e.2 with reserved := e.2.reserved.filter fun r => r.1 ≠ id }) }

/-- The steps of R267 in their order: steps 3 and 4 follow once the addition to CW has been performed. -/
def completeLaunch (s : State) (id : Word) (l : Launch) : State :=
  let s := countCompletion s id l
  if launchOwes s id then s.modLaunch id fun l => { l with counted := true } else endLaunch s id l

/-- The completion of a launch; the end of a firing's launch is read by GRAPH_FIRING_END. -/
def execLaunchCompletion (launch : Word) (s : State) : Out :=
  .next <| match s.launches.find? launch.toNat with
  | none => s
  | some l => if mayComplete s launch l then completeLaunch s launch l else s

/-- A band, or one that has exited, with operations of its own under way. -/
def owesWork (s : State) (r : BandRef) : Bool :=
  let b := { Band.blank with lnch := r.lnch, bid := r.bid, slot := r.slot }
  (List.range 6).any fun k => !(underWay s b k).isEmpty

/-- DEADLINE_OVER of a launch (R373), with the record of the band at fault, for the launch's WORK, where that is still there. -/
def overdue (s : State) (id : Word) (slot first : Nat) (rcd : Nat → Option (Word × List Word)) : State :=
  match s.launches.find? id.toNat with
  | none => s
  | some l => match l.kind with
    | .firing _ _ => s
    | .queue _ | .child _ | .task _ =>
      if l.killed.isNone && first + l.work ≤ clockOf s (clusterOf slot) then
        killLaunch s id code.deadlineOver (rcd l.work)
      else s

/-- A DEADLINE band that has not met WORK when its count reaches it kills its launch: the one in the slot, and those that have exited
from it with work under way. -/
def execDeadlineWorkExpiry (slot : Nat) (s : State) : Out :=
  .next <|
  let s := match (s.bands.find? slot).bind fun b => if b.cls = 0 then b.first.map fun t => (b, t) else none with
    | some (b, t) => overdue s b.lnch slot t fun w => some (b.bid, plainRecord b slot code.deadlineOver [w32 w])
    | none => s
  (s.launches.flatMap fun e => e.2.left.filter fun x => x.1.slot = slot && owesWork s x.1).foldl
    (fun s x => overdue s x.1.lnch slot x.2 fun _ => none) s

end Sys2Proof.Machine
end

