-- ==== Sys2Proof/Machine/Graph.lean ====
section
/-!
DEFINITION. Rate-declared graphs: the balance, the firing sequence, placement and admission of a bind (R381 to R388, R393,
R399), the graph forms (R272 to R274, R395 to R398), and the firings (R389 to R396).
-/
namespace Sys2Proof.Machine

/-! ## Faults of a bind (R399) -/

/-- What a bind finds wrong: the code, and the stage, the edge (255 for none) and the reason. -/
structure GraphErr where
  code   : Nat
  stage  : Nat := 255
  edge   : Nat := 255
  reason : Nat := 0
  deriving DecidableEq, Repr

def fitErr (reason : Nat) (stage : Nat := 255) (edge : Nat := 255) : GraphErr :=
  { code := code.graphFit, stage := stage, edge := edge, reason := reason }

/-- The detail words (R399, R406). -/
def GraphErr.fault (e : GraphErr) (handle period : Word) : FaultAt :=
  { code := e.code, d := [w32 (e.stage + 256 * e.edge), w32 e.reason, handle, period] }

/-! ## Shapes (R382) -/

def GraphDecl.stage (d : GraphDecl) (k : Nat) : StageDecl :=
  d.stages.getD k { kind := 0, addr := 0, units := 0, rf := 0, tile := [], words := [] }
def GraphDecl.edge (d : GraphDecl) (k : Nat) : EdgeDecl := d.edges.getD k { frm := 0, dst := 0, prod := 0, cons := 0, recsz := 0 }
def GraphDecl.stageIds (d : GraphDecl) : List Nat := List.range d.stages.length
def GraphDecl.edgeIds (d : GraphDecl) : List Nat := List.range d.edges.length

def GraphDecl.ins (d : GraphDecl) (k : Nat) : List Nat := d.edgeIds.filter fun e => (d.edge e).dst = k
def GraphDecl.outs (d : GraphDecl) (k : Nat) : List Nat := d.edgeIds.filter fun e => (d.edge e).frm = k
/-- The edges that touch a stage, in index order. -/
def GraphDecl.ends (d : GraphDecl) (k : Nat) : List Nat :=
  d.edgeIds.filter fun e => (d.edge e).dst = k || (d.edge e).frm = k

def isEngine (x : StageDecl) : Bool := x.kind = 1 || x.kind = 3

/-- The record of a matrix firing (R391): the buffer for A, N = CONS. -/
def firingRecord (ws : List Word) (cb cons : Nat) : List Word :=
  ((ws.set 0 (w32 (2 ^ 31 + cb))).set 2 0).set 5 (w32 ((rword ws 5).toNat + cons))

/-- The target of a stage admits its ends. A matrix record that the firing could not post is no MLOOP record. -/
def stageShape (d : GraphDecl) (k : Nat) : Bool :=
  let x := d.stage k
  match x.kind with
  | 0 => x.addr < 2 ^ 48 && 1 ≤ x.units
  | 2 =>
    let w := rword x.words
    (d.outs k).isEmpty && (d.ins k).length = 1 && tileRecordOk x.tile && x.words.length = 7 && w 0 = 0 && w 2 = 0 && wfield (w 5) 15 0 = 0
    && recordOk 2 4 (firingRecord x.words 0 (d.edge ((d.ins k).getD 0 0)).cons)
  | _ =>
    (d.ends k).length = 1
    && (match streamRecord (wordsBytes x.words) with
        | none => false
        | some r => (d.edge ((d.ends k).getD 0 0)).recsz % 2 ^ r.esz = 0)

/-- The first stage that breaks R382. -/
def checkShapes (d : GraphDecl) : Option GraphErr :=
  d.stageIds.findSome? fun k =>
    if (d.ends k).length > 16 then some (fitErr 10 k) else if !stageShape d k then some (fitErr 8 k) else none

/-- Fills in the records that stages name, as they stand at the bind. -/
def fillStage (s : State) (part : Nat) (x : StageDecl) : StageDecl :=
  let words (a n : Nat) : List Word := ((wheelRead s part a (4 * n)).map (leWords n)).getD []
  match x.kind with
  | 0 => x
  | 2 => if x.addr < 2 ^ 48 then { x with tile := wordsBytes (words x.addr 2), words := words (x.addr + 8) 7 } else x
  | _ => { x with words := if x.addr < 2 ^ 48 then words x.addr 16 else [] }

def fillDecl (s : State) (part : Nat) (d : GraphDecl) : GraphDecl := { d with stages := d.stages.map (fillStage s part) }

/-! ## Balance (R383) -/

/-- A positive rational in lowest terms. -/
structure Ratio where
  num : Nat
  den : Nat
  deriving DecidableEq, Repr

def Ratio.make (n d : Nat) : Ratio := { num := n / Nat.gcd n d, den := d / Nat.gcd n d }

/-- The repeated step of Solve: the first edge with one end defined defines the other. The fuel is the stages. -/
def solveLoop (d : GraphDecl) : Nat → Tab Ratio → Tab Ratio
  | 0, q => q
  | n + 1, q =>
    match d.edges.find? fun e => q.has e.frm ≠ q.has e.dst with
    | none => q
    | some e => match q.find? e.frm, q.find? e.dst with
      | some x, _ => solveLoop d n (q.put e.dst (Ratio.make (x.num * e.prod) (x.den * e.cons)))
      | none, some y => solveLoop d n (q.put e.frm (Ratio.make (y.num * e.cons) (y.den * e.prod)))
      | none, none => q

/-- The smallest positive integers with the ratios. -/
def scaleUp (xs : List Ratio) : List Nat :=
  let l := xs.foldl (fun m x => Nat.lcm m x.den) 1
  let ns := xs.map fun x => x.num * (l / x.den)
  let g := ns.foldl Nat.gcd 0
  ns.map (· / g)

def solve (d : GraphDecl) : Except GraphErr (List Nat) :=
  let q := solveLoop d d.stages.length [(0, { num := 1, den := 1 })]
  let at_ (k : Nat) : Ratio := q.getD k { num := 1, den := 1 }
  match d.stageIds.find? fun k => !q.has k with
  | some k => .error { code := code.graphRate, stage := k }
  | none =>
    match d.edgeIds.find? fun e =>
      let x := d.edge e
      (at_ x.frm).num * x.prod * (at_ x.dst).den ≠ (at_ x.dst).num * x.cons * (at_ x.frm).den with
    | some e => .error { code := code.graphRate, stage := (d.edge e).frm, edge := e }
    | none => .ok (scaleUp (d.stageIds.map at_))

/-! ## Cycles and the firing sequence (R384, R385) -/

/-- The stages reachable from a set, given enough rounds. -/
def reach (d : GraphDecl) : Nat → List Nat → List Nat
  | 0, xs => xs
  | n + 1, xs => reach d n (xs ++ ((d.edges.filter fun e => xs.contains e.frm).map (·.dst)).filter fun k => !xs.contains k).eraseDups

/-- The lowest stage on a cycle, and the lowest edge that leaves it along one. -/
def findCycle (d : GraphDecl) : Option (Nat × Nat) :=
  d.stageIds.findSome? fun k => ((d.outs k).find? fun e => (reach d 32 [(d.edge e).dst]).contains k).map fun e => (k, e)

structure Sched where
  left : Tab Nat
  occ  : Tab Nat
  peak : Tab Nat
  seq  : List Nat
  deriving DecidableEq, Repr

/-- One step of Schedule: the largest stage that may fire. -/
def schedStep (d : GraphDecl) (x : Sched) : Option Sched :=
  match d.stageIds.reverse.find? fun k =>
      x.left.getD k 0 > 0 && (d.ins k).all fun e => (d.edge e).cons ≤ x.occ.getD e 0 with
  | none => none
  | some k =>
    let occ := (d.ins k).foldl (fun o e => o.put e (o.getD e 0 - (d.edge e).cons)) x.occ
    let occ := (d.outs k).foldl (fun o e => o.put e (o.getD e 0 + (d.edge e).prod)) occ
    let peak := (d.outs k).foldl (fun p e => p.put e (max (p.getD e 0) (occ.getD e 0))) x.peak
    some { left := x.left.put k (x.left.getD k 0 - 1), occ := occ, peak := peak, seq := x.seq ++ [k] }

def schedLoop (d : GraphDecl) : Nat → Sched → Sched
  | 0, x => x
  | n + 1, x => match schedStep d x with
    | none => x
    | some y => schedLoop d n y

/-- The sequence and the slots of each buffer. -/
def schedule (d : GraphDecl) (q : List Nat) : List Nat × List Nat :=
  let x := schedLoop d (q.foldl (· + ·) 0) { left := q.zipIdx.map fun e => (e.2, e.1), occ := [], peak := [], seq := [] }
  (x.seq, d.edgeIds.map fun e => x.peak.getD e 0)

/-! ## Placement (R386, R387) -/

/-- The stage of a bound graph that a slot is reserved for (R380): the handle and the stage. -/
def slotStage (s : State) (slot : Nat) : Option (Nat × Nat) :=
  s.parts.findSome? fun (e : Nat × Partition) => e.2.graphs.findSome? fun (g : Nat × BoundGraph) =>
    (g.2.stages.findIdx? fun x => x.slot = slot).map fun k => (g.1, k)

def slotFree (s : State) (slot : Nat) : Bool := !s.bands.has slot && (s.slot slot).state = 0 && (slotStage s slot).isNone

/-- A core with a loader or storer slot of a running graph, other than the one of a partition and handle (R380). -/
def roleCore (s : State) (core : Nat) (own : Option (Nat × Nat)) : Bool :=
  s.parts.any fun e => e.2.graphs.any fun (g : Nat × BoundGraph) =>
    (g.2.state = 1 || g.2.state = 2) && own ≠ some (e.1, g.1)
    && g.2.stages.any fun x => (x.role = 1 || x.role = 2) && coreOf x.slot = core && x.slot ≠ 0xFFFF

/-- The lowest free slot of a quadrant; the core of another running graph's loaders or storers has none (R380). -/
def quadSlot (s : State) (used : List Nat) (q : Nat) : Option Nat :=
  if roleCore s (q / 4) none then none
  else ((List.range 8).map (8 * q + ·)).find? fun n => slotFree s n && !used.contains n

/-- The quadrants of a core that a partition owns. -/
def coreQuads (s : State) (part core : Nat) : List Nat :=
  ((List.range 4).map (4 * core + ·)).filter fun q => (s.part part).quads.contains q

/-- A buffer as it is placed: its slice, and the first word of its tiles. -/
structure BufPlace where
  slice : Nat
  cb    : Nat
  tile0 : Nat
  nslot : Nat
  word  : Nat
  len   : Nat
  deriving DecidableEq, Repr

/-- Slots of the stages, by stage. -/
abbrev Slots := Tab Nat

/-- Step 1, for the entry stages k, cycling through the quadrants. -/
def placeEntries (s : State) (qs : List Nat) : Nat → List Nat → Slots → Except GraphErr Slots
  | _, [], t => .ok t
  | i, k :: ks, t => match quadSlot s (t.map Prod.snd) (qs.getD (i % qs.length) 0) with
    | none => .error (fitErr 6 k)
    | some n => placeEntries s qs (i + 1) ks (t.put k n)

/-- The slice of an edge: that of its consumer's quadrant, or of its producer's, an entry or a stream loader. The quadrant of a
matrix stage is that of its buffer, so that such an edge lies with its producer (log 40). `t` holds the slots of the entries
and of the loaders. -/
def edgeSlice (d : GraphDecl) (t : Slots) (e : Nat) : Nat :=
  let x := d.edge e
  match (if (d.stage x.dst).kind = 0 then t.find? x.dst else none), (if (d.stage x.frm).kind = 0 || (d.stage x.frm).kind = 3 then t.find? x.frm else none) with
  | some n, _ => quadOf n % 4
  | none, some n => quadOf n % 4
  | none, none => 0

/-- The words of a slice that defined tiles and placed buffers cover: start and end. -/
def covered (k : CoreState) (slice : Nat) (bufs : List BufPlace) : List (Nat × Nat) :=
  (k.tiles.filter fun (e : Nat × Tile) => e.1 / 256 = slice && e.2.len ≠ 0).map (fun (e : Nat × Tile) => (e.2.base, e.2.base + e.2.len))
  ++ (bufs.filter fun b => b.slice = slice).map fun b => (b.word, b.word + b.nslot * b.len)

/-- The lowest run of n words that nothing covers. -/
def wordRun (cov : List (Nat × Nat)) (n : Nat) : Option Nat :=
  (((0 :: cov.map (·.2)).filter fun w => w + n ≤ 17408 && cov.all fun c => w + n ≤ c.1 || c.2 ≤ w)).min?

/-- Places one buffer on the compute core. -/
def placeEdge (s : State) (part core : Nat) (d : GraphDecl) (t : Slots) (nslot e : Nat) (bufs : List BufPlace) :
    Except GraphErr BufPlace :=
  let k := s.core core
  let q := edgeSlice d t e
  let len := ((d.edge e).recsz + 15) / 16
  let tileUsed (n : Nat) : Bool :=
    (k.tiles.find? n).any (fun x => x.len ≠ 0) || bufs.any fun b => b.tile0 ≤ n && n < b.tile0 + b.nslot
  if sliceOwner s core q ≠ part then .error (fitErr 5 255 e)
  else match ((List.range 8).map (8 * q + ·)).find? fun n => !k.cbs.has n && !bufs.any fun b => b.cb = n with
  | none => .error (fitErr 5 255 e)
  | some cb =>
  match ((List.range (257 - nslot)).map (256 * q + ·)).find? fun t0 => (List.range nslot).all fun j => !tileUsed (t0 + j) with
  | none => .error (fitErr 12 255 e)
  | some t0 =>
  match wordRun (covered k q bufs) (nslot * len) with
  | none => .error (fitErr 4 255 e)
  | some w => .ok { slice := q, cb := cb, tile0 := t0, nslot := nslot, word := w, len := len }

def placeEdges (s : State) (part core : Nat) (d : GraphDecl) (t : Slots) : List (Nat × Nat) → List BufPlace →
    Except GraphErr (List BufPlace)
  | [], bufs => .ok bufs
  | (e, n) :: es, bufs => match placeEdge s part core d t n e bufs with
    | .error x => .error x
    | .ok b => placeEdges s part core d t es (bufs ++ [b])

/-- The lowest free slot of a partition on a core. -/
def coreSlot (s : State) (part : Nat) (t : Slots) (core : Nat) : Option Nat :=
  (coreQuads s part core).findSome? (quadSlot s (t.map Prod.snd))

/-- Step 3, for the loader stages or the storer stages: their core and slots. -/
def placeStreams (s : State) (part ccore : Nat) (ks : List Nat) (t : Slots) : Except GraphErr (Nat × Slots) :=
  match ks with
  | [] => .ok (255, t)
  | k0 :: _ =>
    let others := ((List.range 8).map (ccore / 8 * 8 + ·)).filter (· ≠ ccore)
    match (others.find? fun c => (coreSlot s part t c).isSome) <|> (if (coreSlot s part t ccore).isSome then some ccore else none) with
    | none => .error (fitErr 6 k0)
    | some c =>
      ks.foldl (fun r k => match r with
        | .error x => .error x
        | .ok (_, t) => match coreSlot s part t c with
          | none => .error (fitErr 6 k)
          | some n => .ok (c % 8, t.put k n)) (.ok (c % 8, t))

/-- The stream stages that are loaders, or storers. -/
def streamStages (d : GraphDecl) (loader : Bool) : List Nat :=
  d.stageIds.filter fun k => (d.stage k).kind = 3 && (d.outs k).isEmpty = !loader

/-- The slots of step 1, with those that step 3 gives the loader stages, whose quadrants place their edges (R387). -/
def loaderSlots (s : State) (part core : Nat) (d : GraphDecl) (t : Slots) : Slots :=
  match placeStreams s part core (streamStages d true) t with
  | .ok (_, t) => t
  | .error _ => t

/-- Step 1 on one core. -/
def placeCore (s : State) (part : Nat) (d : GraphDecl) (nslot : List Nat) (core : Nat) : Except GraphErr (Slots × List BufPlace) :=
  match placeEntries s (coreQuads s part core) 0 (d.stageIds.filter fun k => (d.stage k).kind = 0) [] with
  | .error x => .error x
  | .ok t => match placeEdges s part core d (loaderSlots s part core d t) (d.edgeIds.map fun e => (e, nslot.getD e 0)) [] with
    | .error x => .error x
    | .ok bufs => .ok (t, bufs)

/-- The first of several places that does; else what was wrong with the first. -/
def firstOk {α : Type} (dflt : GraphErr) (f : Nat → Except GraphErr α) : List Nat → Except GraphErr α
  | [] => .error dflt
  | k :: ks => match f k with
    | .ok x => .ok x
    | .error e => match firstOk e f ks with
      | .ok x => .ok x
      | .error _ => .error e

/-- A stage's accumulator tile, and the quadrant it lies in (step 2). -/
def matrixPlace (d : GraphDecl) (core : Nat) (bufs : List BufPlace) (k : Nat) : Nat × Nat :=
  let b := (d.ins k).getD 0 0
  (4 * core + (bufs.getD b { slice := 0, cb := 0, tile0 := 0, nslot := 0, word := 0, len := 0 }).slice,
   wfield (rword (d.stage k).words 5) 18 16)

def matrixStages (d : GraphDecl) : List Nat := d.stageIds.filter fun k => (d.stage k).kind = 2

/-- Step 2: the first matrix stage whose accumulator is not free, or is that of an earlier stage. -/
def checkAccs (s : State) (d : GraphDecl) (core : Nat) (bufs : List BufPlace) : Option GraphErr :=
  ((matrixStages d).find? fun k =>
    let p := matrixPlace d core bufs k
    (s.quad p.1).accOwn.has p.2 || (matrixStages d).any fun j => j < k && matrixPlace d core bufs j = p).map (fitErr 9 ·)

/-- A standing lease of a copy engine of a die (step 4, R438). The key of the engine. -/
def freeEngine (s : State) (part die : Nat) (taken : List Nat) : Option Nat :=
  let keys := (List.range (Config.poolSize 0)).map (128 * die + ·)
  let held := keys.filter fun k => s.engines.find? k = some part || taken.contains k
  let open_ (k : Nat) : Bool := !s.standing.has k && !taken.contains k
  match keys.find? fun k => open_ k && s.engines.find? k = some part with
  | some k => some k
  | none =>
    if held.length < (s.part part).leases.getD (6 * die + 1) 0 then keys.find? fun k => open_ k && !s.engines.has k else none

def placeCopies (s : State) (part die : Nat) : List Nat → List Nat → Except GraphErr (List Nat)
  | [], es => .ok es
  | k :: ks, es => match freeEngine s part die es with
    | none => .error (fitErr 7 k)
    | some e => placeCopies s part die ks (es ++ [e])

/-- A placement in one cluster. -/
structure Placement where
  ccore   : Nat
  lcore   : Nat
  score   : Nat
  slots   : Slots
  bufs    : List BufPlace
  engines : List Nat
  deriving DecidableEq, Repr

def placeCluster (s : State) (part : Nat) (d : GraphDecl) (nslot : List Nat) (cluster : Nat) : Except GraphErr Placement :=
  let cores := ((List.range 8).map (8 * cluster + ·)).filter fun c => !(coreQuads s part c).isEmpty
  let one (c : Nat) := match placeCore s part d nslot c with
    | .error x => Except.error x
    | .ok p => .ok (c, p)
  match firstOk (fitErr 6) one cores with
  | .error x => .error x
  | .ok (c, t, bufs) =>
  match checkAccs s d c bufs with
  | some x => .error x
  | none =>
  match placeStreams s part c (streamStages d true) t with
  | .error x => .error x
  | .ok (l, t) =>
  match placeStreams s part c (streamStages d false) t with
  | .error x => .error x
  | .ok (r, t) =>
  match placeCopies s part (dieOfCluster cluster) (d.stageIds.filter fun k => (d.stage k).kind = 1) [] with
  | .error x => .error x
  | .ok es => .ok { ccore := c % 8, lcore := l, score := r, slots := t, bufs := bufs, engines := es }

/-- The clusters of a partition, ascending. -/
def partClusters (s : State) (part : Nat) : List Nat :=
  (List.range 16).filter fun c => (s.part part).quads.any fun q => q / 32 = c

def place (s : State) (part : Nat) (d : GraphDecl) (nslot : List Nat) : Except GraphErr (Nat × Placement) :=
  firstOk (fitErr 6) (fun c => match placeCluster s part d nslot c with
    | .error x => .error x
    | .ok p => .ok (c, p)) (partClusters s part)

/-! ## Admission (R393) -/

/-- The firing time of an engine stage. -/
def engineTime (d : GraphDecl) (k : Nat) : Nat :=
  let e := d.edge ((d.ends k).getD 0 0)
  match (d.stage k).kind with
  | 2 => 20 + 512 * e.cons
  | _ => 2000 + ((if (d.outs k).isEmpty then e.cons else e.prod) * e.recsz + 63) / 64

/-- Admit(b): ALLOW and PBOUND, or refused. -/
def admitGraph (d : GraphDecl) (q : List Nat) (b : Nat) : Option (Nat × Nat) :=
  if b = 0 then some (0, 0)
  else
    let entries := d.stageIds.filter fun k => (d.stage k).kind = 0
    let n := entries.foldl (fun x k => x + q.getD k 0) 0
    let g := (d.stageIds.filter fun k => (d.stage k).kind ≠ 0).foldl (fun x k => x + q.getD k 0 * (engineTime d k + 600)) 0
    let allow : Int := if n = 0 then 0 else ((3600 * b : Nat) - 20000 - g - 600 * n : Int) / n
    if n > 0 && allow < 2000 then none
    else
      let pbound := 20000 + g + n * (allow.toNat + 600)
      if pbound > 3600 * b then none else some (allow.toNat, pbound)

/-! ## The firing table (R388) -/

def stageRole (d : GraphDecl) (k : Nat) : Nat :=
  match (d.stage k).kind with
  | 0 => 3
  | 3 => if (d.outs k).isEmpty then 2 else 1
  | _ => 0

def tableBytes (g : BoundGraph) (handle : Word) : List Byte :=
  let d := g.decl
  leBytes 4 handle.toNat ++ leBytes 4 g.gnum ++ leBytes 2 d.stages.length ++ leBytes 2 g.sequence.length ++ leBytes 4 g.allow
  ++ leBytes 4 g.pbound ++ leBytes 1 g.cluster ++ leBytes 1 g.ccore ++ leBytes 1 g.lcore ++ leBytes 1 g.score
  ++ leBytes 8 g.pnum.toNat ++ zeros 32
  ++ ((g.stages.zip d.stages).flatMap fun e => leBytes 2 e.1.q ++ leBytes 1 e.2.kind ++ leBytes 1 e.1.role
        ++ leBytes 2 e.1.slot ++ zeros 2 ++ leBytes 4 e.1.time ++ zeros 4)
  ++ ((g.edges.zip d.edges).flatMap fun e => leBytes 1 e.1.cb ++ leBytes 1 (e.1.nslot - 1) ++ leBytes 2 e.1.tile0
        ++ leBytes 4 e.2.recsz ++ zeros 8)
  ++ (g.sequence.flatMap fun k => leBytes 2 k)

/-- The bytes of the block. -/
def tableSize (d : GraphDecl) (nfire : Nat) : Nat :=
  (64 + 16 * d.stages.length + 16 * d.edges.length + 2 * nfire + 63) / 64 * 64

/-- The frames of the entry stages, by stage (R390). -/
def takeFrames (part : Nat) (d : GraphDecl) : List Nat → Tab Nat → State → Option (Tab Nat × State)
  | [], t, s => some (t, s)
  | k :: ks, t, s =>
    let u := (d.stage k).units
    let h : Header := { parent := 0, launch := 0, units := u, level := 0, state := 1, children := 0, cw := 0 }
    match makeFrame s part h (zeros (64 * u)) with
    | none => none
    | some (a, s) => takeFrames part d ks (t.put k a) s

/-! ## Taking and returning the resources -/

/-- Defines the tiles and the buffer of an edge, with both ends of the graph (R387). -/
def defineEdge (s : State) (part core : Nat) (handle : Word) (x : EdgeDecl) (b : BufPlace) : State :=
  let k := s.core core
  let tiles := (List.range b.nslot).foldl (fun t j =>
    Tab.put t (b.tile0 + j) { Tile.undefined with base := b.word + j * b.len, len := b.len, state := 2 }) k.tiles
  let cb : CircBuf := { tile0 := b.tile0, nslot := b.nslot, recsz := x.recsz, pp := 0, cp := 0
                        prod := some (.graph part handle x.frm), cons := some (.graph part handle x.dst) }
  s.setCore core { k with tiles := tiles, cbs := k.cbs.put b.cb cb }

def gcore (g : BoundGraph) : Nat := 8 * g.cluster + g.ccore

/-- The matrix stages of a bound graph: quadrant and accumulator. -/
def graphAccs (g : BoundGraph) : List (Nat × Nat) :=
  (g.stages.zip g.decl.stages).filterMap fun e =>
    if e.2.kind = 2 then some (e.1.quad, wfield (rword e.2.words 5) 18 16) else none

/-- Copies that the graph holds a standing lease for. -/
def standingKey (part : Nat) (handle : Word) : Nat := part * 2 ^ 32 + handle.toNat

/-- Places a declaration whose balance is q for a handle: the graph in the state bound, or what does not fit; none where
admission refuses, after the space has been checked (R399). -/
def takeGraph (s : State) (part : Nat) (handle : Word) (gnum budget cls : Nat) (d : GraphDecl) (q seq nslot : List Nat) :
    Except GraphErr (Option (BoundGraph × State)) :=
  match place s part d nslot with
  | .error x => .error x
  | .ok (cluster, p) =>
  match takeHeap s part (tableSize d seq.length) with
  | none => .error (fitErr 11)
  | some (table, s) =>
  match takeFrames part d (d.stageIds.filter fun k => (d.stage k).kind = 0) [] s with
  | none => .error (fitErr 11)
  | some (frames, s) =>
  match admitGraph d q budget with
  | none => .ok none
  | some (allow, pbound) =>
    let core := 8 * cluster + p.ccore
    let stage (k : Nat) : StagePlace :=
      { q := q.getD k 0, slot := p.slots.getD k 0xFFFF, role := stageRole d k
        time := if (d.stage k).kind = 0 then allow else engineTime d k
        quad := if (d.stage k).kind = 2 then (matrixPlace d core p.bufs k).1 else quadOf (p.slots.getD k 0)
        frame := frames.getD k 0, pos := 0, renewed := false, fired := 0, period := 0, running := none, lnch := none, killed := none }
    let g : BoundGraph :=
      { gnum := gnum, decl := d, state := 0, cls := cls, cluster := cluster, ccore := p.ccore, lcore := p.lcore
        score := p.score, allow := allow, pbound := pbound, budget := budget, table := table
        stages := d.stageIds.map stage, edges := p.bufs.map fun b => { cb := b.cb, nslot := b.nslot, tile0 := b.tile0 }
        sequence := seq, started := seq.length, period := 0, pnum := 0, rebind := none, faulted := false }
    let s := (d.edges.zip p.bufs).foldl (fun s e => defineEdge s part core handle e.1 e.2) s
    let s := (graphAccs g).foldl (fun s a => ownAccs s a.1 (.graph part handle) [a.2]) s
    let s := p.engines.foldl (fun s k =>
      { s with standing := s.standing.put k (standingKey part handle), engines := s.engines.put k part }) s
    .ok (some (g, wheelWrite s part table (tableBytes g handle)))

/-- Frees an accumulator tile (R28, R231). -/
def freeAcc (s : State) (q t : Nat) : State :=
  let qd := s.quad q
  s.setQuad q { qd with accOwn := qd.accOwn.del t, accFmt := qd.accFmt.del t, accBad := qd.accBad.del t
                        acc := qd.acc.filter fun e => e.1 / 1024 ≠ t }

/-- Everything that a graph holds is returned (R398). `heir` takes the accumulators, which are free without one. -/
def dropGraph (s : State) (part : Nat) (handle : Word) (g : BoundGraph) (heir : Option BandRef) : State :=
  let k := s.core (gcore g)
  let s := s.setCore (gcore g)
    { k with tiles := k.tiles.filter fun e => !g.edges.any fun x => x.tile0 ≤ e.1 && e.1 < x.tile0 + x.nslot
             cbs := k.cbs.filter fun e => !g.edges.any fun x => x.cb = e.1 }
  let s := (graphAccs g).foldl (fun s a => match heir with
    | none => freeAcc s a.1 a.2
    | some r => let qd := s.quad a.1
                s.setQuad a.1 { qd with accOwn := qd.accOwn.put a.2 (.band r) }) s
  let mine (k : Nat) : Bool := s.standing.find? k = some (standingKey part handle)
  let s := { s with standing := s.standing.filter (fun e => !mine e.1), engines := s.engines.filter fun e => !mine e.1 }
  let s := g.stages.foldl (fun s x => if x.frame = 0 then s else frameEnds s part x.frame) s
  let s := giveHeap s part g.table
  s.modPart part fun p => { p with graphs := p.graphs.del handle.toNat }

/-! ## A bind (R399) -/

/-- The checks of R399 in their order. -/
def bindGraph (s : State) (part : Nat) (handle : Word) (gnum : Word) (budget cls : Nat) :
    Except GraphErr (Option (BoundGraph × State)) :=
  match (if gnum.toNat < 256 then (s.part part).graphTable.find? gnum.toNat else none) with
  | none => .error { code := code.graphUnknown }
  | some d =>
  if !d.ok then .error { code := code.graphUnknown } else
  let d := fillDecl s part d
  match checkShapes d with
  | some x => .error x
  | none =>
  match solve d with
  | .error x => .error x
  | .ok q =>
  match (List.range q.length).find? fun k => q.getD k 0 > 65535 with
  | some k => .error (fitErr 1 k)
  | none =>
  if q.foldl (· + ·) 0 > 4096 then .error (fitErr 2) else
  match findCycle d with
  | some (k, e) => .error { code := code.graphDeadlock, stage := k, edge := e }
  | none =>
  let (seq, nslot) := schedule d q
  match (List.range nslot.length).find? fun e => nslot.getD e 0 > 256 with
  | some e => .error (fitErr 3 255 e)
  | none => takeGraph s part handle gnum.toNat budget cls d q seq nslot

/-- The first nonzero handle from a word on that no graph of the partition has. -/
def freeHandle (s : State) (part : Nat) (w : Word) : Word :=
  let used := (s.part part).graphs
  match (List.range (used.length + 2)).find? fun k => w + w32 k ≠ 0 && !used.has (w + w32 k).toNat with
  | some k => w + w32 k
  | none => w

/-- A bound graph enters the table of its partition. -/
def putGraph (s : State) (part : Nat) (handle : Word) (g : BoundGraph) : State :=
  s.modPart part fun p => { p with graphs := p.graphs.put handle.toNat g }

/-- The class of firings without a budget (R393). -/
def firingClass (cls : Nat) : Nat := if cls = 0 then 2 else cls

/-- gbind waits for Plumb; its arrival is kept with the wait (R399). -/
def gbindCore (_ : Captured) (s : State) : Ans :=
  let (n, s) := s.nextSeq
  .wait .gbind [(n, true)] (s.modBand Band.needBoundary)

def execGbind (d g b : SReg) (s : State) : Out :=
  form (.gbind d g b) s always (fun x => x.cap (.gbind d g b) [g.val, b.val] [] 0) gbindCore

/-- The arrivals of the binds that bands of a partition wait for, bound or saved. -/
def bindArrivals (s : State) (part : Nat) : List Nat :=
  (s.bands ++ s.saved).flatMap fun e => if e.2.part ≠ part then [] else
    (List.range 8).filterMap fun k => (waiting? e.2 k .gbind).map fun w => ((w.phases.head?).map Prod.fst).getD 0

/-- Plumb's answer to the band of `cur`: the handle is a number that the spec does not give (log 41). -/
def gbindAnswer (c : Captured) (s : State) : Ans :=
  let b := s.band
  let (w, t) := s.draw
  let h := freeHandle s b.part w
  let budget := (c.scalars.getD 1 0).toNat
  match bindGraph t b.part h (c.scalars.getD 0 0) budget (firingClass b.cls) with
  | .error x => .fault [x.fault 0 0] c.mask [] s
  | .ok none => .done [sWrite (destOf c.word).val 0] s
  | .ok (some (g, t)) => .done [sWrite (destOf c.word).val h] (putGraph t b.part h g)

/-- A wait for a bind that no other of the partition comes before. -/
def bindIsNext (s : State) (part : Nat) (w : Wait) : Bool :=
  !((bindArrivals s part).any fun m => m < ((w.phases.head?).map Prod.fst).getD 0)

/-- The key under which a saved band stands in no slot while an answer is written to it. -/
def noSlot : Nat := 4096

/-- Plumb's answer to a band saved under a key: it is kept with the band (R295). A fault is left for the resumption. -/
def answerSaved (s : State) (key path : Nat) (b : Band) (w : Wait) : State :=
  let t := { s with bands := s.bands.put noSlot b, cur := noSlot }.modBand (·.switchTo path)
  match gbindAnswer w.cap t with
  | .done ws u =>
    let v := onPath { s with bands := s.bands.put noSlot b, cur := noSlot } path fun _ => finish w.cap (.done ws u) u
    { v with bands := v.bands.del noSlot, saved := v.saved.put key v.band, cur := s.cur }
  | _ => s

/-- The bind that arrived first in its partition is answered: that of the band in a slot, or of a band saved from it. -/
def execGbindAnswer (slot path : Nat) (s : State) : Out :=
  .next <| match waitOf s slot path .gbind, s.bands.find? slot with
  | some w, some b => if bindIsNext s b.part w then wake slot path .gbind gbindAnswer s else s
  | none, _ | _, none =>
    match s.saved.keyWhere fun _ b => b.slot = slot && (waiting? b path .gbind).any (bindIsNext s b.part) with
    | none => s
    | some key => match s.saved.find? key, (s.saved.find? key).bind fun b => waiting? b path .gbind with
      | some b, some w => answerSaved s key path b w
      | none, _ | _, none => s

/-! ## Periods (R395 to R397) -/

def graphAt (s : State) (part : Nat) (h : Word) : Option BoundGraph := (s.part part).graphs.find? h.toNat

/-- The next period begins: PNUM counts it, in the table too. -/
def beginPeriod (s : State) (part : Nat) (h : Word) (g : BoundGraph) : State :=
  let g := { g with started := 0, period := g.pnum.toNat % 2 ^ 32, pnum := g.pnum + 1
                    stages := g.stages.map fun x => { x with fired := 0 } }
  putGraph (wheelWrite s part (g.table + 24) (leBytes 8 g.pnum.toNat)) part h g

/-- Neither rates nor stages differ (R397). -/
def sameStructure (a b : GraphDecl) : Bool :=
  a.edges = b.edges && a.stages.map (·.kind) = b.stages.map (·.kind)

/-- A tile of t keeps the format and the elements that it has in s. -/
def keepAcc (s t : State) (a : Nat × Nat) : State :=
  let old := s.quad a.1
  let new := setAcc (t.quad a.1) a.2 (accCode old a.2)
  t.setQuad a.1 { new with accBad := if old.accBad.has a.2 then new.accBad.put a.2 () else new.accBad.del a.2
                           accFmt := if accIs64 old a.2 then new.accFmt.put a.2 1 else new.accFmt.del a.2 }

/-- A new binding takes the place of the old one at once. Where it no longer fits, the old one stays (log 42). An accumulator
that both name is the graph's throughout, and keeps its sums (R386, R398). -/
def replaceGraph (s : State) (part : Nat) (h : Word) (g : BoundGraph) (gnum : Word) : State :=
  match bindGraph (dropGraph s part h g none) part h gnum g.budget g.cls with
  | .error _ | .ok none => putGraph s part h { g with rebind := none }
  | .ok (some (n, t)) =>
    let t := ((graphAccs n).filter (graphAccs g).contains).foldl (keepAcc s) t
    let n := { n with state := g.state, period := g.period, pnum := g.pnum }
    putGraph (wheelWrite t part (n.table + 24) (leBytes 8 n.pnum.toNat)) part h n

/-- The tiles of a quadrant that a graph owns, names no more and no command of it still adds to, are free (R397). -/
def strayAccs (s : State) (part : Nat) (h : Word) (g : BoundGraph) (q : Nat) : State :=
  let qd := s.quad q
  let stray (e : Nat × AccOwner) : Bool :=
    e.2 = .graph part h && !(graphAccs g).contains (q, e.1) && !qd.queue.any fun c => c.accs.contains e.1
  (qd.accOwn.filter stray).foldl (fun s e => freeAcc s q e.1) s

/-- New targets in the old places (R397): the frames of entries whose size differs are taken anew, and the accumulators
are those of the new records; an old one is free once no firing adds to it. Where a new one has become busy, the old binding
stays (log 42). -/
def retarget (s : State) (part : Nat) (h : Word) (g : BoundGraph) (gnum : Nat) (d : GraphDecl) : State :=
  let entries := d.stageIds.filter fun k => (d.stage k).kind = 0 && (d.stage k).units ≠ (g.decl.stage k).units
  let old := g.stages
  let freed := entries.foldl (fun s k => match old[k]? with
    | none => s
    | some x => frameEnds s part x.frame) s
  let new := graphAccs { g with decl := d }
  let busy (a : Nat × Nat) : Bool := match (s.quad a.1).accOwn.find? a.2 with
    | none => false
    | some o => o ≠ .graph part h
  match (if new.any busy then none else takeFrames part d entries [] freed) with
  | none => putGraph s part h { g with rebind := none }
  | some (t, s) =>
    let s := new.foldl (fun s a => ownAccs s a.1 (.graph part h) [a.2]) s
    let was := graphAccs g
    let g := { g with gnum := gnum, decl := d, rebind := none
                      stages := old.zipIdx.map fun e => { e.1 with pos := 0, renewed := true, frame := t.getD e.2 e.1.frame } }
    let s := was.foldl (fun s a => strayAccs s part h g a.1) s
    putGraph (wheelWrite s part g.table (tableBytes g h)) part h g

/-- Whether a firing runs. -/
def busyGraph (g : BoundGraph) : Bool := g.stages.any fun x => x.running.isSome

/-- The graph is stopped: its records are discarded, and the next start begins at entry 0 (R396). A rebinding that waits takes effect, in
the old places where the structure is unchanged (R397). -/
def stopGraph (s : State) (part : Nat) (h : Word) (g : BoundGraph) : State :=
  let k := s.core (gcore g)
  let s := s.setCore (gcore g)
    { k with cbs := k.cbs.map fun e => if g.edges.any fun x => x.cb = e.1 then (e.1, { e.2 with cp := e.2.pp }) else e }
  let g := { g with state := 3, started := g.sequence.length, faulted := false }
  match g.rebind with
  | none => putGraph s part h g
  | some (n, d) =>
    let s := putGraph s part h g
    if sameStructure g.decl d then retarget s part h g n d else replaceGraph s part h g (w32 n)

/-- What follows from the counts of a graph: the next period begins once every firing of this one has started; at a
boundary a deferred rebinding takes effect, or the graph stops (R395 to R397). The new targets of a graph wait for the
firings of the old ones. -/
def settleGraph (s : State) (part : Nat) (h : Word) : State :=
  match graphAt s part h with
  | none => s
  | some g =>
    let ended := g.started = g.sequence.length
    if g.state = 1 && ended then
      match g.rebind with
      | none => beginPeriod s part h g
      | some (n, d) =>
        if sameStructure g.decl d then
          if g.stages.zipIdx.any fun e => e.1.running.isSome && (d.stage e.2).units ≠ (g.decl.stage e.2).units then s
          else
            let s := retarget s part h g n d
            match graphAt s part h with
            | none => s
            | some g => beginPeriod s part h g
        else if busyGraph g then s
        else
          let s := replaceGraph s part h g (w32 n)
          match graphAt s part h with
          | none => s
          | some g => beginPeriod s part h g
    else if g.state = 2 && !busyGraph g && (ended || g.faulted) then stopGraph s part h g
    else s

/-! ## gstart, gstop, grebind -/

/-- A handle of the band's partition, or its fault. -/
def withGraph (c : Captured) (s : State) (k : Nat) (f : Word → BoundGraph → Ans) : Ans :=
  let h := c.scalars.getD k 0
  match graphAt s s.band.part h with
  | none => .fault [GraphErr.fault { code := code.graphHandle } h 0] c.mask [] s
  | some g => f h g

/-- GRAPH_STATE (R273). -/
def stateFault (c : Captured) (s : State) (h : Word) (g : BoundGraph) : Ans :=
  .fault [GraphErr.fault { code := code.graphState } h (w32 g.period)] c.mask [] s

/-- gstart: the first period after the start begins (R395). -/
def gstartCore (c : Captured) (s : State) : Ans :=
  withGraph c s 0 fun h g =>
    if g.state = 1 || g.state = 2 then stateFault c s h g
    else .done [] (beginPeriod (s.modBand Band.needBoundary) s.band.part h { g with state := 1 })

def execGstart (h : SReg) (s : State) : Out :=
  form (.gstart h) s always (fun x => x.cap (.gstart h) [h.val] [] 0) gstartCore

/-- gstop (R272): mode 2 unbinds, and the accumulators pass to the band (R398). -/
def gstopCore (c : Captured) (s : State) : Ans :=
  let m := c.scalars.getD 1 0
  if m.toNat > 2 then .early { code := code.illegal }
  else withGraph c s 0 fun h g =>
    let t := s.modBand Band.needBoundary
    if m = 2 then
      if g.state = 1 || g.state = 2 then stateFault c s h g else .done [] (dropGraph t s.band.part h g (some s.me))
    else
      let t := if g.state = 1 then settleGraph (putGraph t s.band.part h { g with state := 2 }) s.band.part h else t
      if m = 1 && (graphAt t s.band.part h).any fun g => g.state = 1 || g.state = 2 then .wait .gstop [] t else .done [] t

def execGstop (h m : SReg) (s : State) : Out :=
  form (.gstop h m) s always (fun x => x.cap (.gstop h m) [h.val, m.val] [] 0) gstopCore

/-- A gstop that waits returns once the graph is stopped, or is no more. -/
def gstopWait (c : Captured) (s : State) : Ans :=
  match graphAt s s.band.part (c.scalars.getD 0 0) with
  | none => .done [] s
  | some g => if g.state = 1 || g.state = 2 then .wait .gstop [] s else .done [] s

def execGstopWaitWake (slot path : Nat) (s : State) : Out := .next (wake slot path .gstop gstopWait s)

/-- The state without the bands of a graph's own firings: their slots count as free (R397). -/
def withoutFirings (s : State) (g : BoundGraph) : State :=
  g.stages.foldl (fun s x =>
    if x.slot = 0xFFFF then s else { s with bands := s.bands.del x.slot }.setSlot x.slot { SlotState.init with refuse := (s.slot x.slot).refuse }) s

/-- grebind (R397): the new declaration is placed with the old resources counted as free, and admitted with the old
budget; on a running graph it is kept for the next period or its boundary. -/
def grebindCore (d : SReg) (c : Captured) (s : State) : Ans :=
  withGraph c s 0 fun h g =>
    let part := s.band.part
    let n := c.scalars.getD 1 0
    if g.state = 2 then stateFault c s h g
    else match bindGraph (withoutFirings (dropGraph s part h g none) g) part h n g.budget g.cls with
    | .error x => .fault [x.fault h (w32 g.period)] c.mask [] s
    | .ok none => .done [sWrite d.val 0] (s.modBand Band.needBoundary)
    | .ok (some (new, _)) =>
      let t := s.modBand Band.needBoundary
      .done [sWrite d.val 1]
        (if g.state = 1 then settleGraph (putGraph t part h { g with rebind := some (n.toNat, new.decl) }) part h
         else replaceGraph t part h g n)

def execGrebind (d h g : SReg) (s : State) : Out :=
  form (.grebind d h g) s always (fun x => x.cap (.grebind d h g) [h.val, g.val] [] 0) (grebindCore d)

/-! ## Firings (R389 to R392) -/

def edgeCb (s : State) (g : BoundGraph) (e : Nat) : Option CircBuf :=
  (g.edges[e]?).bind fun x => (s.core (gcore g)).cbs.find? x.cb

/-- The counts that a firing of stage k must advance: PP of its outputs, CP of its inputs, in edge order. -/
def endCounts (s : State) (g : BoundGraph) (k : Nat) : List Word :=
  (g.decl.ends k).map fun e => match edgeCb s g e with
    | none => 0
    | some b => if (g.decl.edge e).frm = k then b.pp else b.cp

/-- The counts let stage k fire. -/
def countsAllow (s : State) (g : BoundGraph) (k : Nat) : Bool :=
  ((g.decl.ins k).all fun e => (edgeCb s g e).any fun b => (g.decl.edge e).cons ≤ b.available)
  && (g.decl.outs k).all fun e => (edgeCb s g e).any fun b => (g.decl.edge e).prod ≤ b.room

/-- Body bytes 0 to 31 of a firing's frame (R390), and zeros after them. -/
def firingBody (g : BoundGraph) (h : Word) (k fire units : Nat) : List Byte :=
  let cbs := ((g.decl.ends k).map fun e => (g.edges.getD e { cb := 0, nslot := 0, tile0 := 0 }).cb)
  let head := leBytes 4 h.toNat ++ leBytes 4 g.period ++ leBytes 1 k ++ zeros 1 ++ leBytes 2 fire ++ leBytes 4 g.allow
    ++ (List.range 16).map fun j => BitVec.ofNat 8 (cbs.getD j 0xFF)
  head ++ zeros (64 * units - 32)

/-- The launch of an entry firing: its stage's frame is used again (R390), with the children that it still has. -/
def fireEntry (s : State) (part : Nat) (h : Word) (g : BoundGraph) (k : Nat) (x : StagePlace) : Word × State :=
  let d := g.decl.stage k
  let children := ((readHeader s part x.frame).map (·.children)).getD 0
  let hdr : Header := { parent := 0, launch := s.lnchNext, units := d.units, level := 0, state := 1, children := children, cw := 0 }
  let s := (putBlock s part (ea x.frame (-64)) true hdr.bytes).getD s
  let s := (putBody part x.frame (blocks64 (firingBody g h k x.fired d.units)) s).getD s
  let cls := if g.budget = 0 then g.cls else 0
  addLaunch s { freshLaunch part (.firing h k) g.cluster with
    cls := cls, entry := BitVec.ofNat 48 d.addr, n := 96, rf := d.rf, work := if g.budget = 0 then 0 else g.allow
    frame := BitVec.ofNat 48 x.frame, disp := displayOf [] 0 x.frame } []

/-- The issuer of an engine firing: class C on the lease, class G in the slot's quadrant, M for the sequencer (R391). -/
def firingIssuer (part : Nat) (g : BoundGraph) (k : Nat) (x : StagePlace) : Issuer :=
  let kind := (g.decl.stage k).kind
  let core := if kind = 3 then coreOf x.slot else gcore g
  { engineIssuer part core (match kind with | 1 => 1 | 2 => 2 | _ => 3) with
    quad := if kind = 1 then 4 * core else x.quad, deadline := g.budget ≠ 0 }

/-- The command of a matrix firing. -/
def fireMatrix (s : State) (part : Nat) (h : Word) (g : BoundGraph) (k : Nat) (x : StagePlace) : State :=
  let e := (g.decl.ins k).getD 0 0
  let cb := (g.edges.getD e { cb := 0, nslot := 0, tile0 := 0 }).cb
  let rcd := firingRecord (g.decl.stage k).words cb (g.decl.edge e).cons
  let (seq, s) := s.nextSeq
  let c : Captured := { word := 0, pc := 0, mr := 4, fmt := 0, lanes := 0, mask := 0, scalars := rcd, vecs := [], la := 0
                        wide := none, thb := 0, thl := 0, tho := 0, stream := none, pos := 0 }
  pushCmd s x.quad { newCmd seq nobody (firingIssuer part g k x) c 2 0 [] with firing := some (h, k) }

/-- Dispatch starts the next firing of a running or stopping graph once R389 lets it. -/
def startFiring (s : State) (part : Nat) (h : Word) (g : BoundGraph) (k : Nat) (x : StagePlace) : State :=
  let kind := (g.decl.stage k).kind
  let engine := if isEngine (g.decl.stage k) then w32 x.pos :: (g.decl.stage k).words else []
  let run := some (clockOf s g.cluster, endCounts s g k ++ engine)
  let (l, s) := if kind = 0 then (fun r => (some r.1, r.2)) (fireEntry s part h g k x)
    else (none, if kind = 2 then fireMatrix s part h g k x else s)
  let x := { x with fired := x.fired + 1, period := g.period, renewed := false, running := run, lnch := l, killed := none }
  settleGraph (putGraph s part h { g with started := g.started + 1, stages := g.stages.set k x }) part h

def execGraphFiringStart (part : Nat) (handle : Word) (s : State) : Out :=
  .next <| match graphAt s part handle with
  | none => s
  | some g =>
    if (s.part part).state ≠ 1 || !(g.state = 1 || g.state = 2 && !g.faulted) then s
    else match g.sequence[g.started]? with
    | none => s
    | some k => match g.stages[k]? with
      | none => s
      | some x =>
        if x.running.isSome || !countsAllow s g k
          || ((g.decl.stage k).kind = 2 && 64 ≤ queued (s.quad x.quad)) then s
        else startFiring s part handle g k x

/-- A stage's firing is over. -/
def endFiring (s : State) (part : Nat) (h : Word) (k : Nat) : State :=
  let s := s.modPart part fun p => { p with graphs := p.graphs.adjust h.toNat fun g =>
    { g with stages := g.stages.modify k fun x => { x with running := none, killed := none } } }
  let s := match graphAt s part h with
    | none => s
    | some g => match g.stages[k]? with
      | none => s
      | some x => if (g.decl.stage k).kind = 2 then strayAccs s part h g x.quad else s
  settleGraph s part h

/-! ### Loaders and storers -/

/-- The scratchpad byte at offset o of the records from slot count c on. -/
def slotByte (s : State) (core : Nat) (b : CircBuf) (c o : Nat) : Nat :=
  let t := b.tile0 + (c + o / b.recsz) % b.nslot
  tileBase core t (tileAt s core t) + o % b.recsz

/-- A loader moves elements P + i to the slots, zero for one out of range. -/
def loadElems (core : Nat) (u : Issuer) (r : StreamRec) (b : CircBuf) (p : Nat) : List Nat → State → Except FaultAt State
  | [], s => .ok s
  | i :: is, s =>
    let e := (p + i) % r.total
    let z := 2 ^ r.esz
    let put (bs : List Byte) : Except FaultAt State :=
      loadElems core u r b p is (writeAt s u nobody (.spad (slotByte s core b b.pp.toNat (i * z))) bs)
    if !r.inRange e then put (zeros z)
    else match elemAddr s u r e with
      | .error f => .error f
      | .ok a => match access s u a (.read z) false with
        | .error f => .error f
        | .ok (l, ord) => put (readAt s u l ord z)

/-- What a storer moves out: the places and the bytes; an element out of range is not written. Poisoned bytes of a slot fault
(R358). -/
def storeElems (s : State) (core : Nat) (u : Issuer) (r : StreamRec) (b : CircBuf) (p : Nat) :
    List Nat → Except FaultAt (List (Loc × List Byte × Nat))
  | [] => .ok []
  | i :: is =>
    let e := (p + i) % r.total
    let z := 2 ^ r.esz
    let g := slotByte s core b b.cp.toNat (i * z)
    if !r.inRange e then storeElems s core u r b p is
    else match spadPoisoned? s g z with
    | some x => .error { code := code.memPoison, d := poisonDetail (x % Config.spadBytes) 1 }
    | none => match elemAddr s u r e with
      | .error f => .error f
      | .ok a => match access s u a (.write z) false with
        | .error f => .error f
        | .ok (l, ord) => match storeElems s core u r b p is with
          | .error f => .error f
          | .ok ws => .ok ((l, s.spad.bytes g z, ord) :: ws)

/-- The bytes of an engine firing's records are moved; none while a store would change a ready tile that has readers (R208). -/
def moveRecords (s : State) (core : Nat) (u : Issuer) (r : StreamRec) (b : CircBuf) (p m : Nat) (out : Bool) :
    Except FaultAt (Option State) :=
  if out then (loadElems core u r b p (List.range m) s).map some
  else (storeElems s core u r b p (List.range m)).map fun ws =>
    if ws.any fun w => busyLoc s w.2.1.length w.1 then none else some (writeMany s u nobody ws)

/-- The work of a loader or storer firing, and its end: the counts advance, and the position moves on unless a grebind has set it
to 0 meanwhile (R391). -/
def runEngine (s : State) (part : Nat) (h : Word) (g : BoundGraph) (k : Nat) (x : StagePlace) (p : Nat) (words : List Word) :
    State :=
  let e := (g.decl.ends k).getD 0 0
  let d := g.decl.edge e
  let core := gcore g
  match edgeCb s g e, g.edges[e]?, streamRecord (wordsBytes words) with
  | some b, some pl, some r =>
    let out := d.frm = k
    let n := if out then d.prod else d.cons
    let m := n * d.recsz / 2 ^ r.esz
    let u := firingIssuer part g k x
    match moveRecords s core u r b p m out with
    | .error f => endFiring (graphFault s part h k 255 f 0) part h k
    | .ok none => s
    | .ok (some s) =>
      let s := setCb s core pl.cb (if out then { b with pp := b.pp + w32 n } else { b with cp := b.cp + w32 n })
      let s := touchAt s u nobody (((List.range m).map fun i => (p + i) % r.total).filter r.inRange |>.filterMap fun e =>
        match elemAddr s u r e with | .ok a => some (a, 2 ^ r.esz) | .error _ => none)
      let s := touch s u nobody ((List.range m).map fun i =>
        (.spad (slotByte s core b (if out then b.pp else b.cp).toNat (i * 2 ^ r.esz)), 2 ^ r.esz))
      let s := if (g.decl.stage k).kind = 1 then charge s part nobody 11 ((m * 2 ^ r.esz + 127) / 128) else s
      endFiring (s.modPart part fun q => { q with graphs := q.graphs.adjust h.toNat fun g =>
        { g with stages := g.stages.modify k fun x => { x with pos := if x.renewed then x.pos else (p + m) % 2 ^ 32 } } }) part h k
  | _, _, _ => endFiring s part h k

/-! ### The end of a firing (R390, R396) -/

/-- The first end of a stage that has not advanced by its rate. -/
def badEnd (s : State) (g : BoundGraph) (k : Nat) (start : List Word) : Option Nat :=
  let now := endCounts s g k
  (((g.decl.ends k).zip (now.zip start)).find? fun t =>
    let d := g.decl.edge t.1
    t.2.1 - t.2.2 ≠ w32 (if d.frm = k then d.prod else d.cons)).map Prod.fst

/-- The faults of an entry firing that has ended. -/
def checkEntry (s : State) (part : Nat) (h : Word) (g : BoundGraph) (k : Nat) (x : StagePlace) (start : List Word) : State :=
  match x.killed with
  | some c => if c = code.deadlineOver then s else graphFault s part h k 255 { code := code.graphFire } (w32 c)
  | none => match badEnd s g k start with
    | none => s
    | some e => graphFault s part h k e { code := code.graphFire } 0

/-- A firing ends: an entry's when its launch has completed, a matrix stage's when its command has retired, an engine's
with its work. -/
def execGraphFiringEnd (part : Nat) (handle : Word) (stage : Nat) (s : State) : Out :=
  .next <| match graphAt s part handle with
  | none => s
  | some g => match g.stages[stage]? with
    | none => s
    | some x => match x.running with
      | none => s
      | some (_, ws) =>
        match (g.decl.stage stage).kind with
        | 0 => if x.lnch.isSome then s else endFiring (checkEntry s part handle g stage x ws) part handle stage
        | 2 => if (s.quad x.quad).queue.any fun c => c.firing = some (handle, stage) then s else endFiring s part handle stage
        | _ => runEngine s part handle g stage x ((ws.getD 1 0).toNat) (ws.drop 2)

/-- An entry firing past ALLOW is killed, and its graph faults (R394). -/
def execGraphAllowExpiry (part : Nat) (handle : Word) (stage : Nat) (s : State) : Out :=
  .next <| match graphAt s part handle with
  | none => s
  | some g => match g.stages[stage]? with
    | none => s
    | some x => match x.running, x.lnch with
      | some (t, _), some l =>
        if g.budget ≠ 0 && t + g.allow ≤ clockOf s g.cluster && ((s.launches.find? l.toNat).any fun y => y.killed.isNone) then
          graphFault (killLaunch s l code.deadlineOver none) part handle stage 255
            { code := code.deadlineOver } 0
        else s
      | _, _ => s

end Sys2Proof.Machine
end

