-- ==== Sys2Proof/Machine/System.lean ====
section
/-!
DEFINITION. SYS: modes and formats (R136, R137), system registers (R32 to R34, R138 to R140), traps and their return
(R141 to R143) and rewind points (R144).
-/
namespace Sys2Proof.Machine

def execNop (s : State) : Out := unit .nop s always id

/-! ## Traps and returns -/

/-- trap c: TCAUSE 0x0001_0000 + c, TPC the next word. -/
def execTrap (c : BitVec 12) (s : State) : Out :=
  issue (.trap c) s always fun _ => takeCall s (w32 (0x10000 + c.toNat)) true (wordOf (.trap c))

/-- The word of brk (R81, R142). -/
def brkWord (c : BitVec 12) : Word := w32 (0x00280000 + c.toNat)

/-- brk c: TCAUSE 0x0002_0000 + c, TPC the brk itself. -/
def execBrk (c : BitVec 12) (s : State) : Out :=
  match s.bands.find? s.cur with
  | none => .refused .noBand
  | some _ => .next (takeCall s (w32 (0x20000 + c.toNat)) false (brkWord c))

/-- A result of trap mode retires with the return, and its weight is charged (R441). -/
def Band.retiresNow (weights : Tab Word) (b : Band) (e : ResultEntry) : Band :=
  if e.arrived then b
  else (b.retires e).addEnergy (match e.weight with | none => 0 | some k => (weights.getD k 0).toNat)

/-- Results of trap mode are written before the return (R143). -/
def Band.flushTrapResults (weights : Tab Word) (b : Band) : Band :=
  let (mine, rest) := b.results.partition fun e => e.inTrap
  { mine.foldl (fun b e => e.writes.foldl Band.applyWrite (b.retiresNow weights e)) b with results := rest }

/-- tret (R143): a fault inside the handler with several valid trap entries (R412); it waits for trap-mode results
that have not arrived. A matrix fault that came up meanwhile is taken at once (R249, R411). -/
def execTret (s : State) : Out :=
  issue .tret s always fun b =>
    if !b.inTrap then trapPriv s (wordOf .tret)
    else if b.valid.length > 1 then doubleFault s (w32 code.illegal) { code := 0 } b.unitPC b.unitPC (wordOf .tret) b.mask
    else if b.results.any fun e => e.inTrap && e.pending ≠ 0 then s
    else deliverMatrix (s.setBand (b.flushTrapResults (s.part b.part).weights).leaveTrap)

/-! ## Mode and format registers -/

def Band.setMr (b : Band) (m : Word) : Band := { b with mr := m }

/-- mode: a value that R31 refuses traps ILLEGAL and changes nothing. -/
def execMode (a : SReg) (s : State) : Out :=
  unit (.mode a) s (fun b => mr.valid (b.sreg a.val)) fun b => b.setMr (b.sreg a.val)

/-- The MR value of modei: word bits [17:7] to MR[18:8], [6:0] to MR[6:0], MR[7] zero. -/
def modeiValue (h : BitVec 11) (l : BitVec 7) : Word := w32 (h.toNat * 2 ^ 8 + l.toNat)

def execModei (h : BitVec 11) (l : BitVec 7) (s : State) : Out :=
  unit (.modei h l) s (fun _ => mr.valid (modeiValue h l)) fun b => b.setMr (modeiValue h l)

def Band.setFmt (b : Band) (k : Nat) (v : Word) : Band := { b with fmts := b.fmts.setD k v Band.fmtReset }

/-- fmtset: the value must be valid by R52. -/
def execFmtset (f : FReg) (a : SReg) (s : State) : Out :=
  unit (.fmtset f a) s (fun b => Fmt.validReg (b.sreg a.val)) fun b => b.setFmt f.val (b.sreg a.val)

def execFmtget (d : SReg) (f : FReg) (s : State) : Out :=
  unit (.fmtget d f) s always fun b => b.writeS d.val (b.fmtReg f.val)

/-! ## System registers -/

/-- The key of a pair in the table of latches. -/
def pairKey : PairReg → Nat
  | .energy => 0 | .clock => 1 | .thb => 2 | .thl => 3 | .tho => 4 | .rwpc => 5 | .tpc => 6

/-- The value of a pair. -/
def pairValue (s : State) (b : Band) : PairReg → Nat
  | .energy => b.energy / 1024
  | .clock => (s.cluster s.myCluster).clk.toNat
  | .thb => b.thb
  | .thl => b.thl
  | .tho => b.tho
  | .rwpc => b.rwpc.toNat
  | .tpc => b.tpc.toNat

def Band.latch (b : Band) (p : PairReg) : PairLatch := b.latches.getD (pairKey p) { read := none, write := none }
def Band.setLatch (b : Band) (p : PairReg) (l : PairLatch) : Band :=
  { b with latches := b.latches.setD (pairKey p) l { read := none, write := none } }

/-- The repetitions that REPST shows: those of the path, or in trap mode those of the path that trapped. -/
def Band.shownRep (b : Band) : Option Rep := (b.prog.getD b.pcur PathEntry.empty).rep

/-- REPST (R35): the count in 6 bits, the mask and the pending bit. A count of 64, before the first of 64 repetitions has gone on, shows
0 (log 13). -/
def repst (r : Option Rep) : Word :=
  match r with
  | none => 0
  | some r => w32 (r.remaining % 64 + r.mask.toNat * 2 ^ 8 + 2 ^ 11)

/-- Word k of the operand log (R408). -/
def ologWord (b : Band) (k : Nat) : Word :=
  match b.olog.find? (k / 16) with
  | none => 0
  | some e => match k % 16 with
    | 0 => w32 (1 + 2 * e.wait.toNat + 4 * e.cap.vecs.length)
    | 1 => e.cap.word
    | 2 => w32 e.cap.pc.toNat
    | 3 => w32 (e.cap.pc.toNat / 2 ^ 32)
    | 4 => beat e.cap.lanes 0
    | 5 => beat e.cap.lanes 1
    | 6 => beat e.cap.lanes 2
    | 7 => e.cap.mr
    | j => e.cap.scalars.getD (j - 8) 0

/-- MTSR to word k of the operand log (R408): an invalid entry and words 1 to 3 take nothing. -/
def Band.setOlog (b : Band) (k : Nat) (v : Word) : Band :=
  match b.olog.find? (k / 16) with
  | none => b
  | some e =>
    let put (c : Captured) : Band := { b with olog := b.olog.put (k / 16) { e with cap := c } }
    match k % 16 with
    | 0 => if wbit v 0 then { b with olog := b.olog.put (k / 16) { e with wait := wbit v 1 } }
           else { b with olog := b.olog.del (k / 16) }
    | 1 | 2 | 3 => b
    | 4 => put { e.cap with lanes := setBeat e.cap.lanes 0 v }
    | 5 => put { e.cap with lanes := setBeat e.cap.lanes 1 v }
    | 6 => put { e.cap with lanes := setBeat e.cap.lanes 2 v }
    | 7 => put { e.cap with mr := v }
    | j => put { e.cap with scalars := (padWords 8 e.cap.scalars).set (j - 8) v }

/-- The value that an MFSR returns (R32, R33). -/
def sysRead (s : State) (b : Band) : SysReg → Word
  | .caps k => (s.part b.part).caps.getD k.val 0
  | .lo p => w32 (pairValue s b p)
  | .hi p => (b.latch p).read.getD (w32 (pairValue s b p / 2 ^ 32))
  | .lnchid => b.lnch
  | .slotid => w32 s.cur
  | .level => w32 b.level
  | .rwset k => b.rwset.getD k.val 0
  | .rwstat => w32 (b.rwn + 256 * b.boundary.toNat)
  | .repst => repst b.shownRep
  | .frec k => b.frec.getD k.val 0
  | .olog k => ologWord b k.val
  | .tmr => b.tmr
  | .tcause => b.tcause
  | .tmask k => beat b.tmask k.val

/-- A read of a LO word fills the pair's read latch (R33). -/
def latchRead (s : State) (b : Band) : SysReg → Band
  | .lo p => b.setLatch p { b.latch p with read := some (w32 (pairValue s b p / 2 ^ 32)) }
  | _ => b

/-- mfsr (R138): a privileged register outside trap mode traps ILLEGAL_PRIV. -/
def execMfsr (d : SReg) (n : BitVec 12) (s : State) : Out :=
  issue (.mfsr d n) s always fun b =>
    match sysReg? n with
    | none => trapIllegal s (wordOf (.mfsr d n))
    | some r =>
      if r.privRead && !b.inTrap then trapPriv s (wordOf (.mfsr d n))
      else s.setBand ((latchRead s b r).writeS d.val (sysRead s b r)).advance

/-- The value check of a HI commit (R33, R34, R138). -/
def pairCheck (p : PairReg) (v : Nat) : Bool :=
  v < 2 ^ 48 && (match p with
    | .thb | .thl | .tho => v % 2 ^ 21 = 0
    | .tpc => v % 4 = 0
    | .energy | .clock | .rwpc => true)

/-- Commits a pair. -/
def Band.setPair (b : Band) (p : PairReg) (v : Nat) : Band :=
  match p with
  | .energy => { b with energy := v * 1024 }
  | .thb => { b with thb := v }
  | .thl => { b with thl := v }
  | .tho => { b with tho := v }
  | .tpc => { b with tpc := BitVec.ofNat 48 v }
  | .clock | .rwpc => b

/-- The value that a HI write would commit: the write latch, or the current LO word, below it. -/
def commitValue (s : State) (b : Band) (p : PairReg) (hi : Word) : Nat :=
  ((b.latch p).write.getD (w32 (pairValue s b p))).toNat + 2 ^ 32 * hi.toNat

/-- The effect of an MTSR, none where its value check fails. -/
def sysWrite (s : State) (b : Band) (r : SysReg) (v : Word) : Option Band :=
  match r with
  | .lo p => some (b.setLatch p { b.latch p with write := some v })
  | .hi p =>
    let x := commitValue s b p v
    if pairCheck p x then some ((b.setPair p x).setLatch p { b.latch p with write := none }) else none
  | .frec k => some { b with frec := b.frec.setD k.val v 0 }
  | .olog k => some (b.setOlog k.val v)
  | .tmr => if mr.valid v then some { b with tmr := v } else none
  | .tcause => some { b with tcause := v }
  | .tmask k => some { b with tmask := setBeat b.tmask k.val v }
  | .caps _ | .lnchid | .slotid | .level | .rwset _ | .rwstat | .repst => none

/-- mtsr (R138, R139). Every writable register is privileged (R32). -/
def execMtsr (v : SReg) (n : BitVec 12) (s : State) : Out :=
  issue (.mtsr v n) s always fun b =>
    match sysReg? n with
    | none => trapIllegal s (wordOf (.mtsr v n))
    | some r =>
      if !b.inTrap then trapPriv s (wordOf (.mtsr v n))
      else match sysWrite s b r (b.sreg v.val) with
        | none => trapIllegal s (wordOf (.mtsr v n))
        | some b' => s.setBand b'.advance

/-- caps (R140): bit n mod 32 of CAPS(n div 32). -/
def execCaps (d : SReg) (n : BitVec 12) (s : State) : Out :=
  unit (.caps d n) s always fun b =>
    b.writeS d.val (boolWord (wbit ((s.part b.part).caps.getD (n.toNat / 32) 0) (n.toNat % 32)))

/-! ## Rewind points -/

/-- Byte j of the words from s[sa]. -/
def nameAt (b : Band) (a j : Nat) : Nat := field (b.sreg (a + j / 4)).toNat (8 * (j % 4) + 7) (8 * (j % 4))

/-- A name that may not be pinned (R144). -/
def badName (b : Band) (x : Nat) : Bool :=
  if x < 128 then 64 ≤ x || x = 0 || (60 ≤ x && x ≤ 62) else b.rf ≤ x - 128

def rwpNames (b : Band) (a n : Nat) : List Nat := (List.range n).map (nameAt b a)

/-- The checks of an rwp: names that can be pinned, each once (R144). They are not made in trap mode, where nothing is set (log 20). -/
def rwpLegal (a n : Nat) (b : Band) : Bool :=
  b.inTrap || (!(rwpNames b a n).any (badName b) && (rwpNames b a n).Nodup)

/-- The source words with the bytes from n on zero. -/
def rwpWords (b : Band) (a n : Nat) : Tab Word :=
  ((List.range 4).map fun k =>
    (k, w32 (leNat ((List.range 4).map fun j => if 4 * k + j < n then BitVec.ofNat 8 (nameAt b a (4 * k + j)) else 0)))).filter
    fun e => e.2 ≠ 0

/-- rwp (R144); it does nothing in trap mode. -/
def execRwp (a : SReg) (n : Fin 64) (s : State) : Out :=
  unit (.rwp a n) s (rwpLegal a.val n.val) fun b =>
    if b.inTrap then b
    else { b with rwpc := b.pc + 4, rwset := rwpWords b a.val n.val, rwn := n.val, rwmr := b.mr, rwmask := b.mask
                  boundary := b.programPaths > 1 }

end Sys2Proof.Machine
end

