-- ==== Sys2Proof/Machine/Wheel.lean ====
section
/-!
DEFINITION. Wheel and dispatch: bind records (R371, R372), what Wheel may write (R368 to R370, R374, R375, R380, R429),
the start of a band (R42), and pre-emption: flashback, boundary save and restore (R420 to R425).
-/
namespace Sys2Proof.Machine

/-! ## The context block (R371) -/

/-- The context block of a launch. -/
def ctxBytes (id : Word) (l : Launch) : List Byte :=
  ((List.range 8).flatMap fun k => leBytes 8 (l.disp.getD k 0).toNat) ++ leBytes 8 l.entry.toNat ++ leBytes 4 l.n
  ++ leBytes 4 id.toNat ++ leBytes 8 l.cw ++ leBytes 1 l.level ++ leBytes 1 l.cls ++ leBytes 1 (l.rf / 64) ++ zeros 37

/-- A place for a context block (log 43): 64-aligned, in a bench unit that no other partition holds, clear of every partition
object and of other context blocks. -/
def ctxFits (s : State) (owner : Nat) (id : Word) (a : Nat) : Bool :=
  a % 64 = 0 && isBench a && isBench (a + 127)
  && !(s.parts.any fun e => e.1 ≠ owner && e.2.bench.contains (a / Config.benchUnitBytes))
  && !(s.parts.any fun e => a < e.2.object + 4096 && e.2.object < a + 128)
  && !(s.launches.any fun e => e.1 ≠ id.toNat && e.2.ctx ≠ 0 && a < e.2.ctx + 128 && e.2.ctx < a + 128)

/-- The Joiner writes the context block before the first bind. -/
def writeCtx (s : State) (id : Word) (l : Launch) (a : Nat) : State :=
  if l.ctx ≠ 0 then s
  else ({ s with mem := s.mem.setBytes a (ctxBytes id l) }).modLaunch id fun l => { l with ctx := a }

/-! ## Refusals (R371, R372) -/

/-- Register units of an allocation. -/
def unitsOf (rf : Nat) : Nat := rf / 32

/-- Units of a half that bands other than the one of a slot hold. -/
def unitsTaken (s : State) (slot : Nat) : List Nat :=
  (List.range 4).flatMap fun k => match s.bands.find? (slot / 4 * 4 + k) with
    | none => []
    | some b => if slot / 4 * 4 + k = slot then [] else (List.range (unitsOf b.rf)).map (b.unit + ·)

/-- The drain table of a core has room for a launch (R377). -/
def drainRoom (s : State) (core : Nat) (id : Word) : Bool :=
  let t := (s.core core).drain
  t.has id.toNat || t.length < 64

/-- Why a record that would fill a slot is refused: 0 for not at all. -/
def refusal (s : State) (slot : Nat) (r : BindRecord) : Nat :=
  let n := unitsOf (allocOf r.rf)
  if (s.slot slot).state ≠ 0 || s.bands.has slot then 1
  else if (s.quad (quadOf slot)).owner ≠ r.owner || r.owner = 0 then 3
  else if r.rf > 2 || r.unit % n ≠ 0 || r.unit + n > 8 then 4
  else if (List.range n).any fun k => (unitsTaken s slot).contains (r.unit + k) then 2
  else match s.launches.find? r.lnchid.toNat with
    | none => 6
    | some l =>
      if bandsOf l.n ≤ r.bid.toNat || (if l.ctx = 0 then !ctxFits s r.owner r.lnchid r.ctx else l.ctx ≠ r.ctx) then 6
      else if !drainRoom s (coreOf slot) r.lnchid then 5
      else 0

def refuse (s : State) (slot code : Nat) : State := s.setSlot slot { s.slot slot with refuse := code }

/-! ## What Wheel may write -/

/-- The queue that the rotation serves next: the first with credit after the one served last. -/
def nextQueue (s : State) (part cls : Nat) : Option Nat :=
  let last := (s.part part).served.getD cls 32
  let qs := waitingQueues s part cls
  ((List.range 33).map fun k => (last + 1 + k) % 33).find? fun q => qs.contains q && creditOf (s.part part) cls q > 0

/-- Binding a band costs its queue one credit. -/
def payCredit (s : State) (part cls q : Nat) : State :=
  endRound (s.modPart part fun p =>
    { p with credits := p.credits.put (64 * cls + q) (creditOf p cls q - 1), served := p.served.put cls q }) part cls

/-- A HIGH or NORMAL launch whose first band has waited 10 ms (R370), with the clocks that it has waited. -/
def agedClocks : Nat := 36000000
def waited (s : State) (l : Launch) : Nat := clockOf s l.home - l.since
def aged (s : State) (part : Nat) : List (Nat × Launch) :=
  (waitersOf s part 1 ++ waitersOf s part 2).filter fun e => e.2.nbound = 0 && agedClocks ≤ waited s e.2

/-- The launch that has waited longest. -/
def oldest (s : State) (ls : List (Nat × Launch)) : Option Nat :=
  (ls.foldl (fun m e => match m with
    | none => some e
    | some f => if waited s f.2 < waited s e.2 then some e else some f) none).map Prod.fst

/-- The head of the reservation list of a quadrant (R375). -/
def reservedFor (s : State) (q : Nat) : Option Word := (s.quad q).reserved.head?.map (·.1)

/-- The graph that a launch is a firing of, as its partition and handle. -/
def firingOf (l : Launch) : Option (Nat × Nat) :=
  match l.kind with
  | .firing h _ => some (l.part, h.toNat)
  | .queue _ | .child _ | .task _ => none

/-- The ROLE of a band's slot: compute for a firing of an entry stage (R380, R386), none for any other band. -/
def roleOf (l : Launch) : Nat := if (firingOf l).isSome then 3 else 0

/-- The slot is one that a graph keeps, and the launch is not a firing of that stage (R380, R390). -/
def keptSlot (s : State) (slot : Nat) (l : Launch) : Bool :=
  match slotStage s slot, l.kind with
  | some (h, k), .firing h' k' => !(h = h'.toNat && k = k')
  | none, .firing _ _ => true
  | some _, .queue _ | some _, .child _ | some _, .task _ => true
  | none, .queue _ | none, .child _ | none, .task _ => false

/-- A saved band may be resumed on a slot: only in its own reserved slot for a firing; on the quadrant it left with
suspended commands (R424) or after a reservation (R429); on the core of its gangs (R377); where its tiles are free. -/
def mayResume (s : State) (slot : Nat) (b : Band) : Bool :=
  let q := quadOf slot
  (s.quad q).owner = b.part && (reservedFor s q).isNone
  && (b.suspended.isEmpty && b.preWhy ≠ 1 || q = quadOf b.slot)
  && (b.gang.isEmpty || coreOf slot = coreOf b.slot)
  && !(b.accTiles.any fun t => (s.quad q).accOwn.has t)
  && !((s.launches.find? b.lnch.toNat).any (keptSlot s slot))

/-- A saved band takes part in the order of resumptions: one that made room for HIGH bands waits for them (R369). -/
def takesPart (s : State) (b : Band) : Bool := b.preWhy ≠ 2 || (waitersOf s b.part 1).isEmpty

/-- The saved bands that may take a slot before a band that starts. -/
def resumable (s : State) (part slot : Nat) : List Band :=
  ((s.saved.map Prod.snd).filter fun b => b.part = part && mayResume s slot b && takesPart s b)

/-- A half with a slot in STATE 2, or in STATE 3. -/
def halfIn (s : State) (state slot : Nat) : Bool := (List.range 4).any fun k => (s.slot (slot / 4 * 4 + k)).state = state

/-- The lowest free slot of a half that holds no slot in STATE 2 or 3, else the lowest free slot (R429). -/
def reservationSlot (s : State) (q : Nat) : Option Nat :=
  let free := ((List.range 8).map (8 * q + ·)).filter fun n => slotFree s n
  (free.find? fun n => !halfIn s 2 n && !halfIn s 3 n) <|> free.head?

/-- R368 to R370, R375, R380 and R429 for a band that starts. A launch that R370 serves does not wait for an earlier one of its
queue (log 34); a firing without a budget respects reservations (R375, R393). -/
def wheelStarts (s : State) (slot : Nat) (r : BindRecord) (l : Launch) : Bool :=
  let q := quadOf slot
  r.owner = l.part && r.cls = l.cls && r.work = l.work && allocOf r.rf = l.rf && r.bid.toNat = l.nbound && waitingLaunch l
  && !keptSlot s slot l && r.role = roleOf l && !roleCore s (coreOf slot) (firingOf l)
  && (match queueOf l with
  | none => l.cls = 0 || (reservedFor s q).isNone
  | some n =>
    (if l.cls = 0 then
          reservedFor s q = some r.lnchid && reservationSlot s q = some slot
          && !(((List.range 8).map (8 * q + ·)).any fun k => (s.slot k).state = 1)
          && !(s.bands.any fun e => e.2.lnch = r.lnchid && quadOf e.1 = q)
        else
          (reservedFor s q).isNone && (resumable s l.part slot).isEmpty
          && (match oldest s (aged s l.part) with
              | some id => id = r.lnchid.toNat
              | none =>
                ((List.range l.cls).all fun c => c = 0 || (waitersOf s l.part c).isEmpty)
                && nextQueue s l.part l.cls = some n
                && !(s.launches.any fun e => e.1 < r.lnchid.toNat && e.2.part = l.part && e.2.cls = l.cls && e.2.kind = l.kind && n < 32
                      && waitingLaunch e.2))))

/-! ## The start of a band (R42) -/

/-- The band that a record and its context block describe. -/
def freshBand (s : State) (slot : Nat) (r : BindRecord) : Band :=
  let p := s.part r.owner
  let num := s.mem.num
  let n := num (r.ctx + 72) 4
  let bid := r.bid.toNat
  let occ := firstLanes (min 96 (n - 96 * bid))
  let entry : Addr := BitVec.ofNat 48 (num (r.ctx + 64) 8)
  { Band.blank with
    lnch := r.lnchid, bid := r.bid, level := num (r.ctx + 88) 1, cls := r.cls, part := r.owner, slot := slot
    rf := allocOf r.rf, unit := r.unit, role := r.role, work := r.work, occ := occ, mask := occ
    prog := [(0, { PathEntry.empty with v := true, pc := Band.wordAddr entry, mask := occ })]
    disp := (List.range 8).foldl (fun d k => Tab.setD d k (BitVec.ofNat 48 (num (r.ctx + 8 * k) 8)) 0) []
    tids := (laneList occ).foldl (fun t l => Tab.setD t l (w32 (96 * bid + l)) 0) []
    thb := p.thb, thl := p.thl, tho := p.tho, rwpc := entry, rwmask := occ }

/-- One BANDS unit more for a launch on a core, whose entry is taken if there is none (R377). -/
def addBand (s : State) (core : Nat) (id : Word) : State :=
  let k := s.core core
  s.setCore core { k with drain := k.drain.modify id.toNat { count := 0, bands := 0 } fun d => { d with bands := d.bands + 1 } }

/-- The band that a record starts is in its slot. -/
def startBand (s : State) (slot : Nat) (r : BindRecord) (l : Launch) : State :=
  let s := addBand (writeCtx (acquire s (coreOf slot) .fabric) r.lnchid l r.ctx) (coreOf slot) r.lnchid
  let s := s.modLaunch r.lnchid fun l => { l with nbound := l.nbound + 1 }
  let s := { s with bands := s.bands.put slot (freshBand s slot r) }
  s.setSlot slot { SlotState.init with refuse := (s.slot slot).refuse, state := 1 }

/-- A record with V = 1 and SAVE = 0 (R372). A refused record only leaves its code; a record that Wheel may not write
changes nothing. -/
def execBindStart (slot : Nat) (r : BindRecord) (s : State) : Out :=
  .next <|
  if !r.v || r.pre || r.save ≠ 0 then s
  else if refusal s slot r ≠ 0 then refuse s slot (refusal s slot r)
  else match s.launches.find? r.lnchid.toNat with
  | none => s
  | some l =>
    if !wheelStarts s slot r l then s
    else
      let byAge := (oldest s (aged s l.part)).isSome
      let t := startBand s slot r l
      match queueOf l with
      | none => t
      | some n => if l.cls = 0 || byAge then endRound t l.part l.cls else payCredit t l.part l.cls n

/-! ## Pre-emption -/

/-- The save areas of a partition in use (R424). -/
def areaBytes : Nat := 140032

def areasTaken (s : State) (part : Nat) : List Nat :=
  ((s.saved.filter fun e => e.2.part = part).map fun e => e.1 % 2 ^ 48)
  ++ (s.bands.filter fun e => e.2.part = part && (s.slot e.1).area ≠ 0).map fun e => (s.slot e.1).area

/-- The lowest free save area of a partition. -/
def freeArea (s : State) (part : Nat) : Option Nat :=
  let p := s.part part
  ((List.range (p.svlen / areaBytes)).map fun k => p.svbase + k * areaBytes).find? fun a => !(areasTaken s part).contains a

/-- Why Wheel pre-empts a band: 1 a reservation of another launch, 2 a HIGH launch, 0 system software (R374). -/
def preemptReason (s : State) (slot : Nat) (b : Band) : Nat :=
  if (reservedFor s (quadOf slot)).any fun id => id ≠ b.lnch then 1
  else if b.cls = 3 && !(waitersOf s b.part 1).isEmpty then 2
  else 0

/-- A member of a collective in progress, which only a DEADLINE launch pre-empts (R374). -/
def collecting (s : State) (b : Band) : Bool :=
  (s.collectives.any fun c => c.ref.any fun r => sameBand r b) || (s.part b.part).ticks.any fun e => sameBand e.2.1 b

/-- Flashback or boundary save (R420). -/
def flashes (s : State) (slot : Nat) (b : Band) : Bool :=
  !b.boundary && !b.inTrap && b.olog.isEmpty && (commandsOf s (quadOf slot) (refOf b)).isEmpty

/-- A record with PRE = 1 (R372). A DEADLINE band is never pre-empted (R374). -/
def execBindPreempt (slot : Nat) (r : BindRecord) (s : State) : Out :=
  .next <|
  if !r.v || !r.pre then s
  else
    let st := s.slot slot
    match s.bands.find? slot with
    | none => refuse s slot 6
    | some b =>
      if st.state ≠ 1 then refuse s slot 1
      else if b.lnch ≠ r.lnchid || b.bid ≠ r.bid then refuse s slot 6
      else if st.preq || b.cls = 0 || (preemptReason s slot b ≠ 1 && collecting s b) then s
      else match freeArea s b.part with
      | none => s
      | some a =>
        let (n, s) := s.nextSeq
        let b := { b with preAt := some (clockOf s (clusterOf slot)), preWhy := preemptReason s slot b, preSeq := n
                          flash := flashes s slot b }
        ({ s with bands := s.bands.put slot b }).setSlot slot { st with preq := true, area := a }

/-- V = 0: no effect. -/
def execBindInvalid (_ : Nat) (_ : BindRecord) (s : State) : Out := .next s

/-- What a flashback keeps of a band (R37, R43, R421). -/
def Band.flashback (b : Band) : Band :=
  let pin (vec : Bool) (e : Nat × Word) : Bool := b.isPinned vec (if vec then e.1 / 96 else e.1)
  { b with
    prog := [(0, { PathEntry.empty with v := true, pc := Band.wordAddr b.rwpc, mask := b.rwmask &&& b.occ })]
    pcur := 0, mask := b.rwmask &&& b.occ, mr := b.rwmr
    sregs := b.sregs.filter (pin false), vregs := b.vregs.filter (pin true)
    fmts := [], streams := [], results := [], board := [], redirected := [] }

/-- A wait that a save abandons: the word executes again (R262, R268, R277). -/
def abandonsWait : WaitKind → Bool
  | .launch | .lwait | .qput => true
  | .rcv | .gbar | .regroup | .cntw | .cbwait | .swacq | .mwait | .tcommit | .trel | .tstOpen | .tstClose | .tldVer | .tileStore
  | .mtxPost | .gbind | .gstop | .fetch => false

/-- The waits of a path when its band stops for a boundary save (R295). -/
def PathEntry.stopWait (p : PathEntry) : PathEntry :=
  match p.wait with
  | none => p
  | some w =>
    if abandonsWait w.kind then { p with wait := none }
    else if w.kind = .regroup then { p with wait := none, pc := p.pc + 1 }
    else p

def Band.stopWaits (b : Band) : Band :=
  { b with prog := b.prog.map (fun (e : Nat × PathEntry) => (e.1, e.2.stopWait))
           trp := b.trp.map fun (e : Nat × PathEntry) => (e.1, e.2.stopWait) }

/-- The tiles of a band, as a save takes them from the quadrant (R424). -/
def takeTiles (s : State) (slot : Nat) (b : Band) : Band :=
  let qd := s.quad (quadOf slot)
  let ts := (qd.accOwn.filter fun (e : Nat × AccOwner) => e.2 = .band (refOf b) || (match e.2 with
    | .band r => r.lnch = b.lnch && r.bid = b.bid
    | .graph _ _ => false)).map Prod.fst
  { b with accTiles := ts, accSaved := qd.acc.filter (fun (e : Nat × DWord) => ts.contains (e.1 / 1024))
           accFmts := qd.accFmt.filter fun (e : Nat × Nat) => ts.contains e.1 }

/-- Where bands of both halves of a quadrant give way, those of half B are saved first (R425). -/
def saveTurn (s : State) (slot : Nat) : Bool :=
  4 ≤ slot % 8 || !((List.range 4).any fun k => (s.slot (8 * quadOf slot + 4 + k)).preq)

/-- The band stops at a unit boundary (R295). A flashback is moved at once (R421); for a boundary save the sequencer quiesces
(R423, steps 1 and 2). -/
def execPreemptAtBoundary (slot : Nat) (s : State) : Out :=
  .next <| match s.bands.find? slot with
  | none => s
  | some b =>
    let st := s.slot slot
    if st.state ≠ 1 || !st.preq || b.stopped || b.occ = 0 || b.fusing.isSome then s
    else if b.flash then
      if saveTurn s slot then
        ({ s with bands := s.bands.put slot { takeTiles s slot b.flashback with stopped := true } }).setSlot slot
          { st with state := 2, moving := true }
      else s
    else quiesce { s with bands := s.bands.put slot { b.stopWaits with stopped := true } } (quadOf slot) (refOf b)

/-- Every issued instruction has retired, or its result is redirected, and no command of the band runs (R423). -/
def quiet (s : State) (slot : Nat) (b : Band) : Bool :=
  (b.results.all fun e => e.arrived || b.redirected.contains e.id) && !b.waitsIn .tileStore
  && (commandsOf s (quadOf slot) (refOf b)).all fun c => c.stage = .suspended

/-- The band is quiet, and its whole state moves to its save area (R423, step 4). -/
def execBoundarySave (slot : Nat) (s : State) : Out :=
  .next <| match s.bands.find? slot with
  | none => s
  | some b =>
    let st := s.slot slot
    if st.state = 1 && b.stopped && quiet s slot b && saveTurn s slot then
      ({ s with bands := s.bands.put slot (takeTiles s slot b) }).setSlot slot { st with state := 2, moving := true }
    else s

/-- 4,000 clocks after the request the results that have not come are redirected. -/
def execResultRedirect (slot : Nat) (s : State) : Out :=
  .next <| match s.bands.find? slot with
  | none => s
  | some b =>
    let st := s.slot slot
    if st.state = 1 && b.stopped && (b.preAt.any fun t => t + 4000 ≤ clockOf s (clusterOf slot)) then
      { s with bands := s.bands.put slot { b with redirected := (b.results.filter fun e => !e.arrived).map (·.id) } }
    else s

/-- The open brackets of a slot's band go with it (R211, R424). -/
def takeBrackets (s : State) (slot : Nat) : List Nat × State :=
  let c := coreOf slot
  let k := s.core c
  let mine (e : Nat × Tile) : Bool := e.2.ver % 2 = 1 && e.2.opener = slot
  ((k.tiles.filter mine).map fun e => 1024 * c + e.1,
   s.setCore c { k with tiles := k.tiles.map fun e => if mine e then (e.1, { e.2 with opener := 4097 }) else e })

/-- Bytes that a save of a band moves, and its restore: the whole area, or for a flashback the rows marked F (R424). -/
def Band.savedBytes (b : Band) : Nat :=
  8192 * b.accTiles.length
  + if b.flash then 2304 + 384 * ((List.range b.rf).filter (b.isPinned true)).length else 25344 + 384 * b.rf

/-- A band pays for the traffic of its save, and of its restore (R441), by the weight of a transfer path (log 29). -/
def payMove (s : State) (b : Band) : Band :=
  b.addEnergy (((s.part b.part).weights.getD 10 0).toNat * (b.savedBytes / 128))

/-- The bytes of a save by their offset in the area (R424): those of the registers, of the operand log and of the tiles are at their
places, and the format of the other regions is open (log 16). A flashback writes the rows marked F, with pinned registers only. -/
def Band.saveRows (b : Band) (n : Nat) : List (Nat × List Byte) :=
  let kept (vec : Bool) (r : Nat) : Bool := !b.flash || b.isPinned vec r
  let other (off len : Nat) : Nat × List Byte := (off, (List.range len).map fun k => Config.saveByte n (off + k))
  let lanes (t : Tab Word) : List Byte := (List.range 96).flatMap fun l => leBytes 4 (t.getD l 0).toNat
  let vecs (j : Nat) : List (Nat × List Byte) := match b.olog.find? j with
    | none => []
    | some e => e.cap.vecs.zipIdx.map fun v => (2816 + 1536 * j + 384 * v.2, lanes v.1)
  [other 0 2048]
  ++ ((List.range 64).filter (kept false)).map (fun r => (2048 + 4 * r, leBytes 4 (b.sreg r).toNat))
  ++ (if b.flash then [] else
      [other 2304 256, (2560, (List.range 64).flatMap fun k => leBytes 4 (ologWord b k).toNat)]
      ++ (List.range 4).flatMap vecs ++ [other 8960 12288, other 21248 4096])
  ++ ((List.range b.rf).filter (kept true)).map (fun r => (25344 + 384 * r, (List.range 96).flatMap fun l => leBytes 4 (b.vlane r l).toNat))
  ++ b.accTiles.zipIdx.map fun t =>
      (25344 + 384 * b.rf + 8192 * t.2, (List.range 1024).flatMap fun k => leBytes 8 (b.accSaved.getD (1024 * t.1 + k) 0).toNat)

/-- They are written through the partition's first stage (R475). -/
def writeSave (s : State) (b : Band) (area : Nat) : State :=
  (b.saveRows s.fresh).foldl (fun s r => wheelWrite s b.part (area + r.1) r.2) { s with fresh := s.fresh + 1 }

/-- The save area is written: the band is saved under it, and its slot, registers and tiles are free. -/
def execSaveComplete (slot : Nat) (s : State) : Out :=
  .next <| match s.bands.find? slot with
  | none => s
  | some b =>
    let st := s.slot slot
    if st.state ≠ 2 || !st.moving then s
    else
      let (brs, s) := takeBrackets (writeSave s b st.area) slot
      let s := { s with bands := s.bands.del slot, saved := s.saved.put (2 ^ 48 * b.part + st.area) { payMove s b with brackets := brs, slot := slot } }
      let s := b.accTiles.foldl (fun s t => freeAcc s (quadOf slot) t) s
      s.setSlot slot { SlotState.init with refuse := st.refuse }

/-- R369 and R429 for a resumption: the first in the order of pre-emption of those that may take the slot; after a
reservation, the lowest free slot of the quadrant, or for a firing its own. A save and the restore of its successor run at once only in
opposite halves (R425). -/
def wheelResumes (s : State) (slot : Nat) (r : BindRecord) (b : Band) (l : Launch) : Bool :=
  r.owner = b.part && r.cls = b.cls && r.work = b.work && allocOf r.rf = b.rf && mayResume s slot b && takesPart s b
  && r.role = roleOf l && !roleCore s (coreOf slot) (firingOf l)
  && ((resumable s b.part slot).all fun x => b.preSeq ≤ x.preSeq) && !halfIn s 2 slot
  && (b.preWhy ≠ 1 || (firingOf l).isSome || quadSlot s [] (quadOf slot) = some slot)

/-- The tiles of a restored band are its own again. -/
def giveTiles (s : State) (slot : Nat) (b : Band) : State :=
  let q := quadOf slot
  let r : BandRef := { refOf b with slot := slot }
  b.accTiles.foldl (fun s t =>
    let qd := s.quad q
    let qd := setAcc qd t fun i j => (b.accSaved.getD (1024 * t + 32 * i + j) 0).toNat
    s.setQuad q { qd with accOwn := qd.accOwn.put t (.band r)
                          accFmt := if b.accFmts.has t then qd.accFmt.put t 1 else qd.accFmt.del t }) s

/-- A band's BANDS unit moves with it (R377). -/
def moveBand (s : State) (src dest : Nat) (id : Word) : State :=
  if src = dest then s else addBand (modDrain s src id fun d => { d with bands := d.bands - 1 }) dest id

/-- A band does not go to another core while a remote write that its old core alone sees is on its way: its threads may have read it
(R303, R304, R325). -/
def leavesPosted (s : State) (b : Band) (slot : Nat) : Bool :=
  coreOf b.slot ≠ coreOf slot && s.remotes.any fun o => o.core = coreOf b.slot && !o.performed && o.req.isNone

/-- A record with SAVE ≠ 0: the band is restored from its area (R372). -/
def execBindRestore (slot : Nat) (r : BindRecord) (s : State) : Out :=
  .next <|
  if !r.v || r.pre || r.save = 0 then s
  else if refusal s slot r ≠ 0 then refuse s slot (refusal s slot r)
  else
    let key := 2 ^ 48 * r.owner + r.save
    match s.saved.find? key, s.launches.find? r.lnchid.toNat with
    | some b, some l =>
      if b.lnch ≠ r.lnchid || b.bid ≠ r.bid then refuse s slot 6
      else if !wheelResumes s slot r b l || leavesPosted s b slot then s
      else
        let s := moveBand (acquire s (coreOf slot) .fabric) (coreOf b.slot) (coreOf slot) b.lnch
        let s := { s with saved := s.saved.del key, bands := s.bands.put slot { b with slot := slot, unit := r.unit, role := r.role } }
        (giveTiles s slot b).setSlot slot { SlotState.init with refuse := (s.slot slot).refuse, state := 3, area := r.save, moving := true }
    | _, _ => refuse s slot 6

/-- The transfer of a restore ends; the band issues once every redirected result has arrived (R423): the commands are posted again
(R251), the brackets are the slot's (R211), and a kill that an answer has decided meanwhile is carried out (R410). -/
def execRestoreComplete (slot : Nat) (s : State) : Out :=
  .next <| match s.bands.find? slot with
  | none => s
  | some b =>
    let st := s.slot slot
    let doomed := b.doom
    if st.state ≠ 3 then s
    else if !b.redirected.isEmpty then s.setSlot slot { st with moving := false }
    else
      let s := b.brackets.foldl (fun s n =>
        let k := s.core (n / 1024)
        s.setCore (n / 1024) { k with tiles := k.tiles.adjust (n % 1024) fun t => { t with opener := slot } }) s
      let b := { payMove s b with accTiles := [], accSaved := [], accFmts := [], brackets := [], preAt := none, preWhy := 0
                                  stopped := false, doom := none }
      let s := ({ s with bands := s.bands.put slot b }).setSlot slot { st with state := 1, area := 0, moving := false }
      let s := repostAll s (quadOf slot) (refOf b)
      match doomed with
      | none => s
      | some r => killBy s b r

end Sys2Proof.Machine
end

