-- ==== Sys2Proof/Machine/Prefix.lean ====
section
/-!
DEFINITION. Fetching a word (R74, R409, R417), the prefixes REP and LIMM with what they prefix (R89 to R94), words that do
not decode (R83), and the replay of logged instructions (R408).
-/
namespace Sys2Proof.Machine

/-! ## Fetch -/

/-- An address of code that system software has placed: ENTRY of a queue record or of a node, and HANDLER of a band in its handler. The
device translates it by the paged rule alone (R475). -/
def placedAddress (s : State) (a : Addr) : Bool :=
  let b := s.band
  (b.inTrap && (s.part b.part).handler = a)
  || (s.launches.find? b.lnch.toNat).any fun l => l.entry = a && match l.kind with
    | .queue _ | .task _ => true
    | .child _ | .firing _ _ => false

/-- The word at an address, through the band's translation, with the right X. No data cache serves it (R345). -/
def fetchWord (s : State) (a : Addr) : Except FaultAt Word :=
  let u := { s.issuer 0 with heap := !placedAddress s a }
  let va := a.toNat
  let k : Want := { r := false, w := false, x := true, n := 4 }
  if isSpad va then
    match spadCheck s u va { k with r := true } with
    | .error f => .error { f with fetch := true, code := if f.code = code.memPoison then code.codePoison else f.code }
    | .ok (l, ord) => .ok (w32 (leNat (readAt s u l ord 4 .memory)))
  else match resolve s u va k true with
    | .error f => .error { f with fetch := true, lane := 127 }
    | .ok (l, ord) => .ok (w32 (leNat (readAt s u l ord 4 .memory)))

/-- A fetch of the current path faults: a translation fault holds the path and sends its record (R409); any other is a
trap at the word (R407, R417). In trap mode each is a double fault. -/
def fetchFault (s : State) (f : FaultAt) : State :=
  let b := s.band
  let pc := b.unitPC
  if b.inTrap || !isTranslation f.code then trapEarly s 0 f
  else
    let guest := f.code < code.secondAbsent
    let rcd := faultRecord b s.cur f (if guest then del.guest else del.kiln) none pc pc 0 b.mask (if guest then 0 else s.kilnSeq)
    let (rid, t) := s.nextSeq
    let w : Wait := { order := s.nextId, kind := .fetch, cap := capture b 0 0 [] [] 0, phases := [], left := 0, rid := rid
                      seq := if guest then none else some (true, s.kilnSeq), rcd := rcd }
    let t := t.setBand (b.setPath { b.path with pc := Band.wordAddr pc, limm := none, wait := some w })
    if guest then queueRecord t b.part rid rcd true
    else { t with kilnSeq := t.kilnSeq + 1, kilnRecords := t.kilnRecords ++ [rcd] }

/-! ## What a prefix may stand before (R91, R93) -/

/-- Runs an instruction of a major that REP or LIMM admits. -/
def runTarget (i : Instr) (s : State) : Out :=
  match i with
  | .add d a b => execAdd d a b s
  | .sub d a b => execSub d a b s
  | .mul24 d a b => execMul24 d a b s
  | .mul d a b => execMul d a b s
  | .mulh d a b => execMulh d a b s
  | .mulhn d a b => execMulhn d a b s
  | .and d a b => execAnd d a b s
  | .or d a b => execOr d a b s
  | .xor d a b => execXor d a b s
  | .andn d a b => execAndn d a b s
  | .orn d a b => execOrn d a b s
  | .sll d a b => execSll d a b s
  | .srl d a b => execSrl d a b s
  | .sra d a b => execSra d a b s
  | .rol d a b => execRol d a b s
  | .ror d a b => execRor d a b s
  | .min d a b => execMin d a b s
  | .max d a b => execMax d a b s
  | .minn d a b => execMinn d a b s
  | .maxn d a b => execMaxn d a b s
  | .slt d a b => execSlt d a b s
  | .sltn d a b => execSltn d a b s
  | .eq d a b => execEq d a b s
  | .popc d a => execPopc d a s
  | .clz d a => execClz d a s
  | .ctz d a => execCtz d a s
  | .brev d a => execBrev d a s
  | .bswap d a => execBswap d a s
  | .sxb d a => execSxb d a s
  | .sxh d a => execSxh d a s
  | .zxb d a => execZxb d a s
  | .zxh d a => execZxh d a s
  | .addi d a i => execAddi d a i s
  | .andi d a i => execAndi d a i s
  | .ori d a i => execOri d a i s
  | .xori d a i => execXori d a i s
  | .slti d a i => execSlti d a i s
  | .sltni d a i => execSltni d a i s
  | .slli d a c => execSlli d a c s
  | .srli d a c => execSrli d a c s
  | .srai d a c => execSrai d a c s
  | .rori d a c => execRori d a c s
  | .muli d a i => execMuli d a i s
  | .sli d i => execSli d i s
  | .slu d i => execSlu d i s
  | .vadd d a b => execVadd d a b s
  | .vsub d a b => execVsub d a b s
  | .vmul24 d a b => execVmul24 d a b s
  | .vmul32 d a b => execVmul32 d a b s
  | .vmulh32 d a b => execVmulh32 d a b s
  | .vmulhn32 d a b => execVmulhn32 d a b s
  | .vand d a b => execVand d a b s
  | .vor d a b => execVor d a b s
  | .vxor d a b => execVxor d a b s
  | .vandn d a b => execVandn d a b s
  | .vsll d a b => execVsll d a b s
  | .vsrl d a b => execVsrl d a b s
  | .vsra d a b => execVsra d a b s
  | .vrol d a b => execVrol d a b s
  | .vmin d a b => execVmin d a b s
  | .vmax d a b => execVmax d a b s
  | .vabsd d a b => execVabsd d a b s
  | .vpopc d a => execVpopc d a s
  | .vclz d a => execVclz d a s
  | .vctz d a => execVctz d a s
  | .vbrev d a => execVbrev d a s
  | .vsel d a b => execVsel d a b s
  | .vmov d a => execVmov d a s
  | .vaddi d a i => execVaddi d a i s
  | .vmuli24 d a i => execVmuli24 d a i s
  | .vandi d a i => execVandi d a i s
  | .vori d a i => execVori d a i s
  | .vxori d a i => execVxori d a i s
  | .vslli d a c => execVslli d a c s
  | .vsrli d a c => execVsrli d a c s
  | .vsrai d a c => execVsrai d a c s
  | .vmini d a i => execVmini d a i s
  | .vmaxi d a i => execVmaxi d a i s
  | .vmovi d i => execVmovi d i s
  | .vfadd d a b => execVfadd d a b s
  | .vfsub d a b => execVfsub d a b s
  | .vfmul d a b => execVfmul d a b s
  | .vfma d a b => execVfma d a b s
  | .vfms d a b => execVfms d a b s
  | .vfnma d a b => execVfnma d a b s
  | .vfmin d a b => execVfmin d a b s
  | .vfmax d a b => execVfmax d a b s
  | .vfabs d a => execVfabs d a s
  | .vfneg d a => execVfneg d a s
  | .vfcpys d a b => execVfcpys d a b s
  | .vfclass d a => execVfclass d a s
  | .vfrnd d a => execVfrnd d a s
  | .vrcp la d a => execVrcp la d a s
  | .vrsq la d a => execVrsq la d a s
  | .vsqrt la d a => execVsqrt la d a s
  | .vdiv la d a => execVdiv la d a s
  | .vexp2 la d a => execVexp2 la d a s
  | .vlog2 la d a => execVlog2 la d a s
  | .vsin la d a => execVsin la d a s
  | .vcos la d a => execVcos la d a s
  | .vtanh la d a => execVtanh la d a s
  | .vcvt d a t => execVcvt d a t s
  | .vcvtef d a b => execVcvtef d a b s
  | .vcvti d a t => execVcvti d a t s
  | .vcvtf d a t => execVcvtf d a t s
  | .vpk d a b => execVpk d a b s
  | .vupk d a n => execVupk d a n s
  | .vscale d a b => execVscale d a b s
  | .vbs d a => execVbs d a s
  | .vrd d a b => execVrd d a b s
  | .vwr d a b => execVwr d a b s
  | .vshfl d a b => execVshfl d a b s
  | .vshfx d a b => execVshfx d a b s
  | .vrot d a b => execVrot d a b s
  | .vredadd d a => execVredadd d a s
  | .vredmin d a => execVredmin d a s
  | .vredmax d a => execVredmax d a s
  | .vredminx d a b => execVredminx d a b s
  | .vredmaxx d a b => execVredmaxx d a b s
  | .vscan d a => execVscan d a s
  | .vredand d a => execVredand d a s
  | .vredor d a => execVredor d a s
  | .vredxor d a => execVredxor d a s
  | .vcmp c p m a b => execVcmp c p m a b s
  | .vcmpn c p m a b => execVcmpn c p m a b s
  | .vfcmp c p m a b => execVfcmp c p m a b s
  | .vfcmpn c p m a b => execVfcmpn c p m a b s
  | .ldb la v a i => execLdb la v a i s
  | .ldbs la v a i => execLdbs la v a i s
  | .ldh la v a i => execLdh la v a i s
  | .ldhs la v a i => execLdhs la v a i s
  | .ldw la v a i => execLdw la v a i s
  | .ldd la v a i => execLdd la v a i s
  | .ldq la v a i => execLdq la v a i s
  | .lds la d a i => execLds la d a i s
  | .ldx la v a i => execLdx la v a i s
  | .ldwAcq la v a c => execLdwAcq la v a c s
  | .lddAcq la v a c => execLddAcq la v a c s
  | .ldsAcq la d a c => execLdsAcq la d a c s
  | .stb r v a i => execStb r v a i s
  | .sth r v a i => execSth r v a i s
  | .stw r v a i => execStw r v a i s
  | .std r v a i => execStd r v a i s
  | .stq r v a i => execStq r v a i s
  | .sts r v a i => execSts r v a i s
  | .stx v a i => execStx v a i s
  | .aadd la v a o => execAadd la v a o s
  | .aaddNr r v a o => execAaddNr r v a o s
  | .amin la v a o => execAmin la v a o s
  | .aminNr r v a o => execAminNr r v a o s
  | .amax la v a o => execAmax la v a o s
  | .amaxNr r v a o => execAmaxNr r v a o s
  | .aminn la v a o => execAminn la v a o s
  | .aminnNr r v a o => execAminnNr r v a o s
  | .amaxn la v a o => execAmaxn la v a o s
  | .amaxnNr r v a o => execAmaxnNr r v a o s
  | .aand la v a o => execAand la v a o s
  | .aandNr r v a o => execAandNr r v a o s
  | .aor la v a o => execAor la v a o s
  | .aorNr r v a o => execAorNr r v a o s
  | .axor la v a o => execAxor la v a o s
  | .axorNr r v a o => execAxorNr r v a o s
  | .axchg la v a o => execAxchg la v a o s
  | .axchgNr r v a o => execAxchgNr r v a o s
  | .acas la v a o => execAcas la v a o s
  | .acasNr r v a o => execAcasNr r v a o s
  | .ainc la v a o => execAinc la v a o s
  | .aincNr r v a o => execAincNr r v a o s
  | .afadd la v a o => execAfadd la v a o s
  | .afaddNr r v a o => execAfaddNr r v a o s
  | _ => .next s

/-- A word of those majors. -/
def targetMajor (w : Word) : Bool := [2, 3, 4, 6, 7, 8, 9, 10, 11, 12, 13, 14, 18].contains (wfield w 31 27)

/-- The next state of a target. -/
def stepTarget (i : Instr) (s : State) : State :=
  match runTarget i s with
  | .next t => t
  | .fault _ | .refused _ => s

/-- A target is illegal on its own when, with no lane enabled, it traps ILLEGAL (R15, R83); the lane number of a vrd or vwr in s[B]
counts with its present value (log 13). -/
def illegalAlone (i : Instr) (s : State) : Bool :=
  let b := s.band
  let probe := (s.setBand { b with mask := 0, inTrap := false, olog := [] }).modPart b.part fun p => { p with handler := 4 }
  let t := stepTarget i probe
  !(t.band.inTrap = false) && t.band.tcause = w32 code.illegal

/-! ## REP (R89 to R92) -/

/-- Where the fields d, a and b of a target lie: high and low bit, none for an illegal step (R76, R90). -/
def stepFields (w : Word) : List (Option (Nat × Nat)) :=
  match wfield w 31 27 with
  | 2 => [some (17, 12), some (11, 6), some (5, 0)]
  | 3 => [some (23, 18), some (17, 12), none]
  | 4 => [some (26, 21), none, none]
  | 7 => [some (22, 16), some (15, 9), none]
  | 9 => [some (17, 11), some (10, 4), none]
  | 12 => [some (20, 18), some (13, 7), some (6, 0)]
  | 13 | 14 | 18 => [some (18, 12), none, none]
  | _ => [some (20, 14), some (13, 7), some (6, 0)]

/-- Bit of the step mask of field k: d is bit 2, a bit 1, b bit 0 (R89). -/
def stepsField (m : BitVec 3) (k : Nat) : Bool := m.getLsbD (2 - k)

/-- Registers that the operand in field k occupies, with MR.ET naming binary64 or not (R90); a field that names no register counts
as one, and so do the separate values of stx and of the atomics (log 13). -/
def occupies (w : Word) (f64 : Bool) (k : Nat) : Nat :=
  let fn6 := wfield w 26 21
  let two (c : Bool) : Nat := if f64 && c then 2 else 1
  match wfield w 31 27 with
  | 6 | 7 | 9 => two true
  | 8 => two (!(fn6 = 15 && k = 0))
  | 10 =>
    if fn6 = 0 || fn6 = 2 || fn6 = 3 then (match k with | 0 => two true | 1 => if wfield w 3 0 = 9 then 2 else 1 | _ => 1)
    else two (fn6 = 6 && k ≠ 2)
  | 11 =>
    let scalarB := [1, 2, 5, 11, 12].contains fn6
    let vectorB := fn6 = 3 || fn6 = 4
    two (!(k = 2 && (scalarB || vectorB)))
  | 12 => two (k ≠ 0)
  | 13 => match wfield w 22 19 with | 5 | 13 => 2 | 6 => 4 | _ => 1
  | 14 => match wfield w 22 19 with | 5 => 2 | 6 => 4 | _ => 1
  | _ => 1

/-- The word of repetition k: each selected field k steps further, none once a field is full (R91). -/
def stepWord (w : Word) (m : BitVec 3) (f64 : Bool) (k : Nat) : Option Word :=
  (List.range 3).foldl (fun r j => match r, (stepFields w).getD j none with
    | none, _ => none
    | some x, none => some x
    | some x, some (hi, lo) =>
      if !stepsField m j then some x
      else
        let v := wfield w hi lo + k * occupies w f64 j
        if v < 2 ^ (hi + 1 - lo) then some (x + w32 ((v - wfield w hi lo) * 2 ^ lo)) else none) (some w)

/-- LA of a target (R80): a non-returning ATOM has none. -/
def targetLA (w : Word) : Nat :=
  match wfield w 31 27 with
  | 9 | 13 => wfield w 26 23
  | 18 => if wbit w 5 then 0 else wfield w 26 23
  | _ => 0

/-- A word may be the target of a step mask. -/
def targetOk (w : Word) (m : BitVec 3) : Bool :=
  targetMajor w && targetLA w = 0 && (List.range 3).all fun k => !stepsField m k || ((stepFields w).getD k none).isSome

/-- The element type is binary64 (R30). -/
def wideType (b : Band) : Bool := wfield b.mr 3 0 = 9

/-- A repetition of the target word w at the path's PC: illegal once a field is full. -/
def repetition (w : Word) (r : Rep) (s : State) : State :=
  match stepWord w r.mask (wideType s.band) (r.count - r.remaining) with
  | none => trapIllegal s w
  | some x => match decodePlain x.toNat with
    | .error _ => trapIllegal s x
    | .ok i => stepTarget i s

/-- The word of a REP. -/
def repWord (n : Fin 64) (m : BitVec 3) : Word := w32 (0xC0000000 + n.val * 2 ^ 21 + m.toNat * 2 ^ 18)

/-- REP: the checks of R91 on its target, then the first repetition. The others are units of their own (R92). -/
def repUnit (n : Fin 64) (m : BitVec 3) (s : State) : State :=
  let b := s.band
  match fetchWord s (b.pc + 4) with
  | .error f => fetchFault s f
  | .ok w => match decodePlain w.toNat with
    | .error _ => trapIllegal s (repWord n m)
    | .ok i =>
      if !targetOk w m || illegalAlone i s then trapIllegal s (repWord n m)
      else
        let r : Rep := { count := n.val + 1, remaining := n.val + 1, mask := m }
        repetition w r (s.setBand (b.setPath { b.path with pc := b.path.pc + 1, rep := some r }))

def execRep (n : Fin 64) (m : BitVec 3) (s : State) : Out :=
  match s.bands.find? s.cur with
  | none => .refused .noBand
  | some _ => .next (repUnit n m s)

/-! ## LIMM (R93, R94) -/

/-- A word that a LIMM may stand before, with the bits of its immediate above the low 5 zero. -/
def followerOk (w : Word) : Bool :=
  match wfield w 31 27 with
  | 3 => wfield w 26 24 ≠ 6 && wfield w 11 5 = 0
  | 7 => !([5, 6, 7].contains (wfield w 26 23)) && wfield w 8 5 = 0
  | 13 => !([12, 13, 14].contains (wfield w 22 19)) && !wbit w 5
  | 14 => !wbit w 5
  | 18 => true
  | _ => false

def limmWord (x : BitVec 27) : Word := w32 (0xC8000000 + x.toNat)

/-- LIMM and its follower are one unit (R36). -/
def limmUnit (x : BitVec 27) (s : State) : State :=
  let b := s.band
  match fetchWord s (b.pc + 4) with
  | .error f => fetchFault s f
  | .ok w => match decodePlain w.toNat with
    | .error _ => trapIllegal s (limmWord x)
    | .ok i =>
      if !followerOk w then trapIllegal s (limmWord x)
      else stepTarget i (s.setBand (b.setPath { b.path with pc := b.path.pc + 1, limm := some x }))

def execLimm (x : BitVec 27) (s : State) : Out :=
  match s.bands.find? s.cur with
  | none => .refused .noBand
  | some _ => .next (limmUnit x s)

/-! ## Words that do not decode -/

/-- ILLEGAL (R83), whatever the lanes of the band. -/
def execIllegalInstructionWord (w : Word) (s : State) : Out :=
  match s.bands.find? s.cur with
  | none => .refused .noBand
  | some _ => .next (trapIllegal s w)

/-! ## Replay (R408) -/

/-- What a form does with the sources that a log entry or a wait has captured; none for an instruction that no log can
hold and that waits for nothing. -/
def replayOf (i : Instr) : Option (Captured → State → Ans) :=
  match i with
  | .aadd _ v _ o => some (atomCore .add v o true)
  | .aaddNr _ v _ o => some (atomCore .add v o false)
  | .amin _ v _ o => some (atomCore .min v o true)
  | .aminNr _ v _ o => some (atomCore .min v o false)
  | .amax _ v _ o => some (atomCore .max v o true)
  | .amaxNr _ v _ o => some (atomCore .max v o false)
  | .aminn _ v _ o => some (atomCore .minn v o true)
  | .aminnNr _ v _ o => some (atomCore .minn v o false)
  | .amaxn _ v _ o => some (atomCore .maxn v o true)
  | .amaxnNr _ v _ o => some (atomCore .maxn v o false)
  | .aand _ v _ o => some (atomCore .and v o true)
  | .aandNr _ v _ o => some (atomCore .and v o false)
  | .aor _ v _ o => some (atomCore .or v o true)
  | .aorNr _ v _ o => some (atomCore .or v o false)
  | .axor _ v _ o => some (atomCore .xor v o true)
  | .axorNr _ v _ o => some (atomCore .xor v o false)
  | .axchg _ v _ o => some (atomCore .xchg v o true)
  | .axchgNr _ v _ o => some (atomCore .xchg v o false)
  | .acas _ v _ o => some (atomCore .cas v o true)
  | .acasNr _ v _ o => some (atomCore .cas v o false)
  | .ainc _ v _ o => some (atomCore .inc v o true)
  | .aincNr _ v _ o => some (atomCore .inc v o false)
  | .afadd _ v _ o => some (atomCore .fadd v o true)
  | .afaddNr _ v _ o => some (atomCore .fadd v o false)
  | .ldb _ v _ i => some (plainLoad v 1 1 .zero i)
  | .ldbs _ v _ i => some (plainLoad v 1 1 .sign i)
  | .ldh _ v _ i => some (plainLoad v 2 1 .zero i)
  | .ldhs _ v _ i => some (plainLoad v 2 1 .sign i)
  | .ldw _ v _ i => some (plainLoad v 4 1 .words i)
  | .ldd _ v _ i => some (plainLoad v 8 2 .words i)
  | .ldq _ v _ i => some (plainLoad v 16 4 .words i)
  | .ldx _ v _ i => some (gatherLoad v i)
  | .ldwAcq _ v _ c => some (acqLoad v 4 1 c)
  | .lddAcq _ v _ c => some (acqLoad v 8 2 c)
  | .lds _ d _ i => some (loadScalar d (fun w => memOffset w i 4) none)
  | .ldsAcq _ d _ c => some (loadScalar d (fun _ => 0) (some c))
  | .stb _ _ _ i => some (plainStore 1 i)
  | .sth _ _ _ i => some (plainStore 2 i)
  | .stw r _ _ i => some (wordStore r i)
  | .std _ _ _ i => some (plainStore 8 i)
  | .stq _ _ _ i => some (plainStore 16 i)
  | .stx _ _ i => some (scatterStore i)
  | .sts r _ _ i => some (storeScalar r i)
  | .fld _ e d o => some (loadFrame e d o)
  | .fst _ e _ o => some (storeFrame e o)
  | .fla e d o => some (frameAddress e d o)
  | .spat _ k => some (spatCore k)
  | .sreset k => some (sresetCore k)
  | .sld _ d _ => some (sldCore d)
  | .sst v _ => some (sstCore v)
  | .cpy4 _ _ _ => some (cpyCore 4)
  | .cpy8 _ _ _ => some (cpyCore 8)
  | .cpy16 _ _ _ => some (cpyCore 16)
  | .cpt _ _ _ => some cptCore
  | .cpz _ _ => some cpzCore
  | .cntadd _ _ => some cntaddCore
  | .cntw _ _ => some cntwCore
  | .cntrd d _ => some (cntrdCore d)
  | .join _ => some joinCore
  | .swrel _ _ => some swrelCore
  | .swacq _ _ => some swacqCore
  | .tdef _ => some tdefCore
  | .tfill _ => some tfillCore
  | .tcommit _ => some tcommitCore
  | .tdrain _ => some tdrainCore
  | .trel _ => some trelCore
  | .tstate d _ => some (tstateCore d)
  | .tstAon _ _ => some tstAonCore
  | .tldVer d _ _ => some (tldVerCore d)
  | .cbdef _ _ => some cbdefCore
  | .cbpush _ _ => some cbpushCore
  | .cbpop _ _ => some cbpopCore
  | .cbwait _ _ _ => some cbwaitCore
  | .cbpeek d _ _ => some (cbpeekCore d)
  | .launch d _ => some (launchCore d)
  | .lwait d _ => some (lwaitCore d)
  | .qput _ _ => some qputCore
  | .gbind _ _ _ => some gbindAnswer
  | .gstart _ => some gstartCore
  | .gstop _ _ => some gstopCore
  | .grebind d _ _ => some (grebindCore d)
  | _ => none

/-- The core of a captured word. -/
def wordCore (w : Word) : Option (Captured → State → Ans) :=
  match decodePlain w.toNat with
  | .error _ => none
  | .ok i => replayOf i

/-- A form with nothing to do. -/
def idle (_ : Captured) (s : State) : Ans := .done [] s

/-- A store, sst or cpt that waited for tile readers goes on (R208). -/
def execTileStoreWake (slot path : Nat) (s : State) : Out :=
  .next (wake slot path .tileStore (fun c => (wordCore c.word).getD idle c) s)

/-- A versioned read that waited tries again (R210). -/
def execTldVerWake (slot path : Nat) (s : State) : Out :=
  .next (wake slot path .tldVer (fun c => tldVerCore (destOf c.word) c) s)

/-- What a replay writes: not what younger units wrote (R88). -/
def keepWrites (drops ws : List RegWrite) : List RegWrite :=
  drops.foldl (fun ws d => ws.map (Band.RegWrite.less d.vec d.reg d.mask)) ws

/-- A write by the replay of entry e: what older units have still to write is discarded in those lanes (R86). -/
def Band.olderLose (b : Band) (e : LogEntry) (w : RegWrite) : Band :=
  { b with
    results := b.results.map fun r =>
      if !r.inTrap ∧ r.order < e.order then { r with writes := r.writes.map (RegWrite.less w.vec w.reg w.mask) } else r
    olog := b.olog.map fun (x : Nat × LogEntry) =>
      if x.2.order < e.order then
        (x.1, { x.2 with drops := x.2.drops ++ [{ vec := w.vec, reg := w.reg, mask := w.mask, vals := [] }] })
      else x }

/-- The writes of a replay of entry e are made at once: a pinned register counts as written (R37). -/
def Band.replayWrites (b : Band) (e : LogEntry) (ws : List RegWrite) : Band :=
  ws.foldl (fun b w =>
    ({ b.applyWrite w with boundary := b.boundary || (w.mask ≠ 0 && b.isPinned w.vec w.reg) } : Band).olderLose e w) b

/-- The writes of a replay whose window is still open are held for it, as those of any result that has arrived (R88, R293). -/
def Band.replayHeld (b : Band) (id : Nat) (e : LogEntry) (ws : List RegWrite) : Band :=
  let c := ws.foldl (fun b w =>
    ({ b with boundary := b.boundary || (w.mask ≠ 0 && b.isPinned w.vec w.reg) } : Band).olderLose e w) b
  { c with results := c.results ++ [{ id := id, order := e.order, inTrap := false, path := e.path, long := true, weight := none, windows := e.windows
                                      writes := ws, arrived := true, pending := 0 }] }

/-- The writes of a replay: at once when its window has closed. -/
def replayInto (t : State) (e : LogEntry) (ws : List RegWrite) : State :=
  if ws.isEmpty || e.windows.all (fun x => x.2 = 0) then t.modBand fun b => b.replayWrites e ws
  else
    let (id, t) := t.nextSeq
    t.modBand fun b => b.replayHeld id e ws

/-- The results that a replay of entry e has still to come: they write only what younger units have not (R88), and leave those of
younger units as they stood in `was`. -/
def Band.replayResults (b was : Band) (e : LogEntry) : Band :=
  let new := (b.results.filter fun r => !(was.results.any fun x => x.id = r.id)).map fun r =>
    { r with order := e.order, windows := e.windows, writes := keepWrites e.drops r.writes }
  if new.isEmpty then b
  else
    let c := (new.flatMap ResultEntry.writes).foldl (fun b w => b.olderLose e w) { b with results := was.results, olog := was.olog }
    { c with results := c.results ++ new }

/-- Entry j of the log replays on its path, which is the current one: done, its entry is free; faulting again, the entry
holds the lanes that are left. A form that still has to wait stays in the log. -/
def replayEntry (s : State) (j : Nat) (e : LogEntry) : State :=
  let c := { e.cap with la := 0 }
  if (match decodePlain c.word.toNat with | .ok i => accessHeld s s.band i c | .error _ => false) then s
  else match ((wordCore c.word).getD idle) c s with
  | .wait _ _ _ => s
  | .done ws t | .fault [] _ ws t =>
    (replayInto (t.modBand fun b => b.replayResults s.band e) e (keepWrites e.drops ws)).modBand fun b => { b with olog := b.olog.del j }
  | .early f => takeTrap s (w32 f.code) f del.trap (some j) c.pc s.band.pc c.word c.mask
  | .fault (f :: fs) logMask ws t =>
    let t := replayInto (t.modBand fun b => b.replayResults s.band e) e (keepWrites e.drops ws)
    let t := logFault t c j (lowestFault f fs) (faultMask c (f :: fs)) logMask
    t.modBand fun b => { b with olog := b.olog.adjust j fun x => { x with order := e.order, windows := e.windows, drops := e.drops } }

/-- The entry of a path that replays next: the one that issued first among those with WAIT = 0. -/
def nextReplay (b : Band) (path : Nat) : Option (Nat × LogEntry) :=
  (b.olog.filter fun e => e.2.path = path && !e.2.wait).foldl (fun m e => match m with
    | none => some e
    | some f => if e.2.order < f.2.order then some e else some f) none

/-- A replay, outside trap mode, before its path issues (R408, R410). One that traps waits until what has issued has retired
(R142, R407). -/
def execLogReplay (slot entry : Nat) (s : State) : Out :=
  .next <| match s.bands.find? slot with
  | none => s
  | some b =>
    if b.inTrap || (s.slot slot).state ≠ 1 || b.stopped then s
    else match b.olog.find? entry with
    | none => s
    | some e =>
      if (nextReplay b e.path).any fun x => x.1 = entry then
        let t := s.onSlot slot fun s => onPath s e.path fun s => replayEntry s entry e
        if trapHeld slot s t then s else t
      else s

/-! ## Results (R293) -/

/-- A result arrives, and its instruction retires. It is written when its window has closed. -/
def Band.arrive (b : Band) (e : ResultEntry) : Band :=
  let b := b.retires e
  Band.writeClosed { b with
    redirected := b.redirected.filter (· ≠ e.id)
    results := b.results.map fun x => if x.id = e.id then { x with arrived := true } else x }

/-- The weight of an instruction that retires is charged (R441). -/
def chargeResult (s : State) (b : Band) (e : ResultEntry) : State :=
  match e.weight with
  | none => s
  | some k => charge s b.part (refOf b) k 1

/-- A long-latency result that no line request holds up arrives in its band: in the slot, or in a band saved from it,
whose result was redirected (R423). A band that has ended leaves its slot with its last result (R255). -/
def execResultArrival (slot entry : Nat) (s : State) : Out :=
  let ready (b : Band) : Option ResultEntry := (b.results[entry]?).bind fun e => if !e.arrived && e.pending = 0 then some e else none
  .next <| match (s.bands.find? slot).bind fun b => (ready b).map fun e => (b, e) with
  | some (b, e) => s.onSlot slot fun s => settleExit (chargeResult (s.setBand (b.arrive e)) b e)
  | none =>
    match s.saved.keyWhere fun _ b => b.slot = slot && (ready b).any fun e => b.redirected.contains e.id with
    | none => s
    | some k => match s.saved.find? k, (s.saved.find? k).bind ready with
      | none, _ | _, none => s
      | some b, some e => chargeResult { s with saved := s.saved.put k (b.arrive e) } b e

end Sys2Proof.Machine
end

