-- ==== Sys2Proof/Machine/Service.lean ====
section
/-!
DEFINITION. What the device does beside the bands: fault records and their answers (R410, R411), translation buffers and page
walks (R415, R416), cached lines (R326, R345, R346), soft errors (R357, R358, R417, R418) and engine leases (R438).
-/
namespace Sys2Proof.Machine

/-! ## Fault records (R410) -/

/-- Changes every band, bound or saved. -/
def modAll (s : State) (f : Band → Band) : State :=
  { s with bands := s.bands.map (fun (e : Nat × Band) => (e.1, f e.2)), saved := s.saved.map fun (e : Nat × Band) => (e.1, f e.2) }

/-- The record rid has got a sequence number in the partition's queue. -/
def Band.numbered (rid : Nat) (seq : Word) (b : Band) : Band :=
  { b with
    olog := b.olog.map fun (e : Nat × LogEntry) => if e.2.wait ∧ e.2.rid = rid then (e.1, { e.2 with seq := some (false, seq), rcd := setSeq e.2.rcd seq }) else e
    prog := b.prog.map fun (e : Nat × PathEntry) => match e.2.wait with
      | none => e
      | some w => if w.kind = .fetch ∧ w.rid = rid then (e.1, { e.2 with wait := some { w with seq := some (false, seq), rcd := setSeq w.rcd seq } }) else e }

/-- The first waiting record is written at the tail of the ring once a reading of FQHEAD shows room; then the tail
advances, and the host is notified. -/
def execFaultRecordWrite (part : Nat) (s : State) : Out :=
  .next <|
  let p := s.part part
  match p.waiting with
  | [] => s
  | r :: rest =>
    let full (head : Word) : Bool := p.fqsize ≤ (p.fqtail - head).toNat
    let head := if full p.fqhead then w32 (s.mem.num (p.object + 176) 4) else p.fqhead
    let s := s.modPart part fun p => { p with fqhead := head }
    if p.state = 0 || full head then s
    else
      let s := wheelWrite s part (p.fqring + 128 * (p.fqtail.toNat % p.fqsize)) (wordsBytes (setSeq r.rcd p.fqtail))
      let s := s.modPart part fun p => { p with waiting := rest, fqtail := p.fqtail + 1 }
      let s := { s with mem := s.mem.setBytes (p.object + 172) (leBytes 4 (p.fqtail + 1).toNat) }
      notify (if r.rid = 0 then s else modAll s (Band.numbered r.rid p.fqtail)) (4 * part + 1)

/-! ## Answers (R410) -/

/-- A number in the queue of a partition, or in Kiln's for part 0, names a record of a band. -/
def answers (part : Nat) (seq : Word) (b : Band) (x : Option (Bool × Word)) : Bool :=
  x = some (decide (part = 0), seq) && (part = 0 || b.part = part)

/-- The log entries and the held paths of a band that an answer names. -/
def namedEntries (part : Nat) (seq : Word) (b : Band) : List (Nat × LogEntry) :=
  b.olog.filter fun e => e.2.wait && answers part seq b e.2.seq
def namedFetches (part : Nat) (seq : Word) (b : Band) : List (Nat × Wait) :=
  b.prog.filterMap fun e => e.2.wait.bind fun w => if w.kind = .fetch && answers part seq b w.seq then some (e.1, w) else none

/-- Changes the named entries and held paths of a band. -/
def Band.answered (part : Nat) (seq : Word) (f : LogEntry → LogEntry) (g : Wait → Option Wait) (b : Band) : Band :=
  { b with
    olog := b.olog.map fun (e : Nat × LogEntry) => if e.2.wait && answers part seq b e.2.seq then (e.1, f e.2) else e
    prog := b.prog.map fun (e : Nat × PathEntry) => match e.2.wait with
      | none => e
      | some w => if w.kind = .fetch && answers part seq b w.seq then (e.1, { e.2 with wait := g w }) else e }

/-- Action 0: WAIT := 0; a held path fetches again. -/
def execFaultDoorbellReplay (part : Nat) (seq : Word) (s : State) : Out :=
  .next (modAll s (Band.answered part seq (fun e => { e with wait := false, seq := none }) (fun _ => none)))

/-- The record that a band gets: the intermediate address stands only in Kiln's copy (R405). -/
def guestCopy (rcd : List Word) : List Word := (rcd.set 24 0).set 25 0

/-- Action 1: the record is delivered to its path at its next unit, or at resumption, or after TRET (R410, R411). -/
def execFaultDoorbellDeliver (part : Nat) (seq : Word) (s : State) : Out :=
  .next (modAll s fun b =>
    let d (path : Nat) (rcd : List Word) : Delivery := { path := path, rcd := guestCopy rcd, code := wfield (rword rcd 0) 15 0 }
    let ds := (namedEntries part seq b).map (fun e => d e.2.path e.2.rcd) ++ (namedFetches part seq b).map fun e => d e.1 e.2.rcd
    { b.answered part seq (fun e => { e with seq := none }) (fun w => some { w with seq := none }) with
      deliveries := b.deliveries ++ ds })

/-- The records that an answer names in a band. -/
def namedRecords (part : Nat) (seq : Word) (b : Band) : List (List Word) :=
  (namedEntries part seq b).map (fun e => e.2.rcd) ++ (namedFetches part seq b).map fun e => e.2.rcd

/-- Action 2: the launch is killed with the record's code; an answer for a saved band is kept with it until its resumption. -/
def execFaultDoorbellKill (part : Nat) (seq : Word) (s : State) : Out :=
  .next <| match s.bands.findSome? fun (e : Nat × Band) => (namedRecords part seq e.2).head?.map fun r => (e.2, r) with
  | some (b, r) => killBy s b (guestCopy r)
  | none => { s with saved := s.saved.map fun (e : Nat × Band) => match (namedRecords part seq e.2).head? with
      | none => e
      | some r => (e.1, { e.2.answered part seq (fun e => { e with seq := none }) (fun w => some { w with seq := none }) with
                          doom := some (guestCopy r) }) }

/-- Action 3. -/
def execFaultDoorbellIgnore (_ : Nat) (_ : Word) (s : State) : Out := .next s

/-- The band of `cur` takes its first delivery: its path traps before its next unit, and the log entry stays for the
replay at TRET (R408, R410). -/
def takeDelivery (s : State) : State :=
  let b := s.band
  match b.deliveries with
  | [] => s
  | d :: rest =>
    let w0 := rword d.rcd 0
    let olog := if wbit w0 19 then b.olog.adjust (wfield w0 21 20) fun e => { e with wait := false } else b.olog
    let b := { b with deliveries := rest, olog := olog }
    if !(b.entry d.path).v then s.setBand b
    else
      let b := b.switchTo d.path
      let fetch := b.path.wait.any fun w => w.kind = .fetch
      let b := b.setPath { b.path with wait := if fetch then none else b.path.wait }
      let pc := b.unitPC
      let rcd := (d.rcd.set 6 (w32 pc.toNat)).set 7 (w32 (pc.toNat / 2 ^ 32))
      let h := (s.part b.part).handler
      if h = 0 then killLaunch (s.setBand b) b.lnch d.code (some (b.bid, rcd))
      else s.setBand ((b.setPath { b.path with pc := Band.wordAddr pc, limm := none }).enterTrap h (w32 d.code) pc rcd)

/-! ## Translation buffers (R415, R416) -/

/-- Entries of a quadrant's or a core's buffer. -/
def tlbSize (unit : Nat) : Nat := if unit < 512 then 64 else 2048

/-- An entry enters a buffer: the one of the same page leaves it, or the oldest of a full buffer. -/
def putTlb (s : State) (e : TlbEntry) : State :=
  let t := s.tlb.filter fun x => !(x.unit = e.unit && x.part = e.part && x.va = e.va)
  let mine := t.filter fun x => x.unit = e.unit
  let t := if tlbSize e.unit ≤ mine.length then (match mine.head? with | none => t | some o => t.erase o) else t
  { s with tlb := t ++ [e] }

/-- A walk as it starts: its page, the generation, and what the tables give (R416). -/
def newWalk (s : State) (cluster unit part va : Nat) : Walk :=
  { unit := unit, part := part, va := va, gen := (s.cluster cluster).gen.toNat
    got := match walkBoth s part va with | .ok e => some { e with unit := unit } | .error _ => none }

/-- A cluster starts a walk for a quadrant, or for the buffer of a core (512 + core); it has 16. -/
def startWalk (s : State) (unit part va : Nat) : State :=
  let c := if unit < 512 then unit / 32 else (unit - 512) / 8
  let cl := s.cluster c
  match cl.walks.free? 16 with
  | none => s
  | some k => s.setCluster c { cl with walks := cl.walks.put k (newWalk s c unit part va) }

/-- A shoot-down covers a byte of a page of a partition (R416). -/
def Shootdown.covers (d : Shootdown) (part va size : Nat) : Bool := d.part = part && d.va < va + size && va < d.va + d.pages * 2 ^ 16

/-- The page that a walk fills: its first address and its size, or its address alone where it fills none. -/
def Walk.page (w : Walk) : Nat × Nat := match w.got with | some e => (e.va, e.size) | none => (w.va, 1)

/-- A walk that started before a shoot-down of its page (R416, step 2). -/
def staleWalk (s : State) (cluster : Nat) (w : Walk) : Bool :=
  s.shootdowns.any fun d => d.covers w.part w.page.1 w.page.2 && w.gen < (d.gens.getD cluster 0).toNat

/-- A walk completes: it fills its buffer, or is dropped and starts again. -/
def execPageWalkFill (cluster walk : Nat) (s : State) : Out :=
  .next <|
  let cl := s.cluster cluster
  match cl.walks.find? walk with
  | none => s
  | some w =>
    if staleWalk s cluster w then s.setCluster cluster { cl with walks := cl.walks.put walk (newWalk s cluster w.unit w.part w.va) }
    else
      let s := s.setCluster cluster { cl with walks := cl.walks.del walk }
      match w.got with
      | none => s
      | some e => putTlb s e

/-! ## Cached lines (R326, R345, R346) -/

/-- Lines of an L1 and of a frame cache (R345). -/
def cacheLines (frame : Bool) : Nat := if frame then 512 else 1024

/-- A line enters a cache of a core: it leaves both caches where it stood, and the oldest line leaves a full cache (log 44). -/
def fillCore (s : State) (core : Nat) (c : CacheLine) : State :=
  let k := s.core core
  let rest := k.cache.filter fun x => x.line ≠ c.line || x.owner ≠ c.owner
  let mine := rest.filter fun x => x.frame = c.frame
  let rest := if mine.length < cacheLines c.frame then rest else match mine.head? with | none => rest | some o => rest.erase o
  s.setCore core { k with cache := rest ++ [c] }

/-- Lines of a share of a cluster's L2: 4 MiB (R347). -/
def shareLines : Nat := 32768

/-- Lines that an owner may have in a cluster's L2: those of its shares. -/
def l2Room (s : State) (cluster part : Nat) : Nat :=
  shareLines * ((List.range 16).filter fun k => (s.part part).l2.testBit (16 * cluster + k)).length

/-- A line enters the L2 of a cluster, in place of the oldest of its owner where the owner's shares are full; an owner without a
share there is served without one (R347). -/
def fillL2 (s : State) (cluster : Nat) (x : L2Line) : State :=
  let c := s.cluster cluster
  let room := l2Room s cluster x.owner
  if room = 0 || c.l2.any (fun y => y.line = x.line && y.owner = x.owner && !y.remote) then s
  else
    let rest := c.l2.filter fun y => y.line ≠ x.line || y.owner ≠ x.owner
    let mine := rest.filter fun y => y.owner = x.owner
    let rest := if mine.length < room then rest else match mine.head? with | none => rest | some o => rest.erase o
    s.setCluster cluster { c with l2 := rest ++ [x] }

/-- A line that a partition reads at an address is filled (log 44): into the L2 of the core's cluster, and into the core's L1 or
frame cache. An SO line is not filled, nor one that a hot store holds (R345). A remote line in the L2 serves its own cores;
no line comes from another device while no port is up (R464). -/
def fillLine (s : State) (core part va : Nat) (into : FillInto) : State :=
  let u := engineIssuer part core 0
  if isSpad va then s
  else match resolve s u (va / 128 * 128) (.read 1) true with
  | .error _ => s
  | .ok (l, ord) =>
    let hot (pa : Nat) : Bool := s.clusters.any fun e => e.2.hot.any fun h => h.line = pa / 128 * 128
    let now := clockOf s (core / 8)
    match lineKey l with
    | none => s
    | some key =>
      let remote := match l with | .remote _ _ => true | .spad _ | .mem _ => false
      if ord = 0 || (match l with | .mem pa => hot pa | .spad _ | .remote _ _ => false) then s
      else
        let home := match l with
          | .remote d pa => s.rmem.bytes (remoteKey d (pa / 128 * 128)) 128
          | .mem _ | .spad _ => []
        let copy := l2Copy? s u key
        if remote && copy.isNone && !fabricUp s part then s
        else
        let s := if remote || inL2 s key then s else demandLine s part nobody key
        let s := if remote && copy.isSome then s
          else fillL2 s (core / 8) { owner := part, line := key, remote := remote, data := home, filled := now }
        match into with
        | .l2 => s
        | .l1 | .frame =>
          fillCore s core { frame := into = .frame, owner := part, line := key, remote := remote, filled := now
                            data := match l with
                              | .remote d pa => withPosted s core d (pa / 128 * 128) (copy.getD home)
                              | .mem pa => readMem s part (pa / 128 * 128) 128
                              | .spad _ => [] }

/-- A copy that has reached its time is discarded: that of a core, or after those of the core, one of its cluster's L2. -/
def expireLine (remote : Bool) (core index : Nat) (s : State) : State :=
  let k := s.core core
  let old (filled : Nat) : Bool := filled + lineClocks ≤ clockOf s (core / 8)
  match k.cache[index]? with
  | some c => if c.remote = remote && old c.filled then s.setCore core { k with cache := k.cache.eraseIdx index } else s
  | none =>
    let cl := s.cluster (core / 8)
    let j := index - k.cache.length
    match cl.l2[j]? with
    | some c => if remote && c.remote && old c.filled then s.setCluster (core / 8) { cl with l2 := cl.l2.eraseIdx j } else s
    | none => s

def execCacheLineExpiry (core index : Nat) (s : State) : Out := .next (expireLine false core index s)
def execRemoteLineExpiry (core index : Nat) (s : State) : Out := .next (expireLine true core index s)

/-! ## Soft errors (R357, R358, R417, R418) -/

/-- Saturating addition of 1. -/
def satInc (w : Word) : Word := if w = BitVec.allOnes 32 then w else w + 1

/-- The detail words of an error (R406): the address and the structure. The Saggar and the accumulators count with the register
files, and a hot store with the L2 (log 37). A register, an accumulator and the Saggar have no physical address: D0 and D1 are free
there (log 3, log 37). -/
def eccDetail (s : State) (u : EccUnit) : List Word × State :=
  let open_ (kind : Nat) : List Word × State :=
    let (x, s) := s.draw
    let (y, s) := s.draw
    ([x, y, w32 kind], s)
  match u with
  | .register _ | .accumulator _ _ | .saggar _ _ => open_ 0
  | .scratchpad _ a => (poisonDetail a 1, s)
  | .cache _ _ => open_ 2
  | .l2 a | .hotStore a => (poisonDetail a 3, s)
  | .bench a => (poisonDetail a 4, s)
  | .bulk a => (poisonDetail a 5, s)

/-- A unit of memory is poisoned: a line of bulk memory, or 64 bits of another structure (R357). -/
def poisonMem (s : State) (a size kind : Nat) : State :=
  let a := a / size * size
  if (s.poison.find? a).any fun e => size < e.1 then s else { s with poison := s.poison.put a (size, kind) }

/-- The protected unit of a lasting error is poisoned, and of an instruction line all of it (R417); one of a register or of an accumulator
kills the band's launch. An accumulator of a graph is marked: the command that reads it meets the poison. -/
def poisonUnit (s : State) (u : EccUnit) (line : Bool) (d : List Word) : State :=
  match u with
  | .register slot => match s.bands.find? slot with
    | none => s
    | some b => poisonKills s { lnch := b.lnch, bid := b.bid, slot := slot } d
  | .accumulator quad tile => match (s.quad quad).accOwn.find? tile with
    | some (.band r) => poisonKills s r d
    | some (.graph _ _) => s.setQuad quad { s.quad quad with accBad := (s.quad quad).accBad.put tile () }
    | none => s
  | .saggar quad o =>
    let qd := s.quad quad
    s.setQuad quad { qd with images := qd.images.adjust o fun x => { x with bad := true } }
  | .scratchpad core a => { s with spadPoison := s.spadPoison.put (spadAt core a / 16) () }
  | .cache _ _ => s
  | .l2 a | .hotStore a => poisonMem s a (if line then 128 else 8) 3
  | .bench a => poisonMem s a (if line then 128 else 8) 4
  | .bulk a => poisonMem s a 128 5

/-- A core gives up the line at a place of its list. -/
def dropCached (s : State) (core index : Nat) : State :=
  let k := s.core core
  s.setCore core { k with cache := k.cache.eraseIdx index }

/-- A read that met an error: corrected, transient or lasting. A lasting one is poisoned and reported. That of a copy line is
reported as the COPY_FAULT of the line, which then reads a poisoned unit. An error of a cache discards the line, which is read
again, and counts as corrected (log 37). A line of bulk memory that has been altered fails its check again (R447). -/
def execEccReadRetry (r : EccRead) (s : State) : Out :=
  .next <|
  match r.unit with
  | .cache core index => (dropCached s core index).modPart r.part fun p => { p with corrected := satInc p.corrected }
  | _ =>
  if r.corrected then s.modPart r.part fun p => { p with corrected := satInc p.corrected }
  else if r.retryOk && !(match r.unit with | .bulk a => glazeFails s a | _ => false) then s.modPart r.part fun p => { p with transient := satInc p.transient }
  else
    let s := s.modPart r.part fun p => { p with lasting := satInc p.lasting }
    let (d, s) := eccDetail s r.unit
    let f (n : Nat) (fetch : Bool) : FaultAt := { code := n, lane := 127, fetch := fetch, d := d }
    let s := poisonUnit s r.unit (r.reader = .prefetch) d
    match r.reader with
    | .access => reportFault s r.part nobody (f code.memPoison false) 0 0 0
    | .prefetch => reportFault s r.part nobody (f code.codePoison true) 0 0 0
    | .copy => s

/-- System software reads and clears the counters of a partition's errors (R418): corrected, transient, lasting, and lost records. -/
def readCounters (s : State) (part : Nat) : State :=
  let p := s.part part
  { s.modPart part (fun p => { p with corrected := 0, transient := 0, lasting := 0, lost := 0 }) with
    hostReads := s.hostReads ++ [wordsBytes [p.corrected, p.transient, p.lasting, p.lost]] }

/-- Something alters a line with its tag, a counter block or a node in bulk memory (R447). -/
def tamper (s : State) (level ch idx : Nat) : State :=
  if level ≤ 3 && ch < 256 && idx < 2 ^ 24 then { s with tampered := s.tampered.put (glazeKey level ch idx) () } else s

/-! ## Leases (R438) -/

/-- Clocks between lease boundaries. -/
def leaseClocks : Nat := 65536

/-- The engines of a kind in a die, by key. -/
def engineKeys (die kind : Nat) : List Nat := (List.range (Config.poolSize kind)).map fun e => 128 * die + 32 * kind + e

def leaseMin (s : State) (part die kind : Nat) : Nat := (s.part part).leases.getD (6 * die + 2 * kind) 0
def leaseMax (s : State) (part die kind : Nat) : Nat := (s.part part).leases.getD (6 * die + 2 * kind + 1) 0

/-- Queued work of a kind on a die. -/
def hasWork (s : State) (part die : Nat) : Nat → Bool
  | 0 => s.copies.any fun o => o.u.part = part && o.u.core / 64 = die
  | 1 => s.czs.any fun o => o.u.part = part && o.u.core / 64 = die
  | _ => (s.collectives.any fun c => c.part = part) || !(s.part part).ticks.isEmpty

/-- Engines that a table gives a partition. -/
def heldBy (t : Tab Nat) (part : Nat) : Nat := (t.filter fun e => e.2 = part).length

/-- A partition takes engines from a list up to a number. -/
def takeUpTo (part n : Nat) : List Nat → Tab Nat → Tab Nat
  | [], t => t
  | k :: ks, t => takeUpTo part n ks (if heldBy t part < n && !t.has k then t.put k part else t)

/-- Step 3 for each remaining engine: the table, and the partition served last. -/
def shareRest (want : Nat → Tab Nat → Bool) : List Nat → Tab Nat × Nat → Tab Nat × Nat
  | [], r => r
  | k :: ks, (t, last) =>
    if t.has k then shareRest want ks (t, last)
    else match ((List.range 128).map fun i => (last + 1 + i) % 128).find? fun p => p ≠ 0 && want p t with
      | none => shareRest want ks (t, last)
      | some p => shareRest want ks (t.put k p, p)

/-- The new holders of a die's engines of a kind. -/
def lease (s : State) (die kind : Nat) : State :=
  let keys := engineKeys die kind
  let parts := (s.parts.filter fun e => e.2.state = 1).map Prod.fst
  let old (k : Nat) : Option Nat := s.engines.find? k
  let t0 : Tab Nat := keys.filterMap fun k => if s.standing.has k then (old k).map fun p => (k, p) else none
  let t1 := parts.foldl (fun t p => takeUpTo p (leaseMin s p die kind) (keys.filter fun k => old k = some p) t) t0
  let t2 := parts.foldl (fun t p => takeUpTo p (leaseMin s p die kind) keys t) t1
  let want (p : Nat) (t : Tab Nat) : Bool := parts.contains p && hasWork s p die kind && heldBy t p < leaseMax s p die kind
  let (t3, last) := shareRest want keys (t2, s.lastServed.getD (4 * die + kind) 0)
  { s with engines := t3.foldl (fun e (x : Nat × Nat) => e.put x.1 x.2) (s.engines.drop (128 * die + 32 * kind) (128 * die + 32 * kind + 32))
           lastServed := s.lastServed.put (4 * die + kind) last }

/-- A lease boundary of a die, by the clock of cluster 0 or 8. -/
def execLeaseBoundary (die : Nat) (s : State) : Out :=
  .next (if clockOf s (8 * die) % leaseClocks = 0 then (List.range 3).foldl (fun s k => lease s die k) s else s)

end Sys2Proof.Machine
end

