-- ==== Sys2Proof/Machine/Kiln.lean ====
section
/-!
DEFINITION. Kiln: the mailbox (R432, R433), partitions (R430, R431, R434 to R436, R442, R446, R475), shoot-downs (R416),
scarf windows (R448 to R450), attestation (R451, R453, R454), the life cycle and the wipe of the device (R455, R456).
-/
namespace Sys2Proof.Machine

/-! ## The wipe of the device (R456) -/

/-- The device after a wipe: as at reset, but for what lies outside the wipe: the fuses, the firmware, the creation count,
other devices' memory, and what the host has received. -/
def State.wiped (s : State) : State :=
  { State.reset with
    agenda := s.agenda, cur := s.cur, fresh := s.fresh, nextId := s.nextId, rmem := s.rmem, serial := s.serial
    kilnVersion := s.kilnVersion, wheelVersion := s.wheelVersion
    kilnRollback := s.kilnRollback, wheelRollback := s.wheelRollback, kilnRun := s.kilnRun, wheelRun := s.wheelRun
    fuses := s.fuses
    notes := s.notes, hostReads := s.hostReads, loads := s.loads }

/-! ## The mailbox (R432, R433) -/

def command (s : State) (page : Nat) : List Byte := s.mail.bytes (128 * page) 64
def opOf (s : State) (page : Nat) : Nat := leAt (command s page) 0 2
def tagOf (s : State) (page : Nat) : Word := w32 (leAt (command s page) 4 4)
/-- n bytes of ARGS at an offset. -/
def argAt (s : State) (page off n : Nat) : Nat := leAt (command s page) (8 + off) n
/-- The partition that a command acts for. -/
def targetOf (s : State) (page : Nat) : Nat := if page = 0 then leAt (command s page) 2 2 else page

/-- The page may send the operation. -/
def opAllowed (page op : Nat) : Bool :=
  if op = 1 || op = 2 || op = 9 then page = 0
  else if op = 3 || op = 4 || op = 8 then true
  else if op = 5 || op = 6 || op = 7 then page ≠ 0
  else false

/-- Kiln serves one command at a time: the next one when no answer is outstanding. -/
def kilnFree (s : State) : Bool := s.shootdowns.isEmpty && !s.parts.any fun e => e.2.initialising

def serving (s : State) (page op : Nat) : Bool :=
  s.doorbells.head? = some page && kilnFree s && opOf s page = op && opAllowed page op

/-- Writes a response without a command that it ends (R448). -/
def putResponse (s : State) (page : Nat) (tag : Word) (status : Nat) (result : List Byte) : State :=
  let bs := leBytes 4 tag.toNat ++ leBytes 4 status ++ result
  notify { s with mail := s.mail.setBytes (128 * page + 64) (bs ++ zeros (64 - bs.length)) } (4 * page)

/-- Writes the response to the command being served. -/
def respond (s : State) (page : Nat) (status : Nat) (result : List Byte) : State :=
  putResponse { s with doorbells := s.doorbells.drop 1 } page (tagOf s page) status result

def status.badOp : Nat := 1
def status.badArg : Nat := 2
def status.noResource : Nat := 3
def status.wrongState : Nat := 4
def status.refused : Nat := 5
def status.pending : Nat := 6

/-- An OP that is not listed, or from a wrong page. -/
def execKilnBadOp (page : Nat) (s : State) : Out :=
  .next (if s.doorbells.head? = some page && kilnFree s && !opAllowed page (opOf s page) then respond s page status.badOp [] else s)

/-! ## Wipes of a partition's units (R344, R348, R435, R446) -/

/-- Memory from lo to hi is zero, with no poison, header, copy or hot line. -/
def wipeRange (s : State) (lo hi : Nat) : State :=
  let inside (a : Nat) : Bool := lo ≤ a && a < hi
  { s with
    mem := s.mem.wipe lo hi
    poison := s.poison.drop lo hi
    headers := s.headers.drop lo hi
    cores := s.cores.map fun (e : Nat × CoreState) =>
      (e.1, { e.2 with cache := e.2.cache.filter fun c => c.remote || !inside c.line })
    clusters := s.clusters.map fun (e : Nat × ClusterState) => 
      (e.1, { e.2 with hot := e.2.hot.filter (fun h => !inside h.line), l2 := e.2.l2.filter fun x => x.remote || !inside x.line }) }

def wipeBench (s : State) (u : Nat) : State :=
  wipeRange s (u * Config.benchUnitBytes) ((u + 1) * Config.benchUnitBytes)

/-- A bulk channel with its counters and their tree. -/
def wipeChannel (s : State) (ch : Nat) : State :=
  let lo := Config.bulkBase + ch * Config.bulkChannelBytes
  let s := wipeRange s lo (lo + Config.bulkChannelBytes)
  { s with glaze := s.glaze.drop (ch * 2 ^ 18) ((ch + 1) * 2 ^ 18)
           glazeTree := s.glazeTree.filter (fun e => e.1 % 2 ^ 40 / 2 ^ 18 ≠ ch)
           tampered := s.tampered.filter fun e => e.1 % 2 ^ 48 / 2 ^ 24 ≠ ch }

def wipeGroup (s : State) (g : Nat) : State := (List.range 8).foldl (fun s k => wipeChannel s (8 * g + k)) s

/-- A quadrant for an owner: its accumulators, Saggar and queue, its slice with tiles and buffers, its gang entries. -/
def wipeQuad (owner : Nat) (s : State) (q : Nat) : State :=
  let c := q / 4
  let i := q % 4
  let k := s.core c
  let lo := spadAt c (Config.sliceBytes * i)
  let s := { s with spad := s.spad.wipe lo (lo + Config.sliceBytes)
                    spadPoison := s.spadPoison.drop (lo / 16) ((lo + Config.sliceBytes) / 16) }
  (s.setCore c { k with tiles := k.tiles.drop (256 * i) (256 * i + 256), cbs := k.cbs.drop (8 * i) (8 * i + 8)
                        gangs := k.gangs.drop (16 * i) (16 * i + 16) }).setQuad q { Quad.init with owner := owner }

/-! ## The partition object (R431, R436, R475) -/

/-- The numbers of the bits that are set. -/
def bitsOf (n k : Nat) : List Nat := (List.range k).filter n.testBit

def powerOfTwo (n : Nat) : Bool := n ≠ 0 && Nat.land n (n - 1) = 0

/-- The fields that UPDATE reads again. -/
def refreshObject (p : Partition) (bs : List Byte) : Partition :=
  { p with
    fqring := leAt bs 160 8, fqsize := leAt bs 168 4, fqhead := w32 (leAt bs 176 4)
    handler := BitVec.ofNat 48 (leAt bs 184 8), root1 := leAt bs 192 8
    thb := leAt bs 416 8, thl := leAt bs 424 8, tho := leAt bs 432 8 }

/-- Their limits. -/
def refreshOk (bs : List Byte) : Bool :=
  let n := leAt bs
  n 160 8 < 2 ^ 48 && n 160 8 % 128 = 0 && powerOfTwo (n 168 4) && n 168 4 ≤ 65536 && n 184 8 < 2 ^ 48 && n 184 8 % 4 = 0
  && n 192 8 < 2 ^ 48 && [416, 424, 432].all fun o => n o 8 < 2 ^ 48 && n o 8 % 2 ^ 21 = 0

def kinds : List Nat := [0, 1, 2]
def dies : List Nat := [0, 1]

/-- The limits of the grant fields, for the partition number that the command names. -/
def objectOk (bs : List Byte) (part : Nat) : Bool :=
  let n := leAt bs
  1 ≤ part && part ≤ 127 && n 0 2 = part && zeroFields bs [(3, 1), (86, 2), (95, 1), (180, 4), (220, 4), (440, 72), (2560, 1536)]
  && n 8 64 ≠ 0 && n 128 8 < 2 ^ 48 && n 128 8 % 2 ^ 16 = 0 && n 136 8 % 2 ^ 16 = 0 && 2 ^ 20 ≤ n 136 8 && n 136 8 < 2 ^ 48
  && n 144 8 < 2 ^ 48 && n 144 8 % 64 = 0 && n 152 8 < 2 ^ 48 && 2240512 * (bitsOf (n 8 64) 512).length ≤ n 152 8
  && refreshOk bs
  && dies.all (fun d => kinds.all fun k =>
      n (208 + 6 * d + 2 * k) 1 ≤ n (209 + 6 * d + 2 * k) 1 && n (209 + 6 * d + 2 * k) 1 ≤ Config.poolSize k)

/-- The capability block (R436). -/
def capsOf (s : State) (p : Partition) : Tab Word :=
  let count (f : Nat → Nat) : Nat := ((p.quads.map f).eraseDups).length
  let least (k : Nat) : Nat := min (p.leases.getD (2 * k + 1) 0) (p.leases.getD (6 + 2 * k + 1) 0)
  [(0, w32 (if p.ports = 0 then 0x73F else 0x7FF)),
   (1, w32 (p.quads.length + 2 ^ 10 * count (· / 32) + 2 ^ 15 * count (· / 4))),
   (2, w32 (p.bench.length + 2 ^ 7 * p.groups.length + 2 ^ 13 * (bitsOf p.ports 24).length)),
   (3, w32 (bitsOf p.l2 256).length),
   (4, w32 (p.fhlen / 2 ^ 16)),
   (5, w32 (least 0 + 2 ^ 5 * least 1 + 2 ^ 8 * least 2)),
   (6, 0x00010001),
   (7, w32 s.devid)]

/-- The object bytes 0 to 511 as an attestation hashes them: STATE, FQTAIL, FQHEAD and ENERGY taken as zero. -/
def hashedObject (bs : List Byte) : List Byte :=
  let z (bs : List Byte) (o n : Nat) : List Byte := bs.take o ++ zeros n ++ bs.drop (o + n)
  z (z (z (bs.take 512) 2 1) 172 8) 200 8

def hash (bs : List Byte) : List Byte := (List.range 64).map (Config.sha512 bs)

/-- A queue descriptor that is enabled or stopped and keeps the limits (R363). -/
def descriptorOf (quads : List Nat) (bs : List Byte) : Option LaunchQueue :=
  let n := leAt bs
  if n 0 8 < 2 ^ 48 && n 0 8 % 64 = 0 && powerOfTwo (n 8 4) && n 8 4 ≤ 65536 && n 12 1 ≤ 15 && quads.any (fun q => q / 32 = n 12 1)
      && n 13 1 ≤ 3 && 1 ≤ n 14 2 && n 14 2 ≤ 255 && (n 24 1 = 1 || n 24 1 = 2) && zeroFields bs [(25, 39)] then
    some { ring := n 0 8, size := n 8 4, home := n 12 1, cmax := n 13 1, weight := n 14 2, head := w32 (n 16 4)
           tail := w32 (n 20 4), state := n 24 1 }
  else none

/-- The ring of a queue lies in the bench or bulk memory of its partition, page by page (R363). -/
def ringPlaced (s : State) (part : Nat) (q : LaunchQueue) : Bool :=
  q.ring + 64 * q.size ≤ 2 ^ 48 && !isSpad (q.ring + 64 * q.size - 1)
  && (List.range ((q.ring % 2 ^ 16 + 64 * q.size + 2 ^ 16 - 1) / 2 ^ 16)).all fun k =>
    match walkBoth s part (q.ring / 2 ^ 16 * 2 ^ 16 + k * 2 ^ 16) with
    | .error _ => false
    | .ok e => e.dev.isNone && granted s part e.pa

/-- Installs the queue descriptors; one that is refused stays disabled. -/
def installQueues (s : State) (part : Nat) : State :=
  let a := (s.part part).object
  (List.range 32).foldl (fun s q =>
    match (descriptorOf (s.part part).quads (s.mem.bytes (a + 512 + 64 * q) 64)).filter (ringPlaced s part) with
    | some v => s.modPart part fun p => { p with queues := p.queues.put q v }
    | none => { s.modPart part (fun p => { p with queues := p.queues.del q }) with
                mem := s.mem.setBytes (a + 512 + 64 * q + 24) [0] }) s

/-- A page of 64 KiB lies readable and writable with kind RC on a granted bench unit (R475). -/
def ramPage (s : State) (part va : Nat) : Bool :=
  match walkBoth s part va with
  | .error _ => false
  | .ok e => e.dev.isNone && e.ord = 1 && !lacks e.rights1 3 && !lacks e.rights2 3 && isBench e.pa
      && (s.part part).bench.contains (e.pa / Config.benchUnitBytes)

/-- The frame heap, the save region and the fault ring: address and length. -/
def areas (p : Partition) : List (Nat × Nat) := [(p.fhbase, p.fhlen), (p.svbase, p.svlen), (p.fqring, 128 * p.fqsize)]

def areaOk (s : State) (part : Nat) (a : Nat × Nat) : Bool :=
  (List.range ((a.1 % 2 ^ 16 + a.2 + 2 ^ 16 - 1) / 2 ^ 16)).all fun k => ramPage s part (a.1 / 2 ^ 16 * 2 ^ 16 + k * 2 ^ 16)

def apart (x y : Nat × Nat) : Bool := x.1 + x.2 ≤ y.1 || y.1 + y.2 ≤ x.1

/-- They are mapped as R475 says, and do not overlap. -/
def areasOk (s : State) (part : Nat) : Bool :=
  let as := areas (s.part part)
  as.all (fun a => a.1 + a.2 ≤ 2 ^ 48 && areaOk s part a) && as.Pairwise fun x y => apart x y

/-! ## CREATE (R434) -/

/-- Every granted unit is free and not disabled; the object lies in none of them. -/
def unitsFree (s : State) (p : Partition) : Bool :=
  let held (f : Partition → Bool) : Bool := s.parts.any fun e => f e.2
  p.quads.all (fun q => (s.quad q).owner = 0 && !s.fuses.disabledQuads.contains q)
  && p.bench.all (fun u => !held (·.bench.contains u) && !s.fuses.disabledBench.contains u && u ≠ p.object / Config.benchUnitBytes)
  && p.groups.all (fun g => !held (·.groups.contains g))
  && !held (fun x => Nat.land x.ports p.ports ≠ 0 || Nat.land x.l2 p.l2 ≠ 0)

/-- In each die, the minimums of all partitions fit the pool. -/
def minimumsFit (s : State) (p : Partition) : Bool :=
  dies.all fun d => kinds.all fun k =>
    let own (x : Partition) : Nat := x.leases.getD (6 * d + 2 * k) 0
    own p + (s.parts.foldl (fun n e => n + own e.2) 0) ≤ Config.poolSize k

/-- The partition that an object describes. -/
def objectPartition (s : State) (object : Nat) (bs : List Byte) (c : KilnChoice) : Partition :=
  let n := leAt bs
  let p := refreshObject
    { Partition.blank with
      serial := s.serial + 1, object := object, quads := bitsOf (n 8 64) 512, bench := bitsOf (n 72 14) 112
      groups := bitsOf (n 88 4) 32, ports := n 92 4, l2 := n 96 32, fhbase := n 128 8, fhlen := n 136 8, svbase := n 144 8
      svlen := n 152 8, fqtail := w32 (n 172 4), leases := (List.range 12).map fun k => n (208 + k) 1
      signers := ((List.range 4).map fun k => (bs.drop (288 + 32 * k)).take 32).filter fun k => k.any (· ≠ 0)
      weights := (List.range 16).map (fun k => (k, Config.energyWeight k)), root2 := c.root2, objHash := hash (hashedObject bs)
      initialising := true } bs
  { p with caps := capsOf s p }

/-- Kiln's tables lie in bench memory that no partition holds. -/
def managed (s : State) (a : Nat) : Bool := isBench a && !s.parts.any fun e => e.2.bench.contains (a / Config.benchUnitBytes)

/-- Writes entries of second-stage tables. -/
def writeTables (s : State) (es : List (Nat × DWord)) : State :=
  es.foldl (fun s e => { s with mem := s.mem.setBytes e.1 (leBytes 8 e.2.toNat) }) s

/-- The state in which a partition holds its units, wiped, with its keys drawn. -/
def grantUnits (s : State) (part : Nat) (p : Partition) : State :=
  let s := p.quads.foldl (wipeQuad part) s
  let s := p.groups.foldl wipeGroup (p.bench.foldl wipeBench s)
  { s with parts := s.parts.put part { p with floor := grantFloor s part }, serial := s.serial + 1, keys := s.keys.put part (s.fresh, s.fresh + 1), fresh := s.fresh + 2 }

/-- CREATE: the checks, then everything but the response (R434). The second-stage tables are Kiln's choice. -/
def execCreate (page : Nat) (c : KilnChoice) (s : State) : Out :=
  .next <|
  if !serving s page 1 then s
  else
    let part := targetOf s page
    let object := argAt s page 0 8
    let bs := s.mem.bytes object 4096
    if object % 4096 ≠ 0 || !managed s object || !objectOk bs part then respond s page status.badArg []
    else if s.parts.has part then respond s page status.refused []
    else
      let p := { objectPartition s object bs c with initTag := tagOf s page, initPage := page }
      if !unitsFree s p || !minimumsFit s p then respond s page status.noResource []
      else
        let t := grantUnits s part p
        if !c.entries.all (fun e => e.1 % 8 = 0 && managed t e.1) then s
        else
          let t := writeTables t c.entries
          if areasOk t part then t else respond s page status.badArg []

/-- The channel groups are initialised: the partition is active, and CREATE is answered. -/
def execCreateInitDone (part : Nat) (s : State) : Out :=
  .next <| match s.parts.find? part with
  | none => s
  | some p =>
    if !p.initialising then s
    else
      let s := s.modPart part fun p => { p with initialising := false, state := 1 }
      let ws := wordsBytes (p.weights.map Prod.snd)
      let m := ((s.mem.setBytes (p.object + 2) [1]).setBytes (p.object + 4) (leBytes 4 p.serial.toNat)).setBytes (p.object + 224) ws
      respond (installQueues { s with mem := m } part) p.initPage 0 []

/-! ## UPDATE (R433) -/

def execUpdate (page : Nat) (s : State) : Out :=
  .next <|
  if !serving s page 3 then s
  else
    let part := targetOf s page
    match s.parts.find? part with
    | none => respond s page status.badArg []
    | some p =>
      let bs := s.mem.bytes p.object 4096
      let t := s.modPart part fun p => refreshObject p bs
      if p.state ≠ 1 then respond s page status.wrongState []
      else if !refreshOk bs || !areasOk t part then respond s page status.badArg []
      else respond (installQueues t part) page 0 []

/-! ## Shoot-downs (R416) -/

/-- Every cluster's walk generation advances, and the entries of a partition that a test holds for are invalid. -/
def advanceGens (s : State) (part : Nat) (p : TlbEntry → Bool) : State :=
  let s := (List.range Config.clusters).foldl (fun s c => let cl := s.cluster c
                                                          s.setCluster c { cl with gen := cl.gen + 1 }) s
  { s with tlb := s.tlb.filter fun e => !(e.part = part && p e) }

/-- Step 1. The answer follows the acknowledgement. -/
def execShootdown (page : Nat) (s : State) : Out :=
  .next <|
  if !serving s page 4 then s
  else
    let part := targetOf s page
    if !s.parts.has part then respond s page status.badArg []
    else
      let (seq, s) := s.nextSeq
      let va := argAt s page 0 8
      let pages := argAt s page 8 8
      let s := advanceGens s part fun e => e.va < va + pages * 2 ^ 16 && va < e.va + e.size
      let d : Shootdown := { part := part, page := page, va := va, pages := pages
                             gens := (List.range Config.clusters).map fun c => (s.cluster c).gen
                             tag := tagOf s page, mailPage := page, seq := seq }
      { s with shootdowns := s.shootdowns ++ [d] }

/-- Step 3: no older walk of the range is in flight, and every access translated before has been performed. -/
def mayAcknowledge (s : State) (d : Shootdown) : Bool :=
  !(s.clusters.any fun (e : Nat × ClusterState) => e.2.walks.any fun (w : Nat × Walk) =>
      d.covers w.2.part w.2.page.1 w.2.page.2 && w.2.gen < (d.gens.getD e.1 0).toNat)
  && !((allRequests s).any fun r => r.part = d.part && r.seq < d.seq)
  && !(s.remotes.any fun r => r.part = d.part && r.seq < d.seq)

def execShootdownAck (index : Nat) (s : State) : Out :=
  .next <| match s.shootdowns[index]? with
  | none => s
  | some d => if mayAcknowledge s d then respond { s with shootdowns := s.shootdowns.eraseIdx index } d.mailPage 0 [] else s

/-! ## Scarf windows (R448 to R450) -/

/-- Where the second-stage leaf of an intermediate address lies: its physical address. -/
def leafEntry (s : State) (part ipa : Nat) : Nat :=
  let e1 := s.mem.num ((s.part part).root2 + 8 * field ipa 47 34) 8
  let a2 := field e1 42 16 * 2 ^ 16 + 8 * field ipa 33 21
  let e2 := s.mem.num a2 8
  if field e2 1 1 = 0 then a2 else field e2 42 16 * 2 ^ 16 + 8 * field ipa 20 16

/-- The intermediate addresses of n pages of 64 KiB. -/
def pagesFrom (ipa n : Nat) : List Nat := (List.range n).map fun k => ipa + pageBytes * k

/-- The physical page behind an intermediate page, where it is bulk memory granted to the partition. -/
def bulkPage (s : State) (part ipa : Nat) : Option Nat :=
  match stage2 s part ipa with
  | .error _ => none
  | .ok f =>
    let pa := f.page + ipa % f.size
    if f.dev.isNone && isBulk pa && (s.part part).groups.contains (channelOf pa / 8) then some pa else none

/-- The pages of a backing range, if it is mapped to bulk memory. -/
def backingPages (s : State) (part ipa l : Nat) : Option (List Nat) := (pagesFrom ipa (64 * l)).mapM (bulkPage s part)

/-- Sets or clears the V bit of table entries. -/
def setValid (v : Bool) (s : State) (entries : List Nat) : State :=
  entries.foldl (fun s a => { s with mem := s.mem.setByte a (if v then s.mem.byte a ||| 1 else s.mem.byte a &&& 0xFE) }) s

/-- A second-stage shoot-down: no entry of the partition stays, and its walks start again. -/
def secondShootdown (s : State) (part : Nat) : State :=
  let s := advanceGens s part fun _ => true
  { s with clusters := s.clusters.map fun (e : Nat × ClusterState) =>
      (e.1, { e.2 with walks := e.2.walks.map fun (w : Nat × Walk) =>
        if w.2.part = part then (w.1, newWalk s e.1 w.2.unit w.2.part w.2.va) else w }) }

/-- No access that has been translated to one of the pages waits to be performed. -/
def pagesIdle (s : State) (pages : List Nat) : Bool :=
  !(allRequests s).any fun r => r.dev.isNone && pages.contains (r.line / pageBytes * pageBytes)

/-- Zeroes pages, with their poison and their copies. Each line is written, so that its counter and the versions above it grow (R445,
R446). -/
def zeroPages (s : State) (pages : List Nat) : State :=
  pages.foldl (fun s a =>
    let s := wipeRange s a (a + pageBytes)
    (List.range 512).foldl (fun s k => glazeWrite (unpoison s (a + 128 * k) 128) (a + 128 * k)) s) s

/-- PROPOSE (R448, step 1). -/
def execPropose (page : Nat) (s : State) : Out :=
  .next <|
  if !serving s page 5 then s
  else
    let peer := argAt s page 0 8
    let l := argAt s page 8 8
    let backing := argAt s page 16 8
    let map := argAt s page 24 8
    let p := s.part page
    if p.state ≠ 1 then respond s page status.wrongState []
    else if (s.part peer).state ≠ 1 || peer = page || l = 0 || l > 512 || backing % 2 ^ 21 ≠ 0 || map % 2 ^ 21 ≠ 0
        || backing + l * 2 ^ 22 > 2 ^ 48 || map + l * 2 ^ 21 > 2 ^ 48 || (backingPages s page backing l).isNone then
      respond s page status.badArg []
    else if 4 ≤ p.proposals.length then respond s page status.noResource []
    else
      let id := s.proposalNext
      let x : Proposal := { id := id, tag := tagOf s page, peer := peer, len := l, backing := backing, map := map }
      let s := { s.modPart page (fun p => { p with proposals := p.proposals ++ [x] }) with proposalNext := id + 1 }
      respond s page status.pending (leBytes 8 id)

/-- Windows mapped in a partition, by number. -/
def windowsOf (s : State) (part : Nat) : List (Nat × Window) := s.windows.filter fun e => e.2.a = part || e.2.b = part

/-- A range is mapped to the pages in order, readable and writable. -/
def mapsTo (s : State) (part ipa : Nat) (pages : List Nat) : Bool :=
  (pages.zip (pagesFrom ipa pages.length)).all fun e =>
    match stage2 s part e.2 with
    | .error _ => false
    | .ok f => f.dev.isNone && f.page + e.2 % f.size = e.1 && !lacks f.rights 3

/-- The handle pair of a window (R449). -/
def handleBytes (key : Word) (n : Nat) : List Byte := leBytes 4 key.toNat ++ leBytes 4 n

/-- A's backing range is mapped no more, but for what its map range has of it. -/
def leavesBacking (t : State) (a : Nat) (x : Proposal) : Bool :=
  (pagesFrom x.backing (64 * x.len)).all fun ipa =>
    (x.map ≤ ipa && ipa < x.map + x.len * 2 ^ 21) || (match stage2 t a ipa with | .error _ => true | .ok _ => false)

/-- Step 3 of R448: the pages leave A, are zeroed, and are mapped in both partitions by Kiln's tables. Each partition then
has its handle: B in its answer, A in a second answer to its PROPOSE. -/
def makeWindow (s : State) (page : Nat) (c : KilnChoice) (a : Nat) (x : Proposal) (mapB : Nat) (pages : List Nat) : State :=
  let leaves := ((pagesFrom x.backing pages.length).map (leafEntry s a)).eraseDups.map fun l => (l, BitVec.ofNat 64 (s.mem.num l 8))
  if !pagesIdle s pages || !c.entries.all (fun e => e.1 % 8 = 0 && managed s e.1) then s
  else
    let t := zeroPages (secondShootdown (setValid false s (leaves.map Prod.fst)) a) pages
    let keyA := Config.kilnRandom t.fresh
    let keyB := Config.kilnRandom (t.fresh + 1)
    let w : Window := { a := a, b := page, working := pages.take (32 * x.len), published := pages.drop (32 * x.len), gen := 0
                        dirtyA := [], dirtyB := [], keyA := keyA, keyB := keyB, mapA := x.map, mapB := mapB, leaves := leaves }
    let t := { t with fresh := t.fresh + 3, keys := t.keys.put (128 + c.window) (t.fresh + 2, t.fresh + 2)
                      windows := t.windows.put c.window w }
    let t := writeTables (t.modPart a fun p => { p with proposals := p.proposals.filter fun y => y.id ≠ x.id }) c.entries
    if !mapsTo t a x.map w.working || !mapsTo t page mapB w.working || !leavesBacking t a x then s
    else respond (putResponse t a x.tag 0 (handleBytes keyA c.window)) page 0 (handleBytes keyB c.window)

/-- ACCEPT (R448, step 2). The number of the window is Kiln's choice. -/
def execAccept (page : Nat) (c : KilnChoice) (s : State) : Out :=
  .next <|
  if !serving s page 6 then s
  else
    let a := argAt s page 0 8
    let mapB := argAt s page 24 8
    if (s.part page).state ≠ 1 then respond s page status.wrongState []
    else match (s.part a).proposals.find? fun x => x.id = argAt s page 8 8 && x.peer = page && x.len = argAt s page 16 8 with
    | none => respond s page status.badArg []
    | some x => match backingPages s a x.backing x.len with
      | none => respond s page status.badArg []
      | some pages =>
        if mapB % 2 ^ 21 ≠ 0 || mapB + x.len * 2 ^ 21 > 2 ^ 48 then respond s page status.badArg []
        else if 128 ≤ s.windows.length || 16 ≤ (windowsOf s a).length || 16 ≤ (windowsOf s page).length then
          respond s page status.noResource []
        else if c.window ≥ 128 || s.windows.has c.window then s
        else makeWindow s page c a x mapB pages

/-- The end of a window (R450): both ranges are unmapped, the images zeroed, the key destroyed, and the pages mapped
again at A's backing range, by the leaves that it had. -/
def closeWindow (s : State) (n : Nat) (w : Window) : State :=
  let entries (part ipa : Nat) : List Nat := ((pagesFrom ipa w.working.length).map (leafEntry s part)).eraseDups
  let t := setValid false s (entries w.a w.mapA ++ entries w.b w.mapB)
  let t := { t with windows := t.windows.del n, keys := t.keys.del (128 + n) }
  let t := zeroPages (secondShootdown (secondShootdown t w.a) w.b) (w.working ++ w.published)
  writeTables t w.leaves

/-- CLOSE: of a window by its handle, once every access to it has been performed, or of a proposal by its id. -/
def execClose (page : Nat) (s : State) : Out :=
  .next <|
  if !serving s page 7 then s
  else match windowOf s page (w32 (argAt s page 0 4)) (w32 (argAt s page 4 4)) with
  | some (n, w) => if pagesIdle s (w.working ++ w.published) then respond (closeWindow s n w) page 0 [] else s
  | none =>
    let mine (part : Nat) (x : Proposal) : Bool := x.id = argAt s page 0 8 && (part = page || x.peer = page)
    if s.parts.any fun e => e.2.proposals.any (mine e.1) then
      respond { s with parts := s.parts.map fun (e : Nat × Partition) =>
        (e.1, { e.2 with proposals := e.2.proposals.filter fun x => !mine e.1 x }) } page 0 []
    else respond s page status.badArg []

/-! ## DESTROY (R435) -/

/-- The fault codes that are listed (R404). -/
def listedCodes : List Nat :=
  [1, 2, 3, 4, 5] ++ (List.range 9).map (0x10 + ·) ++ (List.range 6).map (0x20 + ·) ++ (List.range 8).map (0x30 + ·)
  ++ (List.range 9).map (0x40 + ·) ++ (List.range 8).map (0x50 + ·) ++ (List.range 12).map (0x60 + ·) ++ [0x70]

/-- Step 1: nothing more starts, and every launch is killed; which listed code its records have is not stated, and free (log 3,
log 49). -/
def retire (s : State) (part : Nat) (p : Partition) : State :=
  let s := s.modPart part fun p => { p with state := 2 }
  let s := { s with mem := s.mem.setByte (p.object + 2) 2 }
  let (c, s) := s.draw
  (s.launches.filter fun e => e.2.part = part).foldl (fun s e => killLaunch s (w32 e.1) (listedCodes.getD (c.toNat % listedCodes.length) 0) none) s

/-- Nothing of a partition is under way. -/
def partIdle (s : State) (part : Nat) : Bool :=
  !(s.launches.any fun e => e.2.part = part) && !(s.copies.any fun o => o.u.part = part) && !(s.czs.any fun o => o.u.part = part)
  && !(s.remotes.any fun r => r.part = part) && !(s.collectives.any fun c => c.part = part)
  && !((allRequests s).any fun r => r.part = part)

/-- Steps 2 to 5. ENERGY of the object keeps the partition's total (R431). -/
def removePartition (s : State) (part : Nat) (p : Partition) : State :=
  let s := dropRequests s part
  let s := p.graphs.foldl (fun s e => dropGraph s part (w32 e.1) e.2 none) s
  let s := (windowsOf s part).foldl (fun s e => closeWindow s e.1 e.2) s
  let s := p.groups.foldl wipeGroup (p.bench.foldl wipeBench (p.quads.foldl (wipeQuad 0) s))
  { s with
    parts := (s.parts.del part).map fun (e : Nat × Partition) =>
      (e.1, { e.2 with proposals := e.2.proposals.filter fun x => x.peer ≠ part })
    keys := s.keys.del part
    engines := s.engines.filter fun e => e.2 ≠ part
    tlb := s.tlb.filter fun e => e.part ≠ part
    clusters := s.clusters.map fun (e : Nat × ClusterState) => (e.1, { e.2 with walks := e.2.walks.filter (fun w => w.2.part ≠ part), l2 := e.2.l2.filter fun x => x.owner ≠ part })
    mem := (s.mem.setByte (p.object + 2) 0).setBytes (p.object + 200) (leBytes 8 ((s.part part).energy / 1024)) }

/-- DESTROY proceeds in order: a first step retires the partition, and once its launches have completed and its windows
are idle a second one removes it and answers. -/
def execDestroy (page : Nat) (s : State) : Out :=
  .next <|
  if !serving s page 2 then s
  else
    let part := targetOf s page
    match s.parts.find? part with
    | none => respond s page status.wrongState []
    | some p =>
      if p.state = 1 then retire s part p
      else if partIdle s part && (windowsOf s part).all (fun e => pagesIdle s (e.2.working ++ e.2.published)) then
        respond (removePartition s part p) page 0 []
      else s

/-! ## Attestation (R453, R454) -/

/-- A 128-byte signature block at an offset (R118, R451): the signature over what stands before it, under a key that is accepted, then that
key and 32 zero bytes. -/
def blockOk (accepts : List Byte → Bool) (bs : List Byte) (sig : Nat) : Bool :=
  let key := (bs.drop (sig + 64)).take 32
  accepts key && allZero ((bs.drop (sig + 96)).take 32) && Config.ed25519Verify key ((bs.drop sig).take 64) (hash (bs.take sig))

/-- The bytes of a firmware image that are signed: its header and its body (R452). -/
def signedLength (bs : List Byte) : Nat := 64 + leAt bs 16 8

/-- The key that a firmware image carries. -/
def imageKey (bs : List Byte) : List Byte := (bs.drop (signedLength bs + 64)).take 32

/-- A firmware image of a kind is accepted (R452): its header, the key whose SHA-512 is fused, its signature, and ROLLBACK against the
fused minimum. -/
def imageOk (bs : List Byte) (kind least : Nat) : Bool :=
  let n := leAt bs
  bs.length = signedLength bs + 128 && n 0 4 = 0x00465956 && n 4 2 = kind && zeroFields bs [(6, 2), (32, 32)] && n 12 4 ≤ 63
  && n 24 8 < n 16 8 && blockOk (fun k => hash k = (List.range 64).map Config.keyDigest) bs (signedLength bs) && least ≤ n 12 4

/-- The identity record. -/
def identityRecord (s : State) : List Byte :=
  match s.fuses.identity with
  | none => zeros 128
  | some k => (List.range 32).map (fun i => Config.identityByte (32 * k + i)) ++ (List.range 16).map Config.serialByte ++ zeros 16
      ++ (List.range 64).map Config.recordSignature

/-- The entries of a report for a partition's windows. -/
def reportWindows (s : State) (part : Nat) : List Byte :=
  let es := ((windowsOf s part).take 8).flatMap fun e =>
    let peer := if e.2.a = part then e.2.b else e.2.a
    leBytes 2 peer ++ leBytes 2 e.1 ++ leBytes 4 (e.2.working.length / 32) ++ leBytes 4 (s.part peer).serial.toNat ++ zeros 4
  es ++ zeros (128 - es.length)

/-- The report, signed. -/
def report (s : State) (part : Nat) (nonce : List Byte) : List Byte :=
  let p := s.part part
  let body := leBytes 4 0x54415956 ++ leBytes 2 1 ++ leBytes 2 part ++ nonce ++ hash (Config.firmware 1 s.kilnRun) ++ hash (Config.firmware 2 s.wheelRun)
    ++ wordsBytes ((List.range 8).map fun k => p.caps.getD k 0) ++ p.objHash ++ leBytes 4 s.fuses.life ++ leBytes 4 p.serial.toNat
    ++ leBytes 4 p.lasting.toNat ++ leBytes 4 (windowsOf s part).length ++ reportWindows s part ++ zeros 40
  let sig := Config.ed25519Sign (hash body)
  body ++ (List.range 64).map fun i => sig.getD i 0

/-- The place of an intermediate address of a partition that the host or Kiln may reach (R460): mapped, in the grant. -/
def hostPlace (s : State) (part ipa : Nat) (w : Bool) : Option Nat :=
  if part = 0 then (if managed s ipa then some ipa else none)
  else match stage2 s part ipa with
  | .error _ => none
  | .ok f =>
    let pa := f.page + ipa % f.size
    if f.dev.isNone && !lacks f.rights (if w then 2 else 1) && (granted s part pa || ((windowAt s pa).any fun x =>
        x.2.1.a = part || x.2.1.b = part)) then some pa else none

/-- A write by the host: bytes that are unmapped or out of the grant are discarded (R460). -/
def hostWrite (s : State) (part ipa : Nat) (bs : List Byte) : State :=
  (lineChunks bs.length ipa bs).foldl (fun s c => match hostPlace s part c.1 true with
    | none => s
    | some pa => writeMem s part none pa c.2) s

def execAttest (page : Nat) (s : State) : Out :=
  .next <|
  if !serving s page 8 then s
  else
    let part := targetOf s page
    let a := argAt s page 0 8
    let r := report s part ((command s page).drop 16 |>.take 32)
    if s.fuses.identity.isNone then respond s page status.refused []
    else if (s.part part).state ≠ 1 then respond s page status.badArg []
    else if (lineChunks 512 a r).any fun c => (hostPlace s page c.1 true).isNone then respond s page status.badArg []
    else respond (hostWrite s page a r) page 0 []

/-! ## The life cycle (R455) -/

/-- The states that may follow one. -/
def lifeStep (now next : Nat) : Bool := (now = 0 && next = 1) || (now = 1 && next = 2) || (now ≠ 3 && next = 3)

/-- The authorisation holds for its target state, under the Meolmis key that Kiln's image carries (R451). -/
def authorised (s : State) (bs : List Byte) (next : Nat) : Bool :=
  next = 3
  || ((bs.drop 4).take 16 = (List.range 16).map Config.serialByte
      && (bs.drop 20).take 32 = (if next = 2 then (identityRecord s).take 32 else zeros 32)
      && allZero ((bs.drop 52).take 12)
      && Config.ed25519Verify (imageKey (Config.firmware 1 s.kilnRun)) ((bs.drop 64).take 64) (hash (bs.take 64)))

/-- LIFE: the state advances, and the whole device is wiped (R456). A scrapped device does not leave reset. -/
def execLife (page : Nat) (s : State) : Out :=
  .next <|
  if !serving s page 9 then s
  else
    let a := argAt s page 0 8
    let bs := s.mem.bytes a 128
    let next := leAt bs 0 4
    if !(lineChunks 128 a bs).all (fun c => managed s c.1) || !lifeStep s.fuses.life next || !authorised s bs next then
      respond s page status.refused []
    else
      let t := s.wiped
      let key := if next = 1 then some s.fresh else if next = 3 then none else s.fuses.identity
      let t := { t with fuses := { t.fuses with life := next, identity := key }, fresh := s.fresh + 1 }
      if next = 3 then { t with held := true, ready := false }
      else respond { t with mail := s.mail, doorbells := s.doorbells } page 0 []

end Sys2Proof.Machine
end

