-- ==== Sys2Proof/Machine/Fabric.lean ====
section
/-!
DEFINITION. The fabric: remote requests and their acknowledgements (R324, R325, R336, R469), ports (R462, R464), and collectives
(R465 to R468).
-/
namespace Sys2Proof.Machine

/-! ## Remote operations (R324, R325) -/

/-- Two operations on one line of one device keep their order (R304, R327). -/
def sameLine (x y : RemoteOp) : Bool := x.dev = y.dev && x.pa / 128 = y.pa / 128

/-- A request's lanes at the home device (R319, R324). -/
def applyRemote (r : LineReq) (dev : Nat) : List LaneOp → State → State
  | [], s => s
  | o :: os, s =>
    let a := remoteKey dev o.pa
    let old := s.rmem.bytes a r.op.size
    let s := if r.op = .read then s else { s with rmem := s.rmem.setBytes a (newBytes r.op old o.x o.y) }
    applyRemote r dev os (returnOld s r o.lane old)

/-- The old values of a discarded atomic are free (log 3). -/
def drawOld (r : LineReq) : List LaneOp → State → State
  | [], s => s
  | o :: os, s =>
    let (w, s) := s.draw
    let (x, s) := s.draw
    drawOld r os (returnOld s r o.lane (leBytes 4 w.toNat ++ leBytes 4 x.toNat))

/-- An operation is performed at its home device, or discarded where that is isolated (R469). No copy that the issuing cluster's
L2 has filled before serves a later read of the thread, nor one of the core after an atomic or a write to an SO page (R304, R305,
R327). -/
def performRemote (s : State) (o : RemoteOp) : State :=
  let key := remoteKey o.dev (o.pa / 128 * 128)
  let s := dropL2 s o.core key
  match o.req with
  | some r =>
    let s := writeCopy s o.core key [] true
    requestEnds (if isolated s o.dev then drawOld r r.lanes s else applyRemote r o.dev r.lanes s) r
  | none =>
    let s := strong s o.core [o.ord]
    if isolated s o.dev then s else { s with rmem := s.rmem.setBytes (remoteKey o.dev o.pa) o.data }

def execRemoteRequest (index : Nat) (s : State) : Out :=
  .next <| match s.remotes[index]? with
  | none => s
  | some o =>
    if o.performed || !(isolated s o.dev || fabricUp s o.part)
        || (s.remotes.take index).any (fun x => !x.performed && sameLine x o) then s
    else
      let s := performRemote s o
      { s with remotes := s.remotes.map fun x => if x.seq = o.seq then { x with performed := true } else x }

/-- The count of a copy line whose last remote bytes have been acknowledged (R336). -/
def countRemote (s : State) (o : RemoteOp) : State :=
  match o.count with
  | none => s
  | some (line, k, n) =>
    if s.remotes.any fun x => x.count.any fun c => c.1 = line then s
    else counterAdd s { engineIssuer o.part o.core 1 with quad := 4 * o.core } o.ref true o.orig 0 k n

/-- The acknowledgement of an operation that has been performed: it is no longer outstanding (R325, R338). -/
def execRemoteAck (index : Nat) (s : State) : Out :=
  .next <| match s.remotes[index]? with
  | none => s
  | some o =>
    if !o.performed then s
    else drainSub (countRemote { s with remotes := s.remotes.filter fun x => x.seq ≠ o.seq } o) o.core o.ref.lnch 1

/-- A port is up, so that flits come in (R464). -/
def linked (s : State) : Bool := s.ports.any fun e => e.2.up

/-- A write by another device, which is dropped where that is isolated: to this device's memory, where a hot line takes it by port 9
of its engine (R352, R353), or to the memory of another device. Its transfers count against the owner that issued it (R355). -/
def outsideWrite (s : State) (src part : Nat) (dev : Option Nat) (pa : Nat) (bs : List Byte) : State :=
  if isolated s src then s
  else match dev with
  | none =>
    let cs := lineChunks bs.length pa bs
    let held (c : Nat × List Byte) : Bool :=
      let line := c.1 / 128 * 128
      isHot (s.cluster (owningCluster line)) line && !engineTurn s (owningCluster line) 9 line part
    if !linked s || cs.any held then s
    else cs.foldl (fun s c =>
      let line := c.1 / 128 * 128
      demandLine (hotAccess (dropLine (writeMem s 0 none c.1 c.2) line) none line) part nobody line) s
  | some d => { s with rmem := s.rmem.setBytes (remoteKey d pa) bs }

/-- An atomic by another device on one line of this device's memory comes to port 9 of the owning cluster's engine (R324, R351,
R353). Its result goes back over the fabric. -/
def outsideAtomic (s : State) (src part : Nat) (op : AtomicOp) (line : Nat) (lanes : List LaneOp) : State :=
  let line := line / 128 * 128
  let inLine (o : LaneOp) : Bool := line ≤ o.pa && o.pa + op.size ≤ line + 128 && o.pa % op.size = 0
  if !linked s || isolated s src || !lanes.all inLine || !(isBench line || isBulk line) then s
  else
    let (seq, s) := s.nextSeq
    let cl := owningCluster line
    setFifo s cl 9 (fifo s cl 9 ++ [{ seq := seq, orig := seq, ref := nobody, part := part, core := 0, cls := 6, line := line, dev := none
                                      op := op, lanes := lanes, entry := none, owners := 0 }])

/-! ## Ports (R462, R464) -/

def noPort : PortState := { up := false, failed := 0, silent := 0, idle := 0 }

/-- A port comes up, once, after the lock; one that has gone down stays down until reset. -/
def execPortUp (port : Nat) (s : State) : Out :=
  .next (if s.locked && port < 24 && !s.ports.has port then notify { s with ports := s.ports.put port { noPort with up := true } } 2 else s)

/-- Every partition that holds a port counts an error. -/
def countPort (s : State) (port : Nat) (f : Partition → Partition) : State :=
  { s with parts := s.parts.map fun (e : Nat × Partition) => if e.2.ports.testBit port then (e.1, f e.2) else e }

/-- The A record of a lasting error of a port (R418); its detail words are not stated, and free (log 3). -/
def reportPort (s : State) (part : Nat) : State :=
  let (x, s) := s.draw
  let (y, s) := s.draw
  let (z, s) := s.draw
  reportFault s part nobody { code := code.memPoison, lane := 127, d := [x, y, z] } 0 0 0

def portDown (s : State) (port : Nat) : State :=
  let s := countPort { s with ports := s.ports.put port noPort } port fun p => { p with lasting := satInc p.lasting }
  notify ((s.parts.filter fun e => e.2.ports.testBit port).foldl (fun s e => reportPort s e.1) s) 2

/-- Retransmissions that may fail (R464). -/
def retries : Nat := 16

/-- A flit arrives. A good one after bad ones was a transient error; after the flit, 16 retransmissions may fail. -/
def execFlitReceive (port : Nat) (good : Bool) (s : State) : Out :=
  .next <| match s.ports.find? port with
  | none => s
  | some p =>
    if !p.up then s
    else if good then
      let s := { s with ports := s.ports.put port { p with failed := 0, silent := 0 } }
      if p.failed = 0 then s else countPort s port fun p => { p with transient := satInc p.transient }
    else if p.failed ≥ retries then portDown s port
    else { s with ports := s.ports.put port { p with failed := p.failed + 1, silent := 0 } }

/-- 10 ms without a flit, and the 1 ms after which an idle port sends one, in clocks. -/
def silenceClocks : Nat := 36000000
def idleFlitClocks : Nat := 3600000

def execPortSilenceTimeout (port : Nat) (s : State) : Out :=
  .next <| match s.ports.find? port with
  | none => s
  | some p => if p.up && silenceClocks ≤ p.silent then portDown s port else s

def execIdleFlitTimer (port : Nat) (s : State) : Out :=
  .next <| match s.ports.find? port with
  | none => s
  | some p => if p.up && idleFlitClocks ≤ p.idle then { s with ports := s.ports.put port { p with idle := 0 } } else s

/-! ## Collectives (R465 to R468) -/

/-- The collective engine's accesses (class X), for the band that has issued the collective. -/
def collectiveIssuer (part : Nat) (r : Option BandRef) : Issuer := engineIssuer part (match r with | none => 0 | some r => coreOf r.slot) 4

/-- Element size of a TYPE code, for the types that a collective takes. -/
def collectiveSize : Nat → Option Nat
  | 4 | 5 | 8 => some 4
  | 6 | 7 => some 2
  | 9 => some 8
  | _ => none

def collectiveFmt : Nat → Fmt
  | 6 => Fmt.binary16 | 7 => Fmt.bfloat16 | 8 => Fmt.binary32 | _ => Fmt.binary64

/-- A number of n bytes that the engine reads. -/
def readNum (s : State) (part a n : Nat) : Nat := ((wheelRead s part a n).map leNat).getD 0

/-- The members of a group; none for an entry that breaks R465. -/
def membersOf (s : State) (part group : Nat) : Option (List Nat) :=
  let a := (s.part part).gtab + 16 * group
  let m := readNum s part a 4
  let list := readNum s part (a + 8) 8
  if m = 0 || m > 2097152 || readNum s part (a + 4) 4 ≠ 0 || list ≥ 2 ^ 48 then none
  else match wheelRead s part list (4 * m) with
  | none => none
  | some bs =>
    let ids := (leWords m bs).map (·.toNat)
    if (ids.zip (ids.drop 1)).all (fun e => e.1 < e.2) && ids.contains s.devid then some ids else none

/-- A record as it is taken from its slot. -/
def takeRecord (s : State) (part : Nat) (ref : Option BandRef) (seq : Nat) (bs : List Byte) : Collective :=
  let n := leAt bs
  { seq := seq, part := part, ref := ref, op := n 0 1, red := n 1 1, typ := n 2 1, group := n 4 4, src := n 8 8, dst := n 16 8
    count := n 24 4, root := n 28 4, cnt := n 32 8, arrivedAt := n 40 8, gseq := n 48 4
    members := (membersOf s part (n 4 4)).getD [], arrived := [], since := 0, stage := 0 }

/-- A record that is not bad (R465). -/
def recordGood (s : State) (c : Collective) (bs : List Byte) : Bool :=
  let n := leAt bs
  let p := s.part c.part
  1 ≤ c.op && c.op ≤ 4 && (if c.op ≤ 2 then c.red ≤ 2 else c.red = 0) && (collectiveSize c.typ).isSome
  && zeroFields bs [(3, 1), (52, 8)] && c.group ≤ 255 && n 8 8 < 2 ^ 48 && n 16 8 < 2 ^ 48 && 1 ≤ c.count && c.count ≤ 2 ^ 28
  && (if c.op = 2 || c.op = 3 then c.root < c.members.length else c.root = 0) && c.cnt < 2 ^ 48 && c.cnt % 8 = 0
  && c.arrivedAt < 2 ^ 48 && c.gseq = p.nextSeq.getD c.group 0 && !c.members.isEmpty && wbit (p.caps.getD 0 0) 7

/-- The rank of this device. -/
def Collective.rank (c : Collective) (s : State) : Nat := c.members.idxOf s.devid
def Collective.bytes (c : Collective) : Nat := c.count * (collectiveSize c.typ).getD 0
/-- The contribution of a rank carries data, but for those of a broadcast that is not the root's. -/
def Collective.carries (c : Collective) (rank : Nat) : Bool := c.op ≠ 3 || rank = c.root

/-- The clock of the lowest cluster of the die whose engine serves a partition (R467). -/
def collectiveClock (s : State) (part : Nat) : Nat := clockOf s (if holdsEngine s 0 2 part then 0 else 8)

/-- A contribution has arrived; the first one starts the time. -/
def Collective.arrive (c : Collective) (now rank : Nat) (bs : List Byte) : Collective :=
  { c with since := if c.arrived.isEmpty then now else c.since, arrived := c.arrived ++ [(rank, bs)] }

/-- The first collective of a group of a partition: the one that runs. -/
def running (s : State) (c : Collective) : Bool :=
  ((s.collectives.find? fun x => x.part = c.part && x.group = c.group).map (·.seq)) = some c.seq

def setCollective (s : State) (c : Collective) : State :=
  { s with collectives := s.collectives.map fun x => if x.seq = c.seq then c else x }

/-- The collective that runs in a group reads SRC and contributes it, once. A fault of that read is reported, and the
contribution stays away. -/
def contribute (s : State) (part group : Nat) : State :=
  match s.collectives.find? fun x => x.part = part && x.group = group with
  | none => s
  | some c =>
    let r := c.rank s
    if c.arrived.any fun e => e.1 = r then s
    else if !c.carries r then setCollective s (c.arrive (collectiveClock s part) r [])
    else match readVirtual s (collectiveIssuer part c.ref) .memory c.src c.bytes with
    | .error f => reportFault s part (c.ref.getD nobody) { f with lane := 127 } 0 0 0
    | .ok bs =>
      let s := touchAt s (collectiveIssuer part c.ref) (c.ref.getD nobody) (lineRuns c.bytes c.src c.bytes)
      setCollective s (c.arrive (collectiveClock s part) r bs)

/-- A collective leaves: its band has one operation less outstanding (R338), and the next of its group runs. -/
def endCollective (s : State) (c : Collective) : State :=
  let s := { s with collectives := s.collectives.filter fun x => x.seq ≠ c.seq }
  let s := match c.ref with
    | none => s
    | some r => drainSub s (coreOf r.slot) r.lnch 1
  contribute s c.part c.group

/-- Adds to CNT: a release at DEVICE scope. A fault is reported. -/
def addCnt (s : State) (c : Collective) (n : Nat) : State :=
  let u := { collectiveIssuer c.part c.ref with cls := 5 }
  match access s u c.cnt (.rmw 8) true with
  | .error f => reportFault s c.part (c.ref.getD nobody) { f with lane := 127 } 0 0 0
  | .ok k => counterAdd s u (c.ref.getD nobody) true c.seq 0 k n

/-- The addition to CNT has been sent: the collective leaves once it is performed (R338). -/
def settleCollective (s : State) (c : Collective) : State :=
  if owes s c.seq then setCollective s { c with stage := 2 } else endCollective s c

/-- Bytes that a collective has written in `t`, then its count n: at once, or where some bytes are remote, when other devices have
acknowledged them (R336). -/
def countCollective (s t : State) (c : Collective) (n : Nat) : State :=
  let t := owedBy s t c.seq
  if owes t c.seq then setCollective t { c with stage := 1 } else settleCollective (addCnt t c n) c

/-- A collective that other devices or an engine still owe goes on. -/
def goOn (s : State) (c : Collective) : State :=
  if owes s c.seq then s else if c.stage = 1 then settleCollective (addCnt s c 1) c else endCollective s c

/-- An abort (R468), with its reason: 1 timeout, 2 an isolated member, 3 a bad record. -/
def abortCollective (s : State) (c : Collective) (reason : Nat) : State :=
  let m := c.members.length
  let here (j : Nat) : Bool := c.arrived.any fun e => e.1 = j
  let map : List Byte := (List.range ((m + 7) / 8)).map fun k => BitVec.ofNat 8 <|
    (List.range 8).foldl (fun x j => x + if here (8 * k + j) then 2 ^ j else 0) 0
  let s := if c.arrivedAt = 0 then s else wheelWrite s c.part c.arrivedAt map
  let s := addCnt s c (2 ^ 32)
  let missing := match (List.range m).find? fun j => !here j with | some j => j | none => 0xFFFFFFFF
  let f : FaultAt := { code := code.collectiveAbort, cls := 4, lane := 127
                       d := [w32 c.group, w32 c.gseq, w32 c.arrived.length, w32 missing, w32 reason] }
  settleCollective (reportFault s c.part (c.ref.getD nobody) f 0 0 0) c

/-- A partition holds a collective engine; without one its collectives wait (R439). -/
def holdsCollective (s : State) (part : Nat) : Bool := holdsEngine s 0 2 part || holdsEngine s 64 2 part

/-- The next slot of the ring, once its TICK stands there and an engine takes it: TAKEN advances, and the record is taken or is bad. -/
def execCollectiveSlotConsume (part : Nat) (s : State) : Out :=
  .next <|
  let p := s.part part
  if p.state = 0 || p.csize = 0 || !holdsCollective s part then s
  else
    let taken := readNum s part (p.cdoor + 8) 4
    let k := taken % p.csize
    match wheelRead s part (p.cring + 64 * k) 64 with
    | none => s
    | some bs =>
      if leAt bs 60 4 ≠ (taken + 1) % 2 ^ 32 then s
      else
        let s := wheelWrite s part (p.cdoor + 8) (leBytes 4 (taken + 1))
        let (seq, s) := s.nextSeq
        let tick := p.ticks.find? k
        let c := takeRecord s part (tick.map Prod.fst) ((tick.map Prod.snd).getD seq) bs
        let good := recordGood s c bs
        let next := p.nextSeq.getD c.group 0
        let s := s.modPart part fun p =>
          { p with ticks := p.ticks.del k, nextSeq := if c.group ≤ 255 && c.gseq = next then p.nextSeq.put c.group (next + 1) else p.nextSeq }
        let s := { s with collectives := s.collectives ++ [c] }
        if !good then abortCollective s c 3
        else if c.members.any (isolated s) then abortCollective s c 2
        else contribute s part c.group

/-- Clocks after the first arrival (2 s). -/
def collectiveClocks : Nat := 7200000000

/-- A member has not contributed within 2 s of the first arrival (R467). -/
def lateCollective (s : State) (c : Collective) : Bool :=
  !c.arrived.isEmpty && c.arrived.length ≠ c.members.length && c.since + collectiveClocks ≤ collectiveClock s c.part

/-- A contribution of another member reaches this device (R467), while there is time. -/
def receiveContribution (s : State) (index rank : Nat) (bs : List Byte) : State :=
  match s.collectives[index]? with
  | none => s
  | some c => match c.members[rank]? with
    | none => s
    | some d =>
      if !linked s || lateCollective s c || rank = c.rank s || isolated s d || (c.arrived.any fun e => e.1 = rank)
          || bs.length ≠ (if c.carries rank then c.bytes else 0) then s
      else setCollective s (c.arrive (collectiveClock s c.part) rank bs)

/-- An abort that another member has begun reaches this device (R468), which has not written DST. -/
def receiveAbort (s : State) (index reason : Nat) : State :=
  match s.collectives[index]? with
  | none => s
  | some c => if !linked s || c.stage ≠ 0 || reason = 0 || reason > 3 then s else abortCollective s c reason

/-- The operation of a reduction on two codes of an element (R466). -/
def reduceOp (c : Collective) (x y : Nat) : Nat :=
  match ET.ofCode c.typ with
  | some .i32 | some .n32 =>
    if c.red = 0 then (x + y) % 2 ^ 32
    else
      let v (n : Nat) : Int := wrapInt n (c.typ = 4) 32
      let least := if v x ≤ v y then x else y
      let most := if v x ≤ v y then y else x
      if c.red = 1 then least else most
  | _ =>
    let t := collectiveFmt c.typ
    if c.red = 0 then fround (FVal.exactSum [fread false x t, fread false y t]) t .rne false
    else
      let r := minmaxCode (c.red = 2) (x, fread false x t) (y, fread false y t)
      operandCode t r.1 r.2

/-- The contribution of a rank. -/
def Collective.data (c : Collective) (rank : Nat) : List Byte := ((c.arrived.find? fun e => e.1 = rank).map Prod.snd).getD []

/-- Fold of an element over the ranks in ascending order. -/
def foldElement (c : Collective) (i : Nat) : Nat :=
  let e := (collectiveSize c.typ).getD 0
  let x (j : Nat) : Nat := leAt (c.data j) (i * e) e
  ((List.range c.members.length).drop 1).foldl (fun r j => reduceOp c r (x j)) (x 0)

/-- What this member writes to DST; none for a reduce on a member that is not the root. -/
def collectiveOutput (s : State) (c : Collective) : List Byte :=
  let e := (collectiveSize c.typ).getD 0
  let fold := (List.range c.count).flatMap fun i => leBytes e (foldElement c i)
  match c.op with
  | 1 => fold
  | 2 => if c.rank s = c.root then fold else []
  | 3 => c.data c.root
  | _ => (List.range c.members.length).flatMap c.data

/-- Every contribution has arrived and an engine of the partition carries it out: DST, then CNT, which waits where a part of DST is
remote until that has been acknowledged (R336). A fault of the write is reported, and nothing is counted. -/
def execCollectiveComplete (index : Nat) (s : State) : Out :=
  .next <| match s.collectives[index]? with
  | none => s
  | some c =>
    if c.stage ≠ 0 then goOn s c
    else if !running s c || c.arrived.length ≠ c.members.length || !holdsCollective s c.part || c.members.any (isolated s) then s
    else match writeVirtual s (collectiveIssuer c.part c.ref) (c.ref.getD nobody) true c.dst (collectiveOutput s c) with
    | .error f => endCollective (reportFault s c.part (c.ref.getD nobody) { f with lane := 127 } 0 0 0) c
    | .ok t =>
      let u := collectiveIssuer c.part c.ref
      countCollective s (touchAt t u (c.ref.getD nobody) (let n := (collectiveOutput s c).length; lineRuns n c.dst n)) c 1

/-- Every collective whose group holds an isolated device aborts (R469). -/
def abortIsolated (s : State) : State :=
  (s.collectives.filter fun c => c.stage = 0 && c.members.any (isolated s)).foldl (fun s c =>
    match s.collectives.find? fun x => x.seq = c.seq with
    | none => s
    | some c => abortCollective s c 2) s

/-- A member has not contributed in time (R467). -/
def execCollectiveTimeout (index : Nat) (s : State) : Out :=
  .next <| match s.collectives[index]? with
  | none => s
  | some c =>
    if c.stage ≠ 0 then s
    else if lateCollective s c then abortCollective s c 1 else s

end Sys2Proof.Machine
end

