-- ==== Sys2Proof/Machine/Host.lean ====
section
/-!
DEFINITION. The host's link: the memory window (R459, R460), the registers (R461 to R463), reset (R471), isolation (R469) and
power (R472).
-/
namespace Sys2Proof.Machine

/-! ## The memory window (R460) -/

/-- A byte that the host reads: zero where it is unmapped, or out of the grant. ENERGY of a partition object holds the
partition's total (R431, R441). -/
def hostByte (s : State) (part a : Nat) : Byte :=
  match hostPlace s part a false with
  | none => 0
  | some pa =>
    match (if part ≠ 0 then none
           else List.find? (fun e : Nat × Partition => e.2.object + 200 ≤ pa && pa < e.2.object + 208) s.parts) with
    | some e => (leBytes 8 (e.2.energy / 1024)).getD (pa - e.2.object - 200) 0
    | none => (readMem s part pa 1).getD 0 0

/-- A read: the bytes go to the host. While the device is held in reset they are zero (R471). -/
def execHostMemoryRead (part addr size : Nat) (s : State) : Out :=
  .next { s with hostReads := s.hostReads ++ [(List.range size).map fun k => if s.held then 0 else hostByte s part (addr + k)] }

/-- A posted write; while the device is held in reset it is discarded. -/
def execHostMemoryWrite (part addr : Nat) (data : List Byte) (s : State) : Out :=
  .next (if s.held then s else hostWrite s part addr data)

/-! ## What registers read as (R461 to R463) -/

/-- The device information block. -/
def infoBlock (s : State) : List Byte :=
  identityRecord s ++ leBytes 4 s.devid ++ leBytes 4 s.fuses.life ++ leBytes 4 s.kilnVersion.toNat ++ leBytes 4 s.wheelVersion.toNat
  ++ leBytes 64 (s.fuses.disabledQuads.foldl (fun n q => n + 2 ^ q) 0)
  ++ leBytes 14 (s.fuses.disabledBench.foldl (fun n u => n + 2 ^ u) 0) ++ zeros 2 ++ leBytes 4 s.ready.toNat ++ leBytes 4 s.booterr

def powerctl (s : State) : Word := w32 (s.limit * 2 ^ 8 + s.power * 4 + s.capOn.toNat)
def devset (s : State) : Word := w32 (s.locked.toNat * 2 ^ 31 + s.devid)
def portst (s : State) : Word := w32 ((s.ports.filter fun e => e.2.up).foldl (fun n e => n + 2 ^ e.1) 0)

/-- The device control page. -/
def controlPage (s : State) : List Byte :=
  leBytes 8 (powerctl s).toNat ++ leBytes 8 (devset s).toNat ++ leBytes 8 (portst s).toNat ++ zeros 232
  ++ (List.range 64).flatMap fun k => leBytes 4 (s.iso.getD k 0)

/-- The doorbell page of a partition. What a doorbell itself reads as is not stated, and free (log 3). -/
def doorbellByte (s : State) (part off : Nat) : Byte :=
  let p := s.part part
  if off < 0x108 then (leBytes 4 (Config.freeWord s.fresh).toNat).getD (off % 4) 0
  else if off < 0x110 then (leBytes 8 p.cring).getD (off - 0x108) 0
  else if off < 0x114 then (leBytes 4 p.csize).getD (off - 0x110) 0
  else if 0x118 ≤ off && off < 0x120 then (leBytes 8 p.cdoor).getD (off - 0x118) 0
  else if 0x120 ≤ off && off < 0x128 then (leBytes 8 p.gtab).getD (off - 0x120) 0
  else 0

/-- Where the identity record stands on the management page, which the spec does not state (R453, log 9). -/
def mailIdentity : Nat := 256

/-- A byte of the register window (R460): of the information block, the control page, a mailbox page with its command, response and on
the management page the identity record, or a doorbell page; zero at an unassigned offset. A device that is held in reset answers
READY and BOOTERR, and zero everywhere else (R471, log 52). -/
def registerByte (s : State) (off : Nat) : Byte :=
  if s.held && !(224 ≤ off && off < 232) then 0
  else if off < 0x1000 then (infoBlock s).getD off 0
  else if off < 0x2000 then (controlPage s).getD (off - 0x1000) 0
  else if 0x10000 ≤ off && off < 0x10000 + 0x1000 * 128 then
    let o := off % 0x1000
    if o < 128 then s.mail.byte (128 * ((off - 0x10000) / 0x1000) + o)
    else if off / 0x1000 = 16 && mailIdentity ≤ o && o < mailIdentity + 128 then (identityRecord s).getD (o - mailIdentity) 0
    else 0
  else if 0x101000 ≤ off && off < 0x100000 + 0x1000 * 128 then doorbellByte s ((off - 0x100000) / 0x1000) (off % 0x1000)
  else 0

/-- The host reads the register window. -/
def registerRead (s : State) (off n : Nat) : State :=
  { s with hostReads := s.hostReads ++ [(List.range n).map fun k => registerByte s (off + k)], fresh := s.fresh + 1 }

/-! ## Mailboxes and collective registers -/

/-- Where the doorbell of a mailbox page lies, which the spec does not state (log 9). -/
def mailDoorbell : Nat := 128

/-- A write to mailbox page q at an offset: the command, or the doorbell (R432). -/
def mailWrite (s : State) (q off : Nat) (bs : List Byte) : State :=
  if off + bs.length ≤ 64 then { s with mail := s.mail.setBytes (128 * q + off) bs }
  else if off = mailDoorbell then { s with doorbells := s.doorbells ++ [q] }
  else s

/-- The collective registers (R463): whole registers, with their limits. -/
def collectiveWrite (s : State) (part off : Nat) (bs : List Byte) : State :=
  let v := leNat bs
  if off = 0x108 && bs.length = 8 && v < 2 ^ 48 then s.modPart part fun p => { p with cring := v }
  else if off = 0x110 && bs.length = 4 && powerOfTwo v && v ≤ 4096 then s.modPart part fun p => { p with csize := v }
  else if off = 0x118 && bs.length = 8 && v < 2 ^ 48 && v % 16 = 0 then s.modPart part fun p => { p with cdoor := v }
  else if off = 0x120 && bs.length = 8 && v < 2 ^ 48 then s.modPart part fun p => { p with gtab := v }
  else s

/-- DEVID is written until the lock (R462). -/
def writeDevid (s : State) (v : Word) : State := if s.locked then s else { s with devid := wfield v 20 0 }

/-- LIMIT and CAP of POWERCTL: a LIMIT out of range is not written. -/
def execPowerLimitSet (v : Word) (s : State) : Out :=
  let l := wfield v 19 8
  .next { s with limit := if 1200 ≤ l && l ≤ 2400 then l else s.limit, capOn := wbit v 0 }

/-- DEVSET with LOCK = 1: DEVID is fixed, and the ports may start. -/
def execDevsetLock (v : Word) (s : State) : Out :=
  .next (if wbit v 31 then { writeDevid s v with locked := true } else s)

/-- An ISO entry; a valid one is never written again. The collectives whose group holds the device abort with no wait (R467, R469). -/
def execIsoWrite (entry : Nat) (v : Word) (s : State) : Out :=
  .next (if entry ≥ 64 || 2 ^ 31 ≤ s.iso.getD entry 0 then s
         else abortIsolated { s with iso := s.iso.setD entry (wfield v 20 0 + 2 ^ 31 * (wbit v 31).toNat) 0 })

/-! ## Reset (R471) -/

/-- The machine with the images of a reset running (R452). -/
def State.boots (s : State) (n : Nat) : State :=
  let k := Config.firmware 1 n
  let w := Config.firmware 2 n
  { s with kilnRun := n, kilnVersion := w32 (leAt k 8 4), kilnRollback := leAt k 12 4
           wheelRun := n, wheelVersion := w32 (leAt w 8 4), wheelRollback := leAt w 12 4 }

/-- The reset sequence: the fused minimums rise to the images that have run (R452), the wipe, the boot ROM's check of Kiln's image, and
Kiln's of Wheel's. A device whose wipe fails, whose Kiln image is refused, or that is scrapped stays in reset; so does one whose
Wheels do not start (log 52). -/
def resetDevice (s : State) : State :=
  let n := s.fresh
  let f := { s.fuses with minKiln := max s.fuses.minKiln s.kilnRollback, minWheel := max s.fuses.minWheel s.wheelRollback }
  let r := if Config.wipeFails n then 2 else if !imageOk (Config.firmware 1 n) 1 f.minKiln then 1 else 0
  let t := { s.wiped with fuses := f, fresh := n + 1, booterr := r }
  if s.fuses.life = 3 || r ≠ 0 || !imageOk (Config.firmware 2 n) 2 f.minWheel then { t with held := true, ready := false } else t.boots n

def execWarmReset (s : State) : Out := .next (resetDevice s)
def execColdReset (s : State) : Out := .next (resetDevice s)

/-! ## Register writes (R460 to R463) -/

/-- The fault doorbell of a partition (R410, R463): SEQ, and the action. -/
def faultDoorbell (part : Nat) (bs : List Byte) (s : State) : Out :=
  let seq := w32 (leAt bs 0 4)
  match leAt bs 4 4 % 4 with
  | 0 => execFaultDoorbellReplay part seq s
  | 1 => execFaultDoorbellDeliver part seq s
  | 2 => execFaultDoorbellKill part seq s
  | _ => execFaultDoorbellIgnore part seq s

/-- A write to the doorbell page of a partition: TAIL of a launch queue, the fault doorbell, or a collective register (R463). -/
def doorbellWrite (part off : Nat) (bs : List Byte) (s : State) : Out :=
  if off < 0x100 && off % 8 = 0 && bs.length = 4 then execLaunchQueueDoorbell part (off / 8) (w32 (leNat bs)) s
  else if off = 0x100 && bs.length = 8 then faultDoorbell part bs s
  else .next (collectiveWrite s part off bs)

/-- A write to the device control page, by the register that it names (R462). -/
def controlWrite (off : Nat) (bs : List Byte) (s : State) : Out :=
  let v := w32 (leNat bs)
  if bs.length ≠ 4 then .next s
  else if off = 0 then (if wbit v 1 then execWarmReset s else execPowerLimitSet v s)
  else if off = 8 then (if wbit v 31 then execDevsetLock v s else .next (writeDevid s v))
  else if 0x100 ≤ off && off < 0x200 && off % 4 = 0 then execIsoWrite ((off - 0x100) / 4) v s
  else .next s

/-- A write to the register window, by the page that it names (R460). While the device is held in reset only the control page takes
one; others are discarded, as are those to unassigned offsets. -/
def execRegisterWrite (offset : Nat) (data : List Byte) (s : State) : Out :=
  if 0x1000 ≤ offset && offset < 0x2000 then controlWrite (offset - 0x1000) data s
  else if s.held then .next s
  else if 0x10000 ≤ offset && offset < 0x10000 + 0x1000 * 128 then
    .next (mailWrite s ((offset - 0x10000) / 0x1000) (offset % 0x1000) data)
  else if 0x101000 ≤ offset && offset < 0x100000 + 0x1000 * 128 then doorbellWrite ((offset - 0x100000) / 0x1000) (offset % 0x1000) data s
  else .next s

/-! ## Power and cooling (R472) -/

/-- POWERCTL.STATE; the host hears of a change (R463). -/
def setPower (s : State) (v : Nat) : State := if s.power = v then s else notify { s with power := v } 1

def execPowerEstimateWindow (watts : Nat) (s : State) : Out :=
  .next <|
  if s.power = 3 then s
  else if s.capOn && watts > s.limit then setPower s 1
  else if s.power = 1 then setPower s 0
  else s

/-- No slot has been occupied for 36,000 clocks. -/
def idleClocks : Nat := 36000

def execIdleTimeout (s : State) : Out :=
  .next (if s.power = 0 && s.bands.isEmpty && idleClocks ≤ s.idle then setPower s 2 else s)

def execThermalAlarm (s : State) : Out := .next (setPower s 3)
def execThermalStateEnd (s : State) : Out := .next (if s.power = 3 then setPower s 0 else s)

/-- At 110 degrees the device enters step 1 of the reset and stays there. -/
def execThermalTrip (s : State) : Out := .next { s with held := true, ready := false, ports := [] }

end Sys2Proof.Machine
end

