-- ==== Sys2Proof/Machine/Select.lean ====
section
/-!
DEFINITION. Which unit may issue: the next unit of a path, whether it is ready (R84, R87, R288, R289, R409), what it still has
to wait for under the ordering rules (R220, R304, R305, R311, R312, R328), and the choice of a path (R291).
-/
namespace Sys2Proof.Machine

/-! ## The next unit -/

/-- The form that the current path of a band issues next, with the band as the form meets it: the target of a REP, the
follower of a LIMM. There is none where the fetch faults or the word does not decode: that unit waits for nothing. -/
def upcoming (s : State) (b : Band) : Option (Instr × Band) :=
  let plain (w : Word) : Option Instr := match decodePlain w.toNat with | .ok i => some i | .error _ => none
  match fetchWord s b.pc with
  | .error _ => none
  | .ok w =>
    match b.path.rep with
    | some r => ((stepWord w r.mask (wideType b) (r.count - r.remaining)).bind plain).map fun i => (i, b)
    | none => match plain w with
      | some i => some (i, b)
      | none =>
        match fetchWord s (b.pc + 4), wfield w 31 27 with
        | .ok x, 24 => (plain x).map fun i => (i, b)
        | .ok x, 25 => (plain x).map fun i => (i, b.setPath { b.path with limm := some (w.extractLsb' 0 27) })
        | _, _ => none

/-- The words of the unit at the PC of a band's current path can be fetched: its own, and that of a prefix's target. -/
def fetches (s : State) (b : Band) : Bool :=
  match fetchWord s b.pc with
  | .error _ => false
  | .ok w =>
    b.path.rep.isSome || !([24, 25].contains (wfield w 31 27)) || (decodePlain w.toNat).isOk || (fetchWord s (b.pc + 4)).isOk

/-- A band as its path k meets it: switched to the path, with the results that the path sees (R289). -/
def Band.view (b : Band) (k : Nat) : Band :=
  let c := b.switchTo k
  let ids := c.seenBy k
  if ids.isEmpty then c else c.exchange ids

/-! ## Registers -/

/-- A write of a register with a key. -/
def RegWrite.names (k : Nat) (w : RegWrite) : Bool := w.mask ≠ 0 && (if w.vec then 128 + w.reg else w.reg) = k

/-- A long-latency result that has not arrived is still to be written to a register, and the current path is not in its window
(R85, R87). -/
def resultPends (b : Band) (k : Nat) : Bool :=
  b.results.any fun e => e.inTrap = b.inTrap && !e.arrived && !e.opensFor b.ix && !Band.apart (decide (128 ≤ k)) k e.path b.ix
    && e.writes.any (RegWrite.names k)

/-- A register has its value for the current path (R289): another path's long-latency result may still be to come. -/
def regReady (b : Band) (k : Nat) : Bool := !b.board.has k && !resultPends b k

/-- The path is past a window whose result has not arrived (R84). -/
def windowOver (b : Band) : Bool :=
  b.results.any fun e => e.inTrap = b.inTrap && !e.arrived && e.windows.find? b.ix = some 0

/-- Long-latency instructions that have not retired. A result that has arrived and is held for its window is none of them: a
further instruction waits until one has retired (R87, R288, log 59). -/
def outstanding (b : Band) : Nat := (b.results.filter fun e => e.long && !e.arrived).length

/-- A log entry of the path waits for a translation, and holds the unit (R409). -/
def logHolds (b : Band) (i : Instr) : Bool :=
  !b.inTrap && b.olog.any fun e => e.2.path = b.ix && e.2.wait &&
    (heldByLog i || (match decodePlain e.2.cap.word.toNat with
      | .ok j => (reads b i).any (destsOf b j).contains
      | .error _ => false))

/-! ## Readiness -/

/-- The next unit of the current path of band b, which is that of `cur`, is ready (R288). -/
def ready (s : State) (b : Band) : Bool :=
  !windowOver b && !b.board.has (nextUnitKey b) &&
  match upcoming s b with
  | none => true
  | some (i, x) =>
    (reads x i).all (regReady x) && !((writesOf x i).any (resultPends x)) && (!longLatency i || outstanding b < 8) && !logHolds x i
    && !accessHeld s x i (liveCap x i) && !releaseHeld s x i && !fenceHeld s x i && !hotHeld s x i && !portHeld s x i

/-- A path that may be selected: valid, not waiting, with no replay of its own to come first (R291, R408). While a path waits in LAUNCH
its siblings may be selected, where R262 says that the band issues nothing (log 38). -/
def selectable (b : Band) (k : Nat) : Bool :=
  (b.entry k).v && (b.entry k).wait.isNone && (b.inTrap || (nextReplay b k).isNone)

/-- The greater AGE, the lower entry of two. -/
def elder (b : Band) (m : Option Nat) (k : Nat) : Option Nat :=
  match m with
  | none => some k
  | some j => if (b.entry j).age < (b.entry k).age then some k else some j

/-- The greatest AGE. -/
def maxAge : BitVec 12 := 4095

/-- SelectPath (R291), with whether the unit selected is ready. -/
def selectPath (s : State) (b : Band) : Option (Nat × Bool) :=
  let v := (List.range b.tableSize).filter (selectable b)
  let rdy (k : Nat) : Bool := ready s (b.view k)
  match v.find? fun k => (b.entry k).age = maxAge with
  | some k => some (k, rdy k)
  | none =>
    if v.contains b.ix && rdy b.ix then some (b.ix, true)
    else ((v.filter rdy).foldl (elder b) none).map fun k => (k, true)

/-- Every entry of the operand log is in use, and the band issues nothing until a replay frees one (R38). A handler runs, since
no entry is replayed before its tret (R408, log 38). -/
def logFull (b : Band) : Bool := !b.inTrap && (b.olog.free? 4).isNone

/-- The slot's band acts: it is bound and not being saved or restored, no transfer of its half is under way (R284),
no pre-emption waits for its boundary (R295), and no fusion moves it (R298). -/
def slotActs (s : State) (n : Nat) : Bool :=
  (s.slot n).state = 1 && !(s.slot n).preq && !halfBusy s n && (s.bands.find? n).all fun b => b.fusing.isNone

/-- It may issue: its operand log has room too (R38). -/
def slotRuns (s : State) (n : Nat) : Bool := slotActs s n && (s.bands.find? n).all fun b => !logFull b

/-- The selected path of a slot's band. -/
def selected (s : State) (n : Nat) : Option (Nat × Bool) :=
  match s.bands.find? n with
  | none => none
  | some b => if slotRuns s n then selectPath { s with cur := n } b else none

/-- The pipe of a band's selected unit is free, and the quadrant has not yet issued in this clock (R285). M is not while a slice holds
as many beats of the quadrant as it can (R343). -/
def pipeFree (s : State) (n k : Nat) : Bool :=
  let t := { s with cur := n }
  let p := (s.quad (quadOf n)).pipes
  !p.has 4 && (match upcoming t (t.band.switchTo k) with
    | none => true
    | some (i, _) => !p.has (pipeOf i) && !(pipeOf i = 3 && slicesFull s (quadOf n)))

/-- The path on which a slot could issue now. -/
def candidate (s : State) (n : Nat) : Option Nat :=
  match selected s n with
  | some (k, true) => if pipeFree s n k then some k else none
  | some (_, false) | none => none

end Sys2Proof.Machine
end

