-- ==== Sys2Proof/Machine/Clock.lean ====
section
/-!
DEFINITION. The arithmetic clock: what one clock of the device changes by itself. The cycle counters of the clusters (R34),
the clocks for which engines and pipes are still held (R285, R353), the scoreboard (R289), the banks of the slices (R343), the slot wait counts (R287), the
waits of a regroup and of a fusion (R153, R298), the static power of each quadrant (R441), and the counts of clocks without a
flit (R464) or a band (R472).
-/
namespace Sys2Proof.Machine

/-- Counts one clock off each entry; one that has no more is deleted. -/
def countDown (t : Tab Nat) : Tab Nat := t.filterMap fun (e : Nat × Nat) => if e.2 ≤ 1 then none else some (e.1, e.2 - 1)

def ClusterState.clock (c : ClusterState) : ClusterState := { c with clk := c.clk + 1, busy := c.busy - 1 }

/-- Every cluster has its own counter, which no instruction writes (R34). -/
def clockClusters (s : State) : State :=
  (List.range Config.clusters).foldl (fun s k => s.setCluster k (s.cluster k).clock) s

/-- The key under which a quadrant counts the clocks until the queue step of qput takes the S pipe (R285). -/
def queueStep : Nat := 5

/-- The pipes of a quadrant: the queue step of qput takes S for one clock once its lane step has ended. -/
def Quad.clock (q : Quad) : Quad :=
  let due := q.pipes.getD queueStep 0 = 1
  let p := countDown q.pipes
  { q with pipes := if due then p.put 0 1 else p }

def clockQuads (s : State) : State := { s with quads := s.quads.map fun (e : Nat × Quad) => (e.1, e.2.clock) }

/-- The key under which a quadrant keeps that a slot of it has issued in this clock. -/
def issuedKey (n : Nat) : Nat := 8 + n % 8

/-- A slot's wait count (R287): it grows in every clock in which the band has a selected path and does not issue. -/
def waitCount (s : State) (n : Nat) (c : BitVec 8) : BitVec 8 :=
  if (selected s n).isNone || (s.quad (quadOf n)).pipes.has (issuedKey n) then 0 else if c = 255 then c else c + 1

/-- The wait counts all grow from the same state. -/
def clockSlots (s : State) : State :=
  { s with slots := s.slots.map fun (e : Nat × SlotState) =>
      if s.bands.has e.1 then (e.1, { e.2 with count := waitCount s e.1 e.2.count }) else e }

/-- A clock of a path that waits at a regroup. -/
def PathEntry.clock (p : PathEntry) : PathEntry :=
  match p.wait with
  | some w => if w.kind = .regroup then { p with wait := some { w with left := w.left - 1 } } else p
  | none => p

/-- The scoreboard counts the clocks since an instruction issued, whatever becomes of its band meanwhile (R289). -/
def Band.clockBoard (b : Band) : Band := { b with board := countDown b.board }

def Band.clock (b : Band) : Band := { b.clockBoard with prog := b.prog.map fun (e : Nat × PathEntry) => (e.1, e.2.clock) }

/-- A band that is being saved or restored, or is saved, keeps its waits as they stand. -/
def clockBands (s : State) : State :=
  { s with bands := s.bands.map (fun (e : Nat × Band) => (e.1, if (s.slot e.1).state = 1 && !e.2.stopped then e.2.clock else e.2.clockBoard))
           saved := s.saved.map fun (e : Nat × Band) => (e.1, e.2.clockBoard) }

/-- Weight 15 of a quadrant, split among its occupied slots by their register units, rounded down, or charged to its owner
(R441). -/
def clockPower (s : State) (q : Nat) (o : Nat) : State :=
  let mine := s.bands.filter fun (e : Nat × Band) => quadOf e.1 = q
  let units := (mine.map fun (e : Nat × Band) => e.2.rf / 32).foldl (· + ·) 0
  let w (p : Nat) : Nat := ((s.part p).weights.getD 15 0).toNat
  if units = 0 then addEnergy s o (w o)
  else
    let f (e : Nat × Band) : Nat × Band :=
      if quadOf e.1 = q then (e.1, e.2.addEnergy (w e.2.part * (e.2.rf / 32) / units)) else e
    { s with bands := s.bands.map f }

/-- Every quadrant that a partition holds. -/
def clockEnergy (s : State) : State :=
  s.quads.foldl (fun s (e : Nat × Quad) => if e.2.owner = 0 then s else clockPower s e.1 e.2.owner) s

def PortState.clock (p : PortState) : PortState := if p.up then { p with silent := p.silent + 1, idle := p.idle + 1 } else p

def clockPorts (s : State) : State := { s with ports := s.ports.map fun (e : Nat × PortState) => (e.1, e.2.clock) }

/-- A clock of the slices of a core (R343). -/
def clockSlices (s : State) : State :=
  { s with cores := s.cores.map fun (e : Nat × CoreState) =>
      if e.2.beats.isEmpty then e
      else
        let claimed := (List.range 4).flatMap fun k => aFetch s (4 * e.1 + k)
        let now := clockOf s (e.1 / 8)
        (e.1, { e.2 with beats := serveBeats now claimed (admitBeats now e.2.beats) [] }) }

def clockIdle (s : State) : State :=
  if s.bands.isEmpty then { s with idle := s.idle + 1 }
  else
    let s := { s with idle := 0 }
    if s.power = 2 then setPower s 0 else s

/-- One clock. -/
def execArithmeticClock (s : State) : Out :=
  .next (clockIdle (clockPorts (clockEnergy (clockBands (clockQuads (clockClusters (clockSlices (clockSlots s))))))))

end Sys2Proof.Machine
end

