-- ==== Sys2Proof/Machine/Loader.lean ====
section
/-!
DEFINITION. The loader: code objects (R113 to R119), the verifier of slipcode (R120 to R123) and the graph table (R272, R381).
-/
namespace Sys2Proof.Machine

/-! ## Sections (R113, R114) -/

structure Section where
  typ   : Nat
  link  : Nat
  off   : Nat
  size  : Nat
  align : Nat
  pad   : Nat
  deriving DecidableEq, Repr

def sectionAt (bs : List Byte) (o : Nat) : Section :=
  { typ := leAt bs o 4, link := leAt bs (o + 4) 4, off := leAt bs (o + 8) 8, size := leAt bs (o + 16) 8
    align := leAt bs (o + 24) 4, pad := leAt bs (o + 28) 4 }

def sectionsOf (bs : List Byte) : List Section :=
  (List.range (min (leAt bs 12 4) 32)).map fun k => sectionAt bs (leAt bs 16 8 + 32 * k)

/-- The contents of a section. -/
def contents (bs : List Byte) (x : Section) : List Byte := (bs.drop x.off).take x.size

def sectionOfType (bs : List Byte) (t : Nat) : Option Section := (sectionsOf bs).find? fun x => x.typ = t
/-- The contents of the section of a type; nothing where there is none. -/
def contentsOf (bs : List Byte) (t : Nat) : List Byte := ((sectionOfType bs t).map (contents bs)).getD []

/-- No value occurs twice. -/
def distinct (ns : List Nat) : Bool := ns.eraseDups.length = ns.length

/-- Check 6. Contents are compared with one another, and not with the header or the section table (log 53). -/
def sectionsOk (bs : List Byte) (sig : Nat) : Bool :=
  let xs := sectionsOf bs
  let one (x : Section) : Bool :=
    1 ≤ x.typ && x.typ ≤ 9 && (if x.typ = 9 then x.link < xs.length else x.link = 0) && x.off % 8 = 0 && x.off + x.size ≤ sig
    && x.align ≤ 21 && x.pad = 0 && (x.typ ≠ 1 || x.size % 4 = 0)
  1 ≤ leAt bs 12 4 && leAt bs 12 4 ≤ 32 && xs.all one
  && leAt bs 8 4 = (if xs.any fun x => x.typ = 2 then 1 else 0)
  && distinct ((xs.filter fun x => x.typ ≠ 9).map (·.typ)) && distinct ((xs.filter fun x => x.typ = 9).map (·.link))
  && decide ((xs.filter fun x => x.size ≠ 0).Pairwise fun x y => x.off + x.size ≤ y.off ∨ y.off + y.size ≤ x.off)

/-! ## Symbols and entries (R115, R117) -/

/-- A symbol record, with its name out of the name area. -/
structure Symbol where
  name  : List Byte
  sec   : Nat
  bind  : Nat
  kind  : Nat
  value : Nat
  size  : Nat
  deriving DecidableEq, Repr

/-- The name at an offset of the name area, up to its NUL. -/
def symbolName (area : List Byte) (o : Nat) : List Byte := (area.drop o).takeWhile (· ≠ 0)

/-- The symbols. A section too short for its count holds none (log 53). -/
def symbolsOf (bs : List Byte) : List Symbol :=
  let c := contentsOf bs 8
  let n := leAt c 0 8
  if 8 + 24 * n ≤ c.length then
    (List.range n).map fun k =>
      let f (o w : Nat) : Nat := leAt c (8 + 24 * k + o) w
      { name := symbolName (c.drop (8 + 24 * n)) (f 0 4), sec := f 4 2, bind := f 6 1, kind := f 7 1, value := f 8 8, size := f 16 8 }
  else []

/-- A symbol is defined: in a section of the object, or absolute. -/
def Symbol.ok (bs : List Byte) (x : Symbol) : Bool := x.sec = 0xFFFF || x.sec < (sectionsOf bs).length

/-- An entry record. -/
structure EntryRec where
  sym   : Nat
  units : Nat
  level : Nat
  rf    : Nat
  off   : Nat
  deriving DecidableEq, Repr

/-- The entry records; bytes past the last whole record are not read (log 53). -/
def entriesOf (bs : List Byte) : List EntryRec :=
  let c := contentsOf bs 5
  (List.range (c.length / 16)).map fun k =>
    { sym := leAt c (16 * k) 4, units := leAt c (16 * k + 4) 2, level := leAt c (16 * k + 6) 1, rf := leAt c (16 * k + 7) 1
      off := leAt c (16 * k + 8) 8 }

/-- The body is slipcode. -/
def EntryRec.slip (e : EntryRec) : Bool := e.rf / 4 % 2 = 1

/-- Check 7. A body in .text begins at an instruction word, so that its offset is a multiple of 4 (log 53). -/
def entryOk (bs : List Byte) (e : EntryRec) : Bool :=
  ((symbolsOf bs)[e.sym]?).any (fun x => x.kind = 1) && 1 ≤ e.units && e.units ≤ 1024 && e.level ≤ 7 && e.rf % 4 ≠ 3 && e.rf < 8
  && (e.slip || (e.off < (contentsOf bs 1).length && e.off % 4 = 0))

/-! ## The verifier (R120 to R122) -/

/-- Value types: 1 i32, 2 f32, 3 f64; 0 for an unknown type in code that is not reached. -/
abbrev ValType := Nat

def isValType (t : Nat) : Bool := 1 ≤ t && t ≤ 3

/-- An open block: 0 the body, 1 block, 2 loop, 3 if, 4 else; its result type (0 none), its entry height, and whether the
code is past a br, an exit or a trap. -/
structure Block where
  kind   : Nat
  result : ValType
  height : Nat
  dead   : Bool
  deriving DecidableEq, Repr

/-- The verifier's state: what is left of the body, the stack, the open blocks (innermost first). -/
structure Verifier where
  rest   : List Byte
  stack  : List ValType
  blocks : List Block
  deriving DecidableEq, Repr

/-- What a body is checked against. -/
structure SlipBody where
  locals : List ValType
  depth  : Nat
  level  : Nat
  /-- Symbols of kind data. -/
  data   : List Nat
  deriving DecidableEq, Repr

/-- An unsigned LEB128 number; the model reads at most ten bytes (log 53). -/
def uleb : Nat → List Byte → Option (Nat × List Byte)
  | 0, _ | _ + 1, [] => none
  | n + 1, b :: bs =>
    if b.toNat < 128 then some (b.toNat, bs) else (uleb n bs).map fun r => (b.toNat % 128 + 128 * r.1, r.2)

namespace Verifier

/-- Takes n bytes. -/
def bytes (v : Verifier) (n : Nat) : Option (Nat × Verifier) :=
  if v.rest.length < n then none else some (leAt v.rest 0 n, { v with rest := v.rest.drop n })

def number (v : Verifier) : Option (Nat × Verifier) := (uleb 10 v.rest).map fun r => (r.1, { v with rest := r.2 })

/-- Pops a value of a type (0: of any type): its type. In dead code an empty stack yields unknown values. -/
def pop (v : Verifier) (t : ValType) : Option (ValType × Verifier) :=
  match v.blocks, v.stack with
  | [], _ => none
  | b :: _, [] => if b.dead then some (t, v) else none
  | b :: _, x :: xs =>
    if v.stack.length ≤ b.height then (if b.dead then some (t, v) else none)
    else if t ≠ 0 && x ≠ 0 && x ≠ t then none else some (if x = 0 then t else x, { v with stack := xs })

def push (v : Verifier) (t : ValType) : Verifier := if t = 0 then v else { v with stack := t :: v.stack }
/-- Pushes a type that may be unknown. -/
def pushAny (v : Verifier) (t : ValType) : Verifier := { v with stack := t :: v.stack }

/-- Pops values of types in order. -/
def popAll (v : Verifier) : List ValType → Option Verifier
  | [] => some v
  | t :: ts => (v.pop t).bind fun r => r.2.popAll ts

/-- Pops two values of one floating type. -/
def popFloats (v : Verifier) : Nat → ValType → Option (ValType × Verifier)
  | 0, t => some (t, v)
  | n + 1, t => (v.pop t).bind fun r => if r.1 = 1 then none else r.2.popFloats n r.1

/-- The rest of the innermost block is not reached. -/
def kill (v : Verifier) : Verifier :=
  match v.blocks with
  | [] => v
  | b :: bs => { v with stack := v.stack.drop (v.stack.length - b.height), blocks := { b with dead := true } :: bs }

/-- The types that a branch to a block takes along. -/
def label (v : Verifier) (d : Nat) : Option (List ValType) :=
  (v.blocks[d]?).map fun b => if b.kind = 2 || b.result = 0 then [] else [b.result]

/-- A branch out of d blocks takes its values and leaves them. -/
def branch (v : Verifier) (d : Nat) : Option Verifier :=
  (v.label d).bind fun ts => (v.popAll ts).map fun w => ts.foldl push w

/-- The stack of the innermost block at its end is its entry height plus its result. -/
def closes (v : Verifier) : Bool :=
  match v.blocks with
  | [] => false
  | b :: _ => match v.popAll (if b.result = 0 then [] else [b.result]) with
    | none => false
    | some w => w.stack.length = b.height

def opens (v : Verifier) (kind : Nat) : Option Verifier :=
  (v.bytes 1).bind fun (t, v) =>
    if t > 3 then none
    else (if kind = 3 then v.popAll [1] else some v).map fun v =>
      { v with blocks := { kind := kind, result := t, height := v.stack.length, dead := false } :: v.blocks }

end Verifier

/-- The VALU functions of R81 but for vsel. -/
def slipInt (fn : Nat) : Option Nat :=
  if [0, 1, 2, 3, 4, 5, 8, 9, 10, 11, 16, 17, 18, 19, 24, 25, 26].contains fn then some 2
  else if [32, 33, 34, 35].contains fn then some 1 else none

/-- Operands of a VFP function. -/
def slipFloat (fn : Nat) : Option Nat :=
  if [3, 4, 5].contains fn then some 3
  else if [0, 1, 2, 8, 9, 14].contains fn then some 2
  else if [12, 13, 15, 16].contains fn then some 1 else none

/-- An operation on locals. -/
def slipLocal (x : SlipBody) (v : Verifier) (k : Verifier → ValType → Option Verifier) : Option Verifier :=
  v.number.bind fun (i, v) => (x.locals[i]?).bind fun t => k v t

/-- A frame access: its level and its offset. -/
def slipFrame (x : SlipBody) (v : Verifier) : Option Verifier :=
  (v.bytes 1).bind fun (l, v) => v.number.bind fun (o, v) => if l ≤ x.level && o % 4 = 0 && o ≤ 65532 then some v else none

/-- A symbol that is data. -/
def slipData (x : SlipBody) (v : Verifier) : Option Verifier :=
  v.number.bind fun (i, v) => if x.data.contains i then some v else none

/-- The opcodes (R121), but for those that open or close a block. -/
def slipOp (x : SlipBody) (op : Nat) (v : Verifier) : Option Verifier :=
  match op with
  | 0x00 | 0x09 => some v.kill
  | 0x01 => some v
  | 0x07 => v.number.bind fun (d, v) => (v.branch d).map (·.kill)
  | 0x08 => v.number.bind fun (d, v) => (v.popAll [1]).bind fun v => v.branch d
  | 0x10 => slipLocal x v fun v t => some (v.push t)
  | 0x11 => slipLocal x v fun v t => v.popAll [t]
  | 0x12 => slipLocal x v fun v t => (v.popAll [t]).map (·.push t)
  | 0x13 => (v.pop 0).map Prod.snd
  | 0x14 => v.number.map fun r => r.2.push 1
  | 0x15 => (v.bytes 4).map fun r => r.2.push 2
  | 0x16 => (v.bytes 8).map fun r => r.2.push 3
  | 0x17 => (v.popAll [1]).bind fun v => (v.pop 0).bind fun (t, v) => (v.pop t).map fun (u, v) => v.pushAny u
  | 0x18 => (slipFrame x v).map (·.push 1)
  | 0x19 => (slipFrame x v).bind fun v => v.popAll [1]
  | 0x1A => (slipData x v).bind fun v => (v.popAll [1]).map (·.push 1)
  | 0x1B => (slipData x v).bind fun v => v.popAll [1, 1]
  | 0x1C => some (v.push 1)
  | 0x78 => (v.bytes 1).bind fun (a, v) => (v.bytes 1).bind fun (b, v) =>
      if isValType a && isValType b then (v.popAll [a]).map (·.push b) else none
  | _ =>
    if 0x20 ≤ op && op < 0x49 then (slipInt (op - 0x20)).bind fun n => (v.popAll (List.replicate n 1)).map (·.push 1)
    else if 0x50 ≤ op && op < 0x61 then (slipFloat (op - 0x50)).bind fun n =>
      (v.popFloats n 0).map fun (t, v) => if op = 0x5F then v.push 1 else v.pushAny t
    else if 0x68 ≤ op && op < 0x71 then (v.popFloats (if op = 0x6B then 2 else 1) 0).map fun (t, v) => v.pushAny t
    else if (0x80 ≤ op && op < 0x86) || (0x88 ≤ op && op < 0x8E) then (v.popAll [1, 1]).map (·.push 1)
    else if 0x90 ≤ op && op < 0x97 then (v.popFloats 2 0).map fun (_, v) => v.push 1
    else none

/-- One opcode; a block may open, turn to its else, or close. -/
def slipStep (x : SlipBody) (v : Verifier) : Option Verifier :=
  (v.bytes 1).bind fun (op, v) =>
    match op, v.blocks with
    | 0x02, _ => v.opens 1
    | 0x03, _ => v.opens 2
    | 0x04, _ => v.opens 3
    | 0x05, b :: bs =>
      if b.kind = 3 && v.closes then
        some { v with stack := v.stack.drop (v.stack.length - b.height), blocks := { b with kind := 4, dead := false } :: bs }
      else none
    | 0x06, b :: bs =>
      if v.closes && !(b.kind = 3 && b.result ≠ 0) then
        some ({ v with stack := v.stack.drop (v.stack.length - b.height), blocks := bs }.push b.result)
      else none
    | _, _ => slipOp x op v

/-- The pass over a body. The fuel is its bytes. -/
def slipPass (x : SlipBody) : Nat → Verifier → Bool
  | 0, _ => false
  | n + 1, v =>
    match slipStep x v with
    | none => false
    | some v =>
      if v.stack.length > x.depth then false
      else if v.blocks.isEmpty then v.rest.isEmpty
      else slipPass x n v

/-- The bytes of an entry's slipcode body: the length that it begins with counts them all. -/
def slipBody (bs : List Byte) (e : EntryRec) : List Byte :=
  let c := (contentsOf bs 2).drop e.off
  c.take (leAt c 0 4)

/-- Registers of a value type, in words. -/
def typeWords (t : ValType) : Nat := if t = 3 then 2 else 1

/-- Check 8, for one entry. -/
def slipOk (bs : List Byte) (e : EntryRec) : Bool :=
  let c := (contentsOf bs 2).drop e.off
  let body := slipBody bs e
  let n := leAt body 4 2
  let locals := (List.range n).map fun k => leAt body (8 + k) 1
  let depth := leAt body 6 2
  let code := body.drop (8 + n)
  let words := locals.foldl (fun m t => m + typeWords t) 0
  let data := ((symbolsOf bs).zipIdx.filter fun x => x.1.kind = 2).map (·.2)
  let x : SlipBody := { locals := locals, depth := depth, level := e.level, data := data }
  let v : Verifier := { rest := code, stack := [], blocks := [{ kind := 0, result := 0, height := 0, dead := false }] }
  8 ≤ c.length && leAt c 0 4 ≤ c.length && 8 + n ≤ body.length && n ≤ 4096 && 1 ≤ depth && depth ≤ 1024 && locals.all isValType
  && 2 * depth + words + 8 ≤ allocOf (e.rf % 4) && slipPass x (code.length + 1) v

/-! ## Placement -/

/-- Whether sections of a type go to device memory. -/
def placed (t : Nat) : Bool := t = 1 || t = 3 || t = 4

/-- The address at which a section is placed. -/
def baseAddr (r : LoadRequest) : Nat → Nat
  | 1 => r.text
  | 3 => r.rodata
  | _ => r.data

/-- The placed address of a symbol, or its value where it is absolute. A symbol of a section that is not placed has its value (log 53). -/
def placedValue (bs : List Byte) (r : LoadRequest) (x : Symbol) : Nat :=
  match (if x.sec = 0xFFFF then none else (sectionsOf bs)[x.sec]?) with
  | none => x.value
  | some c => if placed c.typ then baseAddr r c.typ + x.value else x.value

/-- The native words of the slipcode entries, in the order of their records, with the places after .text. A body names symbols by
their numbers, so that its translation has their values. -/
def natives (bs : List Byte) (r : LoadRequest) : List (EntryRec × Nat × List Word) :=
  ((entriesOf bs).filter EntryRec.slip).foldl (fun (acc : List (EntryRec × Nat × List Word)) e =>
    let at_ := match acc.getLast? with
      | none => r.text + (contentsOf bs 1).length
      | some x => x.2.1 + 4 * x.2.2.length
    acc ++ [(e, at_, Config.slipNative (slipBody bs e) e.level (e.rf % 4) ((symbolsOf bs).map (placedValue bs r)))]) []

/-- The value S of a symbol (R116): a graph's number, the place of a slipcode entry's native words, the placed address, or
its value. -/
def symbolValue (bs : List Byte) (r : LoadRequest) (graphs : Tab Nat) (k : Nat) : Nat :=
  match (symbolsOf bs)[k]? with
  | none => 0
  | some x =>
    if x.kind = 4 then graphs.getD k x.value
    else
      let unplaced := x.sec ≠ 0xFFFF && ((sectionsOf bs)[x.sec]?).any fun c => !placed c.typ
      match (natives bs r).find? fun n => unplaced && n.1.sym = k with
      | some n => n.2.1
      | none => placedValue bs r x

/-! ## Relocations (R116) -/

structure Reloc where
  off    : Nat
  sym    : Nat
  kind   : Nat
  pad    : Nat
  addend : Int
  deriving DecidableEq, Repr

def relocsOf (bs : List Byte) (x : Section) : List Reloc :=
  let c := contents bs x
  (List.range (c.length / 24)).map fun k =>
    { off := leAt c (24 * k) 8, sym := leAt c (24 * k + 8) 4, kind := leAt c (24 * k + 12) 2, pad := leAt c (24 * k + 14) 2
      addend := wrapInt (leAt c (24 * k + 16) 8) true 64 }

/-- Bytes that a kind patches. -/
def patchSize (kind : Nat) : Nat := if kind = 1 then 8 else 4

/-- off18 of a branch from P to S + A, where it fits. -/
def branchOffset (z : Int) (p : Nat) : Option Nat :=
  let d := z - p
  if d % 4 = 0 && -131072 ≤ d / 4 && d / 4 ≤ 131071 then some ((d / 4) % 2 ^ 18).toNat else none

/-- The patched value: of the bytes as they are, for a sum S + A at P; none out of range. -/
def patchValue (kind : Nat) (old : Nat) (z : Int) (p : Nat) : Option Nat :=
  let m := (z % 2 ^ 64).toNat
  let keep (n v : Nat) : Nat := old / 2 ^ n * 2 ^ n + v
  match kind with
  | 1 => some m
  | 2 => some (field m 31 0)
  | 3 => some (field m 47 32)
  | 4 => (branchOffset z p).map (keep 18)
  | 5 => some (keep 27 (field m 31 5))
  | 6 => some (keep 5 (field m 4 0))
  | 7 => some (keep 27 (field m 47 37))
  | 8 => some (keep 5 (field m 36 32))
  | _ => none

/-- The value of a record at its place. -/
def relocValue (bs : List Byte) (r : LoadRequest) (graphs : Tab Nat) (t : Section) (old : Nat) (x : Reloc) : Option Nat :=
  patchValue x.kind old (symbolValue bs r graphs x.sym + x.addend) (baseAddr r t.typ + x.off)

/-- Check 9, for one record that patches section t; its zero field counts here (log 53). -/
def relocOk (bs : List Byte) (r : LoadRequest) (graphs : Tab Nat) (t : Section) (x : Reloc) : Bool :=
  ((symbolsOf bs)[x.sym]?).isSome && x.pad = 0 && placed t.typ && x.off + patchSize x.kind ≤ t.size
  && (relocValue bs r graphs t 0 x).isSome

/-- The .reloc sections with the sections that they patch. -/
def patches (bs : List Byte) : List (Section × Section) :=
  ((sectionsOf bs).filter fun x => x.typ = 9).filterMap fun x => ((sectionsOf bs)[x.link]?).map fun t => (x, t)

/-- The bytes of a section to be placed, with its relocations applied in file order. -/
def patched (bs : List Byte) (r : LoadRequest) (graphs : Tab Nat) (t : Section) : List Byte :=
  ((patches bs).filter fun e => e.2.typ = t.typ).foldl (fun c e =>
    (relocsOf bs e.1).foldl (fun c x =>
      let n := patchSize x.kind
      match relocValue bs r graphs t (leAt c x.off n) x with
      | none => c
      | some v => patch c x.off (leBytes n v)) c) (contents bs t)

/-! ## The graph table (R272, R381) -/

/-- The declaration records, one after another; one whose SIZE is below its header's is the last, and breaks the limits (log 53).
The fuel is the bytes. -/
def graphRecords : Nat → List Byte → List (List Byte)
  | 0, _ => []
  | n + 1, bs =>
    let size := leAt bs 0 4
    if bs.length < 16 then [] else if size < 16 then [bs] else bs.take size :: graphRecords n (bs.drop size)

/-- A stage with its target resolved; a target that is no descriptor with its record in one section makes a stage that breaks
R382. -/
def stageOf (bs : List Byte) (r : LoadRequest) (kind tsym : Nat) : StageDecl :=
  let wrong : StageDecl := { kind := kind, addr := 2 ^ 48, units := 0, rf := 32, tile := [], words := [] }
  let room (x : Symbol) (n : Nat) : Bool := ((sectionsOf bs)[x.sec]?).any fun c => placed c.typ && x.value + n ≤ c.size
  match (symbolsOf bs)[tsym]? with
  | none => wrong
  | some x =>
    let a := symbolValue bs r [] tsym
    if kind = 0 then match (entriesOf bs).find? fun e => e.sym = tsym with
      | none => wrong
      | some e => { kind := 0, addr := a, units := e.units, rf := allocOf (e.rf % 4), tile := [], words := [] }
    else if x.kind = 5 && room x (if kind = 2 then 36 else 64) then { kind := kind, addr := a, units := 0, rf := 32, tile := [], words := [] }
    else wrong

/-- A record as the entry that it makes. -/
def graphOf (bs : List Byte) (r : LoadRequest) (c : List Byte) : GraphDecl :=
  let n := leAt c
  let nstg := n 4 1
  let nedg := n 5 1
  let st (k : Nat) : Nat := 16 + 8 * k
  let ed (k : Nat) : Nat := 16 + 8 * nstg + 16 * k
  let ok := 1 ≤ nstg && nstg ≤ 32 && nedg ≤ 64 && n 0 4 = 16 + 8 * nstg + 16 * nedg && c.length = n 0 4 && n 6 2 = 0 && n 12 4 = 0
    && (List.range nstg).all (fun k => n (st k) 1 ≤ 3 && n (st k + 1) 3 = 0)
    && (List.range nedg).all fun k => n (ed k) 1 < nstg && n (ed k + 1) 1 < nstg && 1 ≤ n (ed k + 2) 1 && 1 ≤ n (ed k + 3) 1
        && n (ed k + 4) 4 % 16 = 0 && 16 ≤ n (ed k + 4) 4 && n (ed k + 4) 4 ≤ 65536 && n (ed k + 8) 8 = 0
  if ok then
    { ok := true, stages := (List.range nstg).map fun k => stageOf bs r (n (st k) 1) (n (st k + 4) 4)
      edges := (List.range nedg).map fun k => { frm := n (ed k) 1, dst := n (ed k + 1) 1, prod := n (ed k + 2) 1
                                                cons := n (ed k + 3) 1, recsz := n (ed k + 4) 4 } }
  else { ok := false, stages := [], edges := [] }

/-- Enters the declarations in order in the lowest free entries: the table, and the numbers of the graph symbols. -/
def enterGraphs (bs : List Byte) (r : LoadRequest) : List (List Byte) → Tab GraphDecl → Tab GraphDecl × Tab Nat
  | [], t => (t, [])
  | c :: cs, t => match t.free? 256 with
    | none => let (t, ns) := enterGraphs bs r cs t
              (t, ns.put (leAt c 8 4) 0xFFFFFFFF)
    | some k => let (t, ns) := enterGraphs bs r cs (t.put k (graphOf bs r c))
                (t, ns.put (leAt c 8 4) k)

/-! ## The checks, and the load (R119) -/

/-- The signature, under a key that the partition accepts (R118, R431). -/
def signatureOk (p : Partition) (bs : List Byte) (sig : Nat) : Bool :=
  blockOk (fun k => p.signers.isEmpty || p.signers.contains k) bs sig

def capsMet (p : Partition) (bs : List Byte) : Bool :=
  (List.range 8).all fun k => w32 (leAt bs (32 + 4 * k) 4) &&& ~~~(p.caps.getD k 0) = 0

/-- The code of the first check that fails, 0 for none. An object with an undefined symbol (R115) fails check 9 (log 53). -/
def loadCode (p : Partition) (bs : List Byte) (r : LoadRequest) (graphs : Tab Nat) : Nat :=
  let sig := bs.length - 128
  if bs.length < 192 || leAt bs 0 4 ≠ 0x004F5956 || leAt bs 24 8 ≠ sig || sig < leAt bs 16 8 + 32 * leAt bs 12 4 then 1
  else if !signatureOk p bs sig then 2
  else if leAt bs 4 2 ≠ 1 then 3
  else if leAt bs 6 2 ≠ 1 then 4
  else if !capsMet p bs then 5
  else if !sectionsOk bs sig then 6
  else if !(entriesOf bs).all (entryOk bs) then 7
  else if !((entriesOf bs).filter EntryRec.slip).all (slipOk bs) then 8
  else if !(symbolsOf bs).all (Symbol.ok bs) || !(patches bs).all (fun e => (relocsOf bs e.1).all (relocOk bs r graphs e.2)) then 9
  else if !(List.range ((contentsOf bs 6).length / 8)).all (fun k => Fmt.validReg (w32 (leAt (contentsOf bs 6) (8 * k) 4))) then 10
  else 0

/-- Places bytes at a device virtual address for the loader, whatever the page's rights: a byte whose address does not
translate to granted memory is lost. -/
def placeBytes (s : State) (part va : Nat) (bs : List Byte) : State :=
  (lineChunks bs.length va bs).foldl (fun s c => match walkBoth s part c.1 with
    | .error _ => s
    | .ok e =>
      let pa := e.pa + (c.1 - e.va)
      if e.dev.isNone && granted s part pa then writeMem s part none pa c.2 else s) s

/-- The object's bytes, as the host has written them (R460). -/
def objectBytes (s : State) (r : LoadRequest) : List Byte :=
  (List.range r.size).map fun k => match hostPlace s r.part (r.addr + k) false with
    | none => 0
    | some pa => (readMem s r.part pa 1).getD 0 0

/-- The places that system software gives are aligned as the sections ask (R114). -/
def aligned (bs : List Byte) (r : LoadRequest) : Bool :=
  (sectionsOf bs).all fun x => !placed x.typ || baseAddr r x.typ % 2 ^ x.align = 0

/-- The rights that both stages give the pages of n bytes (R414) fit a section type (R114): all can be read, .text and .rodata not
written, .text executed, .data written. -/
def rightsFit (s : State) (part typ va n : Nat) : Bool :=
  (List.range ((va % 2 ^ 16 + n + 2 ^ 16 - 1) / 2 ^ 16)).all fun k =>
    match walkBoth s part (va / 2 ^ 16 * 2 ^ 16 + k * 2 ^ 16) with
    | .error _ => false
    | .ok e =>
      let has (b : Nat) : Bool := e.rights1.testBit b && e.rights2.testBit b
      match typ with
      | 1 => has 0 && !has 1 && has 2
      | 3 => has 0 && !has 1
      | _ => has 0 && has 1

/-- The pages that system software gives have the rights of what goes there; the native words follow .text (log 53). -/
def pagesFit (s : State) (bs : List Byte) (r : LoadRequest) : Bool :=
  ((sectionsOf bs).filter fun x => placed x.typ).all (fun x => rightsFit s r.part x.typ (baseAddr r x.typ) x.size)
  && (natives bs r).all fun n => rightsFit s r.part 1 n.2.1 (4 * n.2.2.length)

/-- LOAD_CODE_OBJECT. -/
def execLoadCodeObject (r : LoadRequest) (s : State) : Out :=
  .next <|
  let p := s.part r.part
  if p.state ≠ 1 then s
  else
    let bs := objectBytes s r
    let (table, graphs) := enterGraphs bs r (graphRecords bs.length (contentsOf bs 7)) p.graphTable
    let c := loadCode p bs r graphs
    if c ≠ 0 then { s with loads := s.loads ++ [c] }
    else if !aligned bs r || !pagesFit s bs r then s
    else
      let s := ((sectionsOf bs).filter fun x => placed x.typ).foldl (fun s x =>
        placeBytes s r.part (baseAddr r x.typ) (patched bs r graphs x)) s
      let s := (natives bs r).foldl (fun s n => placeBytes s r.part n.2.1 (wordsBytes n.2.2)) s
      { s.modPart r.part (fun p => { p with graphTable := table }) with loads := s.loads ++ [0] }

end Sys2Proof.Machine
end

