-- ==== Sys2Proof/Machine/Dispatch.lean ====
section
/-!
DEFINITION. The dispatch: one arm per row of spec/opcode_table.json, each one direct call of its meaning.
-/
namespace Sys2Proof.Machine

def exec (i : Instr) (s : State) : Host.Outcome State Fault Refusal :=
  match i with
  | .nop => Sys2Proof.Machine.execNop s
  | .trap c => Sys2Proof.Machine.execTrap c s
  | .tret => Sys2Proof.Machine.execTret s
  | .mode a => Sys2Proof.Machine.execMode a s
  | .modei h l => Sys2Proof.Machine.execModei h l s
  | .fmtset f a => Sys2Proof.Machine.execFmtset f a s
  | .fmtget d f => Sys2Proof.Machine.execFmtget d f s
  | .mfsr d n => Sys2Proof.Machine.execMfsr d n s
  | .mtsr v n => Sys2Proof.Machine.execMtsr v n s
  | .rwp a n => Sys2Proof.Machine.execRwp a n s
  | .brk c => Sys2Proof.Machine.execBrk c s
  | .caps d n => Sys2Proof.Machine.execCaps d n s
  | .br o => Sys2Proof.Machine.execBr o s
  | .bz a o => Sys2Proof.Machine.execBz a o s
  | .bnz a o => Sys2Proof.Machine.execBnz a o s
  | .bneg a o => Sys2Proof.Machine.execBneg a o s
  | .bnneg a o => Sys2Proof.Machine.execBnneg a o s
  | .call o => Sys2Proof.Machine.execCall o s
  | .pbr n p o => Sys2Proof.Machine.execPbr n p o s
  | .jr a => Sys2Proof.Machine.execJr a s
  | .jl a => Sys2Proof.Machine.execJl a s
  | .ret => Sys2Proof.Machine.execRet s
  | .add d a b => Sys2Proof.Machine.execAdd d a b s
  | .sub d a b => Sys2Proof.Machine.execSub d a b s
  | .mul24 d a b => Sys2Proof.Machine.execMul24 d a b s
  | .mul d a b => Sys2Proof.Machine.execMul d a b s
  | .mulh d a b => Sys2Proof.Machine.execMulh d a b s
  | .mulhn d a b => Sys2Proof.Machine.execMulhn d a b s
  | .and d a b => Sys2Proof.Machine.execAnd d a b s
  | .or d a b => Sys2Proof.Machine.execOr d a b s
  | .xor d a b => Sys2Proof.Machine.execXor d a b s
  | .andn d a b => Sys2Proof.Machine.execAndn d a b s
  | .orn d a b => Sys2Proof.Machine.execOrn d a b s
  | .sll d a b => Sys2Proof.Machine.execSll d a b s
  | .srl d a b => Sys2Proof.Machine.execSrl d a b s
  | .sra d a b => Sys2Proof.Machine.execSra d a b s
  | .rol d a b => Sys2Proof.Machine.execRol d a b s
  | .ror d a b => Sys2Proof.Machine.execRor d a b s
  | .min d a b => Sys2Proof.Machine.execMin d a b s
  | .max d a b => Sys2Proof.Machine.execMax d a b s
  | .minn d a b => Sys2Proof.Machine.execMinn d a b s
  | .maxn d a b => Sys2Proof.Machine.execMaxn d a b s
  | .slt d a b => Sys2Proof.Machine.execSlt d a b s
  | .sltn d a b => Sys2Proof.Machine.execSltn d a b s
  | .eq d a b => Sys2Proof.Machine.execEq d a b s
  | .popc d a => Sys2Proof.Machine.execPopc d a s
  | .clz d a => Sys2Proof.Machine.execClz d a s
  | .ctz d a => Sys2Proof.Machine.execCtz d a s
  | .brev d a => Sys2Proof.Machine.execBrev d a s
  | .bswap d a => Sys2Proof.Machine.execBswap d a s
  | .sxb d a => Sys2Proof.Machine.execSxb d a s
  | .sxh d a => Sys2Proof.Machine.execSxh d a s
  | .zxb d a => Sys2Proof.Machine.execZxb d a s
  | .zxh d a => Sys2Proof.Machine.execZxh d a s
  | .addi d a imm => Sys2Proof.Machine.execAddi d a imm s
  | .andi d a imm => Sys2Proof.Machine.execAndi d a imm s
  | .ori d a imm => Sys2Proof.Machine.execOri d a imm s
  | .xori d a imm => Sys2Proof.Machine.execXori d a imm s
  | .slti d a imm => Sys2Proof.Machine.execSlti d a imm s
  | .sltni d a imm => Sys2Proof.Machine.execSltni d a imm s
  | .slli d a c => Sys2Proof.Machine.execSlli d a c s
  | .srli d a c => Sys2Proof.Machine.execSrli d a c s
  | .srai d a c => Sys2Proof.Machine.execSrai d a c s
  | .rori d a c => Sys2Proof.Machine.execRori d a c s
  | .muli d a imm => Sys2Proof.Machine.execMuli d a imm s
  | .sli d imm => Sys2Proof.Machine.execSli d imm s
  | .slu d imm => Sys2Proof.Machine.execSlu d imm s
  | .join a => Sys2Proof.Machine.execJoin a s
  | .leave => Sys2Proof.Machine.execLeave s
  | .gbar => Sys2Proof.Machine.execGbar s
  | .regroup => Sys2Proof.Machine.execRegroup s
  | .rcv => Sys2Proof.Machine.execRcv s
  | .voteAny d p => Sys2Proof.Machine.execVoteAny d p s
  | .voteAll d p => Sys2Proof.Machine.execVoteAll d p s
  | .voteCnt d p => Sys2Proof.Machine.execVoteCnt d p s
  | .voteBal q p => Sys2Proof.Machine.execVoteBal q p s
  | .lid v => Sys2Proof.Machine.execLid v s
  | .tid v => Sys2Proof.Machine.execTid v s
  | .bid d => Sys2Proof.Machine.execBid d s
  | .vadd d a b => Sys2Proof.Machine.execVadd d a b s
  | .vsub d a b => Sys2Proof.Machine.execVsub d a b s
  | .vmul24 d a b => Sys2Proof.Machine.execVmul24 d a b s
  | .vmul32 d a b => Sys2Proof.Machine.execVmul32 d a b s
  | .vmulh32 d a b => Sys2Proof.Machine.execVmulh32 d a b s
  | .vmulhn32 d a b => Sys2Proof.Machine.execVmulhn32 d a b s
  | .vand d a b => Sys2Proof.Machine.execVand d a b s
  | .vor d a b => Sys2Proof.Machine.execVor d a b s
  | .vxor d a b => Sys2Proof.Machine.execVxor d a b s
  | .vandn d a b => Sys2Proof.Machine.execVandn d a b s
  | .vsll d a b => Sys2Proof.Machine.execVsll d a b s
  | .vsrl d a b => Sys2Proof.Machine.execVsrl d a b s
  | .vsra d a b => Sys2Proof.Machine.execVsra d a b s
  | .vrol d a b => Sys2Proof.Machine.execVrol d a b s
  | .vmin d a b => Sys2Proof.Machine.execVmin d a b s
  | .vmax d a b => Sys2Proof.Machine.execVmax d a b s
  | .vabsd d a b => Sys2Proof.Machine.execVabsd d a b s
  | .vpopc d a => Sys2Proof.Machine.execVpopc d a s
  | .vclz d a => Sys2Proof.Machine.execVclz d a s
  | .vctz d a => Sys2Proof.Machine.execVctz d a s
  | .vbrev d a => Sys2Proof.Machine.execVbrev d a s
  | .vsel d a b => Sys2Proof.Machine.execVsel d a b s
  | .vmov d a => Sys2Proof.Machine.execVmov d a s
  | .vaddi d a imm => Sys2Proof.Machine.execVaddi d a imm s
  | .vmuli24 d a imm => Sys2Proof.Machine.execVmuli24 d a imm s
  | .vandi d a imm => Sys2Proof.Machine.execVandi d a imm s
  | .vori d a imm => Sys2Proof.Machine.execVori d a imm s
  | .vxori d a imm => Sys2Proof.Machine.execVxori d a imm s
  | .vslli d a c => Sys2Proof.Machine.execVslli d a c s
  | .vsrli d a c => Sys2Proof.Machine.execVsrli d a c s
  | .vsrai d a c => Sys2Proof.Machine.execVsrai d a c s
  | .vmini d a imm => Sys2Proof.Machine.execVmini d a imm s
  | .vmaxi d a imm => Sys2Proof.Machine.execVmaxi d a imm s
  | .vmovi d imm => Sys2Proof.Machine.execVmovi d imm s
  | .vfadd d a b => Sys2Proof.Machine.execVfadd d a b s
  | .vfsub d a b => Sys2Proof.Machine.execVfsub d a b s
  | .vfmul d a b => Sys2Proof.Machine.execVfmul d a b s
  | .vfma d a b => Sys2Proof.Machine.execVfma d a b s
  | .vfms d a b => Sys2Proof.Machine.execVfms d a b s
  | .vfnma d a b => Sys2Proof.Machine.execVfnma d a b s
  | .vfmin d a b => Sys2Proof.Machine.execVfmin d a b s
  | .vfmax d a b => Sys2Proof.Machine.execVfmax d a b s
  | .vfabs d a => Sys2Proof.Machine.execVfabs d a s
  | .vfneg d a => Sys2Proof.Machine.execVfneg d a s
  | .vfcpys d a b => Sys2Proof.Machine.execVfcpys d a b s
  | .vfclass d a => Sys2Proof.Machine.execVfclass d a s
  | .vfrnd d a => Sys2Proof.Machine.execVfrnd d a s
  | .vrcp la d a => Sys2Proof.Machine.execVrcp la d a s
  | .vrsq la d a => Sys2Proof.Machine.execVrsq la d a s
  | .vsqrt la d a => Sys2Proof.Machine.execVsqrt la d a s
  | .vdiv la d a => Sys2Proof.Machine.execVdiv la d a s
  | .vexp2 la d a => Sys2Proof.Machine.execVexp2 la d a s
  | .vlog2 la d a => Sys2Proof.Machine.execVlog2 la d a s
  | .vsin la d a => Sys2Proof.Machine.execVsin la d a s
  | .vcos la d a => Sys2Proof.Machine.execVcos la d a s
  | .vtanh la d a => Sys2Proof.Machine.execVtanh la d a s
  | .vcvt d a t => Sys2Proof.Machine.execVcvt d a t s
  | .vcvtef d a b => Sys2Proof.Machine.execVcvtef d a b s
  | .vcvti d a t => Sys2Proof.Machine.execVcvti d a t s
  | .vcvtf d a t => Sys2Proof.Machine.execVcvtf d a t s
  | .vpk d a b => Sys2Proof.Machine.execVpk d a b s
  | .vupk d a n => Sys2Proof.Machine.execVupk d a n s
  | .vscale d a b => Sys2Proof.Machine.execVscale d a b s
  | .vbs d a => Sys2Proof.Machine.execVbs d a s
  | .vrd d a b => Sys2Proof.Machine.execVrd d a b s
  | .vwr d a b => Sys2Proof.Machine.execVwr d a b s
  | .vshfl d a b => Sys2Proof.Machine.execVshfl d a b s
  | .vshfx d a b => Sys2Proof.Machine.execVshfx d a b s
  | .vrot d a b => Sys2Proof.Machine.execVrot d a b s
  | .vredadd d a => Sys2Proof.Machine.execVredadd d a s
  | .vredmin d a => Sys2Proof.Machine.execVredmin d a s
  | .vredmax d a => Sys2Proof.Machine.execVredmax d a s
  | .vredminx d a b => Sys2Proof.Machine.execVredminx d a b s
  | .vredmaxx d a b => Sys2Proof.Machine.execVredmaxx d a b s
  | .vscan d a => Sys2Proof.Machine.execVscan d a s
  | .vredand d a => Sys2Proof.Machine.execVredand d a s
  | .vredor d a => Sys2Proof.Machine.execVredor d a s
  | .vredxor d a => Sys2Proof.Machine.execVredxor d a s
  | .vcmp c p m a b => Sys2Proof.Machine.execVcmp c p m a b s
  | .vcmpn c p m a b => Sys2Proof.Machine.execVcmpn c p m a b s
  | .vfcmp c p m a b => Sys2Proof.Machine.execVfcmp c p m a b s
  | .vfcmpn c p m a b => Sys2Proof.Machine.execVfcmpn c p m a b s
  | .ldb la v a imm => Sys2Proof.Machine.execLdb la v a imm s
  | .ldbs la v a imm => Sys2Proof.Machine.execLdbs la v a imm s
  | .ldh la v a imm => Sys2Proof.Machine.execLdh la v a imm s
  | .ldhs la v a imm => Sys2Proof.Machine.execLdhs la v a imm s
  | .ldw la v a imm => Sys2Proof.Machine.execLdw la v a imm s
  | .ldd la v a imm => Sys2Proof.Machine.execLdd la v a imm s
  | .ldq la v a imm => Sys2Proof.Machine.execLdq la v a imm s
  | .lds la d a imm => Sys2Proof.Machine.execLds la d a imm s
  | .ldx la v a imm => Sys2Proof.Machine.execLdx la v a imm s
  | .ldwAcq la v a c => Sys2Proof.Machine.execLdwAcq la v a c s
  | .lddAcq la v a c => Sys2Proof.Machine.execLddAcq la v a c s
  | .ldsAcq la d a c => Sys2Proof.Machine.execLdsAcq la d a c s
  | .stb r v a imm => Sys2Proof.Machine.execStb r v a imm s
  | .sth r v a imm => Sys2Proof.Machine.execSth r v a imm s
  | .stw r v a imm => Sys2Proof.Machine.execStw r v a imm s
  | .std r v a imm => Sys2Proof.Machine.execStd r v a imm s
  | .stq r v a imm => Sys2Proof.Machine.execStq r v a imm s
  | .sts r v a imm => Sys2Proof.Machine.execSts r v a imm s
  | .stx v a imm => Sys2Proof.Machine.execStx v a imm s
  | .fld la e d o => Sys2Proof.Machine.execFld la e d o s
  | .fst r e v o => Sys2Proof.Machine.execFst r e v o s
  | .fla e d o => Sys2Proof.Machine.execFla e d o s
  | .spat a k => Sys2Proof.Machine.execSpat a k s
  | .sld la d k => Sys2Proof.Machine.execSld la d k s
  | .sst v k => Sys2Proof.Machine.execSst v k s
  | .sreset k => Sys2Proof.Machine.execSreset k s
  | .aadd la v a o => Sys2Proof.Machine.execAadd la v a o s
  | .aaddNr r v a o => Sys2Proof.Machine.execAaddNr r v a o s
  | .amin la v a o => Sys2Proof.Machine.execAmin la v a o s
  | .aminNr r v a o => Sys2Proof.Machine.execAminNr r v a o s
  | .amax la v a o => Sys2Proof.Machine.execAmax la v a o s
  | .amaxNr r v a o => Sys2Proof.Machine.execAmaxNr r v a o s
  | .aminn la v a o => Sys2Proof.Machine.execAminn la v a o s
  | .aminnNr r v a o => Sys2Proof.Machine.execAminnNr r v a o s
  | .amaxn la v a o => Sys2Proof.Machine.execAmaxn la v a o s
  | .amaxnNr r v a o => Sys2Proof.Machine.execAmaxnNr r v a o s
  | .aand la v a o => Sys2Proof.Machine.execAand la v a o s
  | .aandNr r v a o => Sys2Proof.Machine.execAandNr r v a o s
  | .aor la v a o => Sys2Proof.Machine.execAor la v a o s
  | .aorNr r v a o => Sys2Proof.Machine.execAorNr r v a o s
  | .axor la v a o => Sys2Proof.Machine.execAxor la v a o s
  | .axorNr r v a o => Sys2Proof.Machine.execAxorNr r v a o s
  | .axchg la v a o => Sys2Proof.Machine.execAxchg la v a o s
  | .axchgNr r v a o => Sys2Proof.Machine.execAxchgNr r v a o s
  | .acas la v a o => Sys2Proof.Machine.execAcas la v a o s
  | .acasNr r v a o => Sys2Proof.Machine.execAcasNr r v a o s
  | .ainc la v a o => Sys2Proof.Machine.execAinc la v a o s
  | .aincNr r v a o => Sys2Proof.Machine.execAincNr r v a o s
  | .afadd la v a o => Sys2Proof.Machine.execAfadd la v a o s
  | .afaddNr r v a o => Sys2Proof.Machine.execAfaddNr r v a o s
  | .cpy4 d a c => Sys2Proof.Machine.execCpy4 d a c s
  | .cpy8 d a c => Sys2Proof.Machine.execCpy8 d a c s
  | .cpy16 d a c => Sys2Proof.Machine.execCpy16 d a c s
  | .cpt t a c => Sys2Proof.Machine.execCpt t a c s
  | .cpz r c => Sys2Proof.Machine.execCpz r c s
  | .cntadd c v => Sys2Proof.Machine.execCntadd c v s
  | .cntw c g => Sys2Proof.Machine.execCntw c g s
  | .cntrd d c => Sys2Proof.Machine.execCntrd d c s
  | .tdef a => Sys2Proof.Machine.execTdef a s
  | .tfill t => Sys2Proof.Machine.execTfill t s
  | .tcommit t => Sys2Proof.Machine.execTcommit t s
  | .tdrain t => Sys2Proof.Machine.execTdrain t s
  | .trel t => Sys2Proof.Machine.execTrel t s
  | .tstate d t => Sys2Proof.Machine.execTstate d t s
  | .tstAon t m => Sys2Proof.Machine.execTstAon t m s
  | .tldVer d t c => Sys2Proof.Machine.execTldVer d t c s
  | .cbdef b a => Sys2Proof.Machine.execCbdef b a s
  | .cbpush b n => Sys2Proof.Machine.execCbpush b n s
  | .cbpop b n => Sys2Proof.Machine.execCbpop b n s
  | .cbwait b n m => Sys2Proof.Machine.execCbwait b n m s
  | .cbpeek d b f => Sys2Proof.Machine.execCbpeek d b f s
  | .fence c k => Sys2Proof.Machine.execFence c k s
  | .pfence u d => Sys2Proof.Machine.execPfence u d s
  | .swrel w g => Sys2Proof.Machine.execSwrel w g s
  | .swacq w g => Sys2Proof.Machine.execSwacq w g s
  | .mfmt cid p q r => Sys2Proof.Machine.execMfmt cid p q r s
  | .wld cid p q r => Sys2Proof.Machine.execWld cid p q r s
  | .mloop cid p q r => Sys2Proof.Machine.execMloop cid p q r s
  | .mzero cid p q r => Sys2Proof.Machine.execMzero cid p q r s
  | .mld cid p q r => Sys2Proof.Machine.execMld cid p q r s
  | .mst cid p q r => Sys2Proof.Machine.execMst cid p q r s
  | .mwait cid => Sys2Proof.Machine.execMwait cid s
  | .mquery cid d => Sys2Proof.Machine.execMquery cid d s
  | .launch d r => Sys2Proof.Machine.execLaunch d r s
  | .lwait d h => Sys2Proof.Machine.execLwait d h s
  | .exit => Sys2Proof.Machine.execExit s
  | .dsp d l => Sys2Proof.Machine.execDsp d l s
  | .gbind d g b => Sys2Proof.Machine.execGbind d g b s
  | .gstart h => Sys2Proof.Machine.execGstart h s
  | .gstop h m => Sys2Proof.Machine.execGstop h m s
  | .grebind d h g => Sys2Proof.Machine.execGrebind d h g s
  | .qput t q => Sys2Proof.Machine.execQput t q s
  | .rep n m => Sys2Proof.Machine.execRep n m s
  | .limm imm => Sys2Proof.Machine.execLimm imm s
  | .gbarUnblock slot path => Sys2Proof.Machine.execGbarUnblock slot path s
  | .regroupTimeout slot => Sys2Proof.Machine.execRegroupTimeout slot s
  | .fusionComplete keep absorbed => Sys2Proof.Machine.execFusionComplete keep absorbed s
  | .resultArrival slot entry => Sys2Proof.Machine.execResultArrival slot entry s
  | .cntwWake slot path => Sys2Proof.Machine.execCntwWake slot path s
  | .cbwaitWake slot path => Sys2Proof.Machine.execCbwaitWake slot path s
  | .swacqWake slot path => Sys2Proof.Machine.execSwacqWake slot path s
  | .lwaitWake slot path => Sys2Proof.Machine.execLwaitWake slot path s
  | .mwaitWake slot path => Sys2Proof.Machine.execMwaitWake slot path s
  | .tcommitWake slot path => Sys2Proof.Machine.execTcommitWake slot path s
  | .trelWake slot path => Sys2Proof.Machine.execTrelWake slot path s
  | .tstAonOpenWake slot path => Sys2Proof.Machine.execTstAonOpenWake slot path s
  | .tstAonCloseWake slot path => Sys2Proof.Machine.execTstAonCloseWake slot path s
  | .tldVerWake slot path => Sys2Proof.Machine.execTldVerWake slot path s
  | .tileStoreWake slot path => Sys2Proof.Machine.execTileStoreWake slot path s
  | .tornBracketClose core tile => Sys2Proof.Machine.execTornBracketClose core tile s
  | .launchWaitWake slot path => Sys2Proof.Machine.execLaunchWaitWake slot path s
  | .qputWaitWake slot path => Sys2Proof.Machine.execQputWaitWake slot path s
  | .mtxPostWake slot path => Sys2Proof.Machine.execMtxPostWake slot path s
  | .gbindAnswer slot path => Sys2Proof.Machine.execGbindAnswer slot path s
  | .gstopWaitWake slot path => Sys2Proof.Machine.execGstopWaitWake slot path s
  | .matrixCommandIssue quad index => Sys2Proof.Machine.execMatrixCommandIssue quad index s
  | .mloopStep quad => Sys2Proof.Machine.execMloopStep quad s
  | .wldImage quad => Sys2Proof.Machine.execWldImage quad s
  | .mstRow quad => Sys2Proof.Machine.execMstRow quad s
  | .mldTransfer quad => Sys2Proof.Machine.execMldTransfer quad s
  | .matrixOperandAbandon quad index => Sys2Proof.Machine.execMatrixOperandAbandon quad index s
  | .copyLineOperation index => Sys2Proof.Machine.execCopyLineOperation index s
  | .tileCopyLine index => Sys2Proof.Machine.execTileCopyLine index s
  | .czPack index => Sys2Proof.Machine.execCzPack index s
  | .czExpandCheck index => Sys2Proof.Machine.execCzExpandCheck index s
  | .czExpandLine index line => Sys2Proof.Machine.execCzExpandLine index line s
  | .atomicRequestAccept cluster => Sys2Proof.Machine.execAtomicRequestAccept cluster s
  | .hotStoreFill cluster line => Sys2Proof.Machine.execHotStoreFill cluster line s
  | .pageWalkFill cluster walk => Sys2Proof.Machine.execPageWalkFill cluster walk s
  | .eccReadRetry read => Sys2Proof.Machine.execEccReadRetry read s
  | .cacheLineExpiry core index => Sys2Proof.Machine.execCacheLineExpiry core index s
  | .remoteLineExpiry core index => Sys2Proof.Machine.execRemoteLineExpiry core index s
  | .bandwidthWindow channel => Sys2Proof.Machine.execBandwidthWindow channel s
  | .leaseBoundary die => Sys2Proof.Machine.execLeaseBoundary die s
  | .logReplay slot entry => Sys2Proof.Machine.execLogReplay slot entry s
  | .faultRecordWrite part => Sys2Proof.Machine.execFaultRecordWrite part s
  | .launchQueueDoorbell part queue tail => Sys2Proof.Machine.execLaunchQueueDoorbell part queue tail s
  | .queueRecordSkip part queue => Sys2Proof.Machine.execQueueRecordSkip part queue s
  | .queueRecordLaunch part queue => Sys2Proof.Machine.execQueueRecordLaunch part queue s
  | .queueRecordTemplate part queue => Sys2Proof.Machine.execQueueRecordTemplate part queue s
  | .queueRecordTaskQueue part queue => Sys2Proof.Machine.execQueueRecordTaskQueue part queue s
  | .bindStart slot record => Sys2Proof.Machine.execBindStart slot record s
  | .bindRestore slot record => Sys2Proof.Machine.execBindRestore slot record s
  | .bindPreempt slot record => Sys2Proof.Machine.execBindPreempt slot record s
  | .bindInvalid slot record => Sys2Proof.Machine.execBindInvalid slot record s
  | .preemptAtBoundary slot => Sys2Proof.Machine.execPreemptAtBoundary slot s
  | .boundarySave slot => Sys2Proof.Machine.execBoundarySave slot s
  | .resultRedirect slot => Sys2Proof.Machine.execResultRedirect slot s
  | .saveComplete slot => Sys2Proof.Machine.execSaveComplete slot s
  | .restoreComplete slot => Sys2Proof.Machine.execRestoreComplete slot s
  | .drainReport core launch => Sys2Proof.Machine.execDrainReport core launch s
  | .launchCompletion launch => Sys2Proof.Machine.execLaunchCompletion launch s
  | .deadlineWorkExpiry slot => Sys2Proof.Machine.execDeadlineWorkExpiry slot s
  | .taskDispatch part queue => Sys2Proof.Machine.execTaskDispatch part queue s
  | .graphFiringStart part handle => Sys2Proof.Machine.execGraphFiringStart part handle s
  | .graphFiringEnd part handle stage => Sys2Proof.Machine.execGraphFiringEnd part handle stage s
  | .graphAllowExpiry part handle stage => Sys2Proof.Machine.execGraphAllowExpiry part handle stage s
  | .faultDoorbellReplay part seq => Sys2Proof.Machine.execFaultDoorbellReplay part seq s
  | .faultDoorbellDeliver part seq => Sys2Proof.Machine.execFaultDoorbellDeliver part seq s
  | .faultDoorbellKill part seq => Sys2Proof.Machine.execFaultDoorbellKill part seq s
  | .faultDoorbellIgnore part seq => Sys2Proof.Machine.execFaultDoorbellIgnore part seq s
  | .create page choice => Sys2Proof.Machine.execCreate page choice s
  | .createInitDone part => Sys2Proof.Machine.execCreateInitDone part s
  | .destroy page => Sys2Proof.Machine.execDestroy page s
  | .update page => Sys2Proof.Machine.execUpdate page s
  | .shootdown page => Sys2Proof.Machine.execShootdown page s
  | .shootdownAck index => Sys2Proof.Machine.execShootdownAck index s
  | .propose page => Sys2Proof.Machine.execPropose page s
  | .accept page choice => Sys2Proof.Machine.execAccept page choice s
  | .close page => Sys2Proof.Machine.execClose page s
  | .attest page => Sys2Proof.Machine.execAttest page s
  | .life page => Sys2Proof.Machine.execLife page s
  | .kilnBadOp page => Sys2Proof.Machine.execKilnBadOp page s
  | .loadCodeObject request => Sys2Proof.Machine.execLoadCodeObject request s
  | .hostMemoryRead part addr size => Sys2Proof.Machine.execHostMemoryRead part addr size s
  | .hostMemoryWrite part addr data => Sys2Proof.Machine.execHostMemoryWrite part addr data s
  | .registerWrite offset data => Sys2Proof.Machine.execRegisterWrite offset data s
  | .powerLimitSet value => Sys2Proof.Machine.execPowerLimitSet value s
  | .warmReset => Sys2Proof.Machine.execWarmReset s
  | .coldReset => Sys2Proof.Machine.execColdReset s
  | .devsetLock value => Sys2Proof.Machine.execDevsetLock value s
  | .isoWrite entry value => Sys2Proof.Machine.execIsoWrite entry value s
  | .collectiveSlotConsume part => Sys2Proof.Machine.execCollectiveSlotConsume part s
  | .collectiveComplete index => Sys2Proof.Machine.execCollectiveComplete index s
  | .collectiveTimeout index => Sys2Proof.Machine.execCollectiveTimeout index s
  | .remoteRequest index => Sys2Proof.Machine.execRemoteRequest index s
  | .remoteAck index => Sys2Proof.Machine.execRemoteAck index s
  | .flitReceive port good => Sys2Proof.Machine.execFlitReceive port good s
  | .portSilenceTimeout port => Sys2Proof.Machine.execPortSilenceTimeout port s
  | .idleFlitTimer port => Sys2Proof.Machine.execIdleFlitTimer port s
  | .powerEstimateWindow watts => Sys2Proof.Machine.execPowerEstimateWindow watts s
  | .idleTimeout => Sys2Proof.Machine.execIdleTimeout s
  | .thermalAlarm => Sys2Proof.Machine.execThermalAlarm s
  | .thermalTrip => Sys2Proof.Machine.execThermalTrip s
  | .illegalInstructionWord w => Sys2Proof.Machine.execIllegalInstructionWord w s
  | .arithmeticClock => Sys2Proof.Machine.execArithmeticClock s
  | .mzeroMfmtRetire quad => Sys2Proof.Machine.execMzeroMfmtRetire quad s
  | .thermalStateEnd => Sys2Proof.Machine.execThermalStateEnd s
  | .portUp port => Sys2Proof.Machine.execPortUp port s

end Sys2Proof.Machine
end

