-- ==== Sys2Proof/Machine/Issue.lean ====
section
/-!
DEFINITION. The issue of one unit: the word at a path's PC is fetched, decoded and executed, and the issue counts on the
windows, ages, pipes, scoreboard and energy (R84, R285, R289, R291, R441). Then the turns of the environment (log 2).
-/
namespace Sys2Proof.Machine

/-! ## One unit -/

/-- Runs a word: BRK, REP and LIMM by their meanings, any other through `exec`, and a word that does not decode as R83
says. -/
def runWord (w : Word) (s : State) : Out :=
  if wfield w 31 12 = 0x280 then execBrk (w.extractLsb' 0 12) s
  else if wfield w 31 27 = 0x18 && wfield w 17 0 = 0 then execRep (Fin.ofNat 64 (wfield w 26 21)) (w.extractLsb' 18 3) s
  else if wfield w 31 27 = 0x19 then execLimm (w.extractLsb' 0 27) s
  else match decodePlain w.toNat with
    | .ok i => exec i s
    | .error _ => execIllegalInstructionWord w s

/-- The next unit of the current path: the fetch, then a repetition that remains, or the word. -/
def runUnit (s : State) : Out :=
  let b := s.band
  match fetchWord s b.pc with
  | .error f => .next (fetchFault s f)
  | .ok w =>
    match b.path.rep with
    | some r => .next (repetition w r s)
    | none => runWord w s

/-! ## What the issue of a unit counts on -/

/-- The windows of the path count the unit (R84), those of logged instructions too (R88). A result that has arrived is written
when its window closes (R293). What the unit itself made has numbers from `first` on. -/
def Band.countWindows (b : Band) (trap : Bool) (k first : Nat) : Band :=
  Band.writeClosed { b with
    results := b.results.map fun (e : ResultEntry) => if e.inTrap = trap && e.id < first then e.count k else e
    olog := if trap then b.olog else b.olog.map fun (e : Nat × LogEntry) =>
      if e.2.order < first then (e.1, { e.2 with windows := countWindow k e.2.windows }) else e }

/-- An AGE counts an issue opportunity that another path took (R17, R291); that of a held path stays (R292, log 38). -/
def PathEntry.older (p : PathEntry) : PathEntry := if p.age = maxAge then p else { p with age := p.age + 1 }

/-- The ages of a table after a unit of entry k; `was` are the entries that were valid and not held before it. -/
def countAges (k : Nat) (was : List Nat) (t : Tab PathEntry) : Tab PathEntry :=
  t.map fun (e : Nat × PathEntry) =>
    if e.1 = k then (e.1, { e.2 with age := 0 })
    else if e.2.v && was.contains e.1 then (e.1, e.2.older) else e

def Band.countIssue (b : Band) (trap : Bool) (k : Nat) (was : List Nat) : Band :=
  if trap then { b with trp := countAges k was b.trp } else { b with prog := countAges k was b.prog }

/-- Results that take more than a clock (R289). -/
def Band.boardResults (b : Band) (r : Nat × List Nat) : Band :=
  if r.1 ≤ 1 then b else { b with board := (r.2.filter (· ≠ 0)).foldl (fun t k => t.put k r.1) b.board }

/-- The pipes that an issue holds (R285): its own, and the quadrant's one issue of this clock. -/
def holdPipes (s : State) (q : Nat) (i : Option (Instr × Band)) : State :=
  let qd := s.quad q
  let p := (qd.pipes.put 4 1).put (issuedKey s.cur) 1
  let p := match i with
    | none => p
    | some (i, x) =>
      let p := p.put (pipeOf i) (pipeClocks (wideType x) i)
      (match i with | .qput _ _ => p.put queueStep 3 | _ => p)
  s.setQuad q { qd with pipes := p }

/-- What the accesses of a unit ask of the slices and the channels: a beat of the slices in each clock (R286, R343), and the lines that
no copy serves (R355), or the flits of remote lines (R464). The engines ask for those of atomics. -/
def unitTraffic (s t : State) (i : Instr) (x : Band) : State :=
  let u := s.issuer 0
  let places := (beatSpots s x i).filterMap fun e => match access s u e.2.1 { r := false, w := false, n := e.2.2 } false with
    | .ok (l, ord) => some (e.1, l, e.2.2, ord)
    | .error _ => none
  let now := clockOf s s.myCluster
  let t := (List.range 3).foldl (fun t b =>
    sendBeat t s.myCore (s.myQuad % 4) (now + b) (wordsOf ((places.filter fun e => e.1 = b).map fun e => (e.2.1, e.2.2.1)))) t
  if byEngine i then t
  else
    let t := (linesOf (places.map fun e => (e.2.1, e.2.2.1))).foldl (fun t l => hotAccess t (some s.myCore) l) t
    let sent (l : Loc) (ord : Nat) : Bool := storing i || ((lineKey l).all fun k => (l2Copy? s u k).isNone
      && (ownCopy? s u (if group i = .fld then .frame else .l1) ord k).isNone)
    let t := chargeFlits t s.band.part s.me ((places.filter fun e => sent e.2.1 e.2.2.2).map fun e => (e.2.1, e.2.2.1))
    let asks (l : Loc) (ord : Nat) : Bool := match lineKey l with
      | none => false
      | some k => !inL2 s k && (storing i || (ownCopy? s u (if group i = .fld then .frame else .l1) ord k).isNone)
    (linesOf ((places.filter fun e => asks e.2.1 e.2.2.2).map fun e => (e.2.1, e.2.2.1))).foldl
      (fun t l => demandLine t s.band.part s.me l) t

/-- The unit trapped before it had any effect (R407), so that it has not retired: no log entry holds it, and it is no trap, whose
cause is 0x0001_0000 and up (R142). -/
def trappedEarly (s t : State) : Bool :=
  t.band.inTrap && !s.band.inTrap && !wbit (t.band.frec.getD 0 0) 19 && wfield t.band.tcause 31 16 ≠ 1

/-- The end of an issue that took `s` to `t`: of entry k of the band of `cur`, with the form that it issued. A form of long latency is
charged when it retires (R441). -/
def endUnit (s t : State) (k : Nat) (i : Option (Instr × Band)) : State :=
  let b := s.band
  let t := holdPipes t s.myQuad i
  let early := trappedEarly s t
  let made (e : ResultEntry) : Bool := s.nextId ≤ e.id && e.long && !e.arrived
  let later := (t.bands.find? s.cur).any fun c => c.lnch = b.lnch && c.bid = b.bid && c.results.any made
  let t := match i with
    | some (i, x) => if early then t else unitTraffic s (if later then t else charge t b.part s.me (weightOf (wideType x) i) 1) i x
    | none => t
  let t := if (t.slots.find? s.cur).isSome then t.setSlot s.cur { t.slot s.cur with count := 0 } else t
  match t.bands.find? s.cur with
  | none => t
  | some c =>
    if c.lnch ≠ b.lnch || c.bid ≠ b.bid then t
    else
      let c := match i with
        | some (i, x) => { c with results := c.results.map fun e => if made e then { e with weight := some (weightOf (wideType x) i) } else e }
        | none => c
      let c := if early then c else c.countWindows b.inTrap k s.nextId
      let c := match i with | some (i, x) => if early then c else c.boardResults (resultTime x i) | none => c
      let c := c.countIssue b.inTrap k (b.valid.filter fun j => (b.entry j).wait.isNone)
      let c := if c.first.isNone then { c with first := some (clockOf s s.myCluster) } else c
      { t with bands := t.bands.put s.cur c }

/-- The greatest outstanding count (R377). -/
def maxOutstanding : Nat := 2 ^ 24 - 1

/-- A unit that could not issue: it has left its path where it was (a full operand log, R38; a tret that waits, R143), or it
would raise an outstanding count past its greatest value (R377). A branch may lead to itself. -/
def stuck (s t : State) (i : Option (Instr × Band)) : Bool :=
  ((s.core s.myCore).drain.getD s.band.lnch.toNat { count := 0, bands := 0 }).count ≤ maxOutstanding
    && maxOutstanding < ((t.core s.myCore).drain.getD s.band.lnch.toNat { count := 0, bands := 0 }).count
  || (t.bands.has s.cur && t.band.inTrap = s.band.inTrap && t.band.path = s.band.path
      && (match i with | some (i, _) => !isBranch i | none => true))

/-- The held results of these numbers change places with the registers of the band of `cur`, where t still holds the band that s
holds. -/
def exchangeHeld (ids : List Nat) (s t : State) : State :=
  match t.bands.find? s.cur with
  | none => t
  | some c => if ids.isEmpty || c.lnch ≠ s.band.lnch || c.bid ≠ s.band.bid then t else { t with bands := t.bands.put s.cur (c.exchange ids) }

/-- A slot issues the unit of one of its paths; none where the unit cannot issue: a trap waits until the instructions before it
have retired (R142, R407). A word that cannot be fetched is no unit. -/
def issueOn (s : State) (n k : Nat) : Option Out :=
  let s := settleFences { s with cur := n }
  let s := s.modBand (·.switchTo k)
  let i := upcoming s s.band
  let ids := s.band.seenBy k
  match runUnit (exchangeHeld ids s s) with
  | .next t =>
    let t := exchangeHeld ids s t
    if stuck s t i || trapHeld n s t then none
    else if fetches s s.band then some (.next (endUnit s t k i)) else some (.next t)
  | o => some o

/-- A fault record that an answer delivers comes before the next unit of a slot's band (R410, R411). -/
def delivers (s : State) (n : Nat) : Bool := slotActs s n && (s.bands.find? n).any fun b => !b.inTrap && !b.deliveries.isEmpty

/-- What a slot could issue now. -/
def attempt (s : State) (n : Nat) : Option Out := if delivers s n then none else (candidate s n).bind (issueOn s n)

/-- A slot with an issue that comes before this one's: its wait count is greater, or as great and its number lower (R287). -/
def precedes (s : State) (n m : Nat) : Bool :=
  m ≠ n && ((s.slot n).count < (s.slot m).count || ((s.slot m).count = (s.slot n).count && m < n)) && (attempt s m).isSome

/-- A turn of a slot: a fault record that an answer delivers is taken first, between units (R410); else the slot issues,
if it can and no other slot of its quadrant comes first. -/
def bandTurn (n : Nat) (s : State) : Out :=
  match s.bands.find? n with
  | none => .next s
  | some b =>
    if delivers s n then .next (if b.unretired then s else takeDelivery { s with cur := n })
    else match attempt s n with
      | none => .next s
      | some o => if (List.range 8).any fun j => precedes s n (8 * quadOf n + j) then .next s else o

/-- A slot that the clock still owes an issue: the quadrant has not issued, and this slot comes first in it (R287). -/
def nextIssue (s : State) : Option Nat :=
  (s.bands.map Prod.fst).find? fun n =>
    (attempt s n).isSome && !((List.range 8).any fun j => precedes s n (8 * quadOf n + j))

/-- One clock passes once no quadrant can issue in it any more; before that, a quadrant issues (R287). -/
def clockTurn (s : State) : Out :=
  match nextIssue s with
  | some n => bandTurn n s
  | none => execArithmeticClock s

/-! ## Turns -/

/-- A step of the table that has no word. The one that stands for words that do not decode is no choice of the
environment's. -/
def isEvent (i : Instr) : Bool :=
  match i with
  | .illegalInstructionWord _ => false
  | _ => group i = .step

def takeTurn (t : Turn) (s : State) : Out :=
  match t with
  | .band n => bandTurn n s
  | .event i => if isEvent i && !(i = .arithmeticClock && (nextIssue s).isSome) then exec i s else .next s
  | .fill core part va into => .next (fillLine s core part va into)
  | .walk q p va => .next (startWalk s q p va)
  | .contribution k r d => .next (receiveContribution s k r d)
  | .abort k r => .next (receiveAbort s k r)
  | .transfer c => .next (transfer s c)
  | .flit p n => .next (moveFlit s p n)
  | .traffic p n pa g => .next (otherTraffic s p n pa g)
  | .outside src part d pa bs => .next (outsideWrite s src part d pa bs)
  | .outsideAtomic src part op line lanes => .next (outsideAtomic s src part op line lanes)
  | .registerRead off n => .next (registerRead s off n)
  | .counters p => .next (readCounters s p)
  | .tamper level ch idx => .next (tamper s level ch idx)

/-- What the outside does to a device that is held in reset: it resets it, writes its registers, or reads, which returns zeros (R471). -/
def reachesHeld (t : Turn) : Bool :=
  match t with
  | .event i => (match i with
    | .warmReset | .coldReset | .registerWrite _ _ | .hostMemoryRead _ _ _ | .devsetLock _ | .isoWrite _ _ | .powerLimitSet _ => true
    | _ => false)
  | .outside _ _ (some _) _ _ | .registerRead _ _ => true
  | _ => false

end Sys2Proof.Machine
end

