-- ==== Sys2Proof/Machine/Step.lean ====
section
/-!
DEFINITION. The step of the machine (log 2), and the state in which its next step runs a given word.
-/
namespace Sys2Proof.Machine

/-- One step: the oldest turn that the environment has chosen; when it has chosen none, a quadrant that can issue in this clock
does so, or else the clock passes. A turn that finds the device held in reset changes nothing, unless it resets the device or
reaches its registers (R455, R471, R472). -/
def step (s : State) : Host.Outcome State Fault Refusal :=
  match s.agenda with
  | [] => if s.held then .next s else clockTurn s
  | t :: ts =>
    let s := { s with agenda := ts }
    if s.held && !reachesHeld t then .next s else takeTurn t s

/-! ## A state whose next step runs a word -/

/-- The address of the word: virtual and physical, since the tensor heap of the band maps it to itself. -/
def fetchAddr : Nat := 0x1000

/-- A partition that holds quadrant 0 and bench unit 0. -/
def fetchPart : Partition := { Partition.blank with state := 1, serial := 1, quads := [0], bench := [0], thl := 2 ^ 21 }

/-- A launch of one thread, which has left its ENTRY behind: a fetch there does not go by the heap (R475). -/
def fetchLaunch : Launch where
  part := 1
  kind := .queue 0
  level := 0
  cls := 1
  home := 0
  entry := 0
  n := 1
  rf := 128
  cw := 0
  thb := 0
  thl := 0
  tho := 0
  work := 0
  bound := 0
  frame := 0
  disp := []
  ctx := 0
  nbound := 1
  exited := 0
  killed := none
  counted := false
  since := 0
  left := []

/-- Its band, in slot 0 and about to issue. -/
def fetchBand : Band :=
  { Band.blank with
    lnch := 1, cls := 1, part := 1, rf := 128, occ := 1, mask := 1, thl := 2 ^ 21, rwpc := BitVec.ofNat 48 fetchAddr, rwmask := 1
    prog := [(0, { PathEntry.empty with v := true, pc := BitVec.ofNat 46 (fetchAddr / 4), mask := 1 })] }

/-- The state with the word placed where the next step fetches it (log 1): one band alone in quadrant 0, its word in bench
memory, and the band's turn at the head of the agenda. Copies and window images of the word are set aside, and so is
poison. -/
def State.withFetchWord (s : State) (nbits w : Nat) : State :=
  { s with
    agenda := [.band 0], cur := 0, held := false
    parts := s.parts.put 1 fetchPart
    launches := s.launches.put 1 fetchLaunch
    bands := Tab.put (s.bands.filter fun (e : Nat × Band) => quadOf e.1 ≠ 0) 0 fetchBand
    slots := Tab.put (s.slots.filter fun (e : Nat × SlotState) => quadOf e.1 ≠ 0) 0 { SlotState.init with state := 1 }
    quads := s.quads.put 0 { Quad.init with owner := 1 }
    cores := s.cores.put 0 { CoreState.init with drain := [(1, { count := 0, bands := 1 })] }
    windows := s.windows.filter fun (e : Nat × Window) => !e.2.working.contains 0
    poison := s.poison.filter fun (e : Nat × (Nat × Nat)) => !(e.1 < fetchAddr + 4 && fetchAddr < e.1 + e.2.1)
    mem := s.mem.setBytes fetchAddr (wordBytes (w % 2 ^ nbits)) }

end Sys2Proof.Machine
end

