-- ==== Sys2Proof/Safety.lean ====
section
/-!
DEFINITION. The terms in which claims about the machine are made: the band that an instruction acts on, what a write
leaves in a register, what a unit leaves unchanged, where its path goes on, and the canonical form of memory.
-/
namespace Sys2Proof.Machine

/-- Slot `cur` holds band b: the one that `exec` acts on. -/
def State.holds (s : State) (b : Band) : Prop := s.bands.find? s.cur = some b

/-- What scalar register r holds after a write of v: s0 stays 0 (R20), s60 to s62 keep only occupied lanes (R11). -/
def Band.scalarAfter (b : Band) (r : Nat) (v : Word) : Word :=
  if r = 0 then 0 else if 60 ≤ r ∧ r ≤ 62 then v &&& beat b.occ (r - 60) else v

/-- Where a path goes on when its unit is done (R92): at the next word, or at the same one for a repetition that
remains. -/
def PathEntry.next (p : PathEntry) : PathEntry :=
  match p.rep with
  | some r =>
    if r.remaining > 1 then { p with rep := some { r with remaining := r.remaining - 1 }, wait := none }
    else { p with pc := p.pc + 1, rep := none, limm := none, wait := none }
  | none => { p with pc := p.pc + 1, limm := none, wait := none }

/-- What a unit leaves of its band: the scalar registers outside S, the vector registers outside R, and in those of R the
lanes outside m, keep their values; so does every other register and every other path. The boundary bit changes only
where a pinned register is named (R37), and pending results lose only registers that the unit wrote (R86, R88). -/
structure Frame (b b' : Band) (S R : Nat → Prop) (m : Lanes) : Prop where
  scalars : ∀ r, ¬ S r → b'.sreg r = b.sreg r
  vectors : ∀ v l, l < 96 → ¬ (R v ∧ m.getLsbD l = true) → b'.vlane v l = b.vlane v l
  rest : { b' with sregs := b.sregs, vregs := b.vregs, mask := b.mask, prog := b.prog, trp := b.trp,
                   boundary := b.boundary, results := b.results, olog := b.olog } = b
  paths : ∀ k, k ≠ b.ix → b'.entry k = b.entry k
  others : if b.inTrap then b'.prog = b.prog else b'.trp = b.trp
  boundary : (∀ r, S r → b.isPinned false r = false) → (∀ v, R v → b.isPinned true v = false) → b'.boundary = b.boundary
  results : b'.results.map (fun e => { e with writes := [] }) = b.results.map fun e => { e with writes := [] }
  olog : b'.olog.map (fun (e : Nat × LogEntry) => (e.1, { e.2 with drops := [] }))
       = b.olog.map fun (e : Nat × LogEntry) => (e.1, { e.2 with drops := [] })

/-- The unit of b's path is done, and b' goes on. -/
def GoesOn (b b' : Band) : Prop := b'.path = b.path.next

/-- The canonical form of every memory. -/
def MemoryWf (s : State) : Prop := s.mem.wf = true ∧ s.spad.wf = true ∧ s.rmem.wf = true ∧ s.mail.wf = true

end Sys2Proof.Machine

/-! ## What the rules say that register forms write -/

namespace Sys2Proof.Claims

open Machine

/-- What a form writes that only writes registers of its band: scalar registers, and in the lanes of a mask vector registers,
with the value for each lane. `legal` is what the form asks of the registers that it names and of MR (R23, R24, R156). -/
structure Effect where
  legal   : Bool
  scalars : List (Nat × Word)
  vectors : List (Nat × (Nat → Word))
  lanes   : Lanes

/-- A form that writes scalar registers. -/
def ofScalars (ws : List (Nat × Word)) : Effect := { legal := true, scalars := ws, vectors := [], lanes := 0 }

/-- The instruction ends in the state s', but for its band, which was b: its registers hold the results, every other register
and all the rest of the band is unchanged, and the path goes on. -/
def Ends (s s' : State) (b : Band) (i : Instr) (e : Effect) : Prop :=
  ∃ b', exec i s = .next (s'.setBand b')
    ∧ (∀ w ∈ e.scalars, b'.sreg w.1 = b.scalarAfter w.1 w.2)
    ∧ (∀ w ∈ e.vectors, ∀ l, l < 96 → e.lanes.getLsbD l = true → b'.vlane w.1 l = w.2 l)
    ∧ Frame b b' (fun r => ∃ w ∈ e.scalars, w.1 = r) (fun v => ∃ w ∈ e.vectors, w.1 = v) e.lanes
    ∧ GoesOn b b'

/-- The instruction completes with this effect on its band, and on nothing else of the machine: memory keeps every byte. -/
def Completes (s : State) (b : Band) (i : Instr) (e : Effect) : Prop := Ends s s b i e

/-- The results of a long-latency form that names a window (R84, R293): no register changes yet, and the path goes on. A new
result entry is the youngest of the band's; it waits for its window, and holds writes that leave the results and nothing else
in the registers. -/
def Queues (s s' : State) (b : Band) (i : Instr) (la : Nat) (e : Effect) : Prop :=
  ∃ c r, exec i s = .next ({ s' with nextId := s'.nextId + 1 }.setBand { c with results := c.results ++ [r] })
    ∧ r.id = s'.nextId ∧ r.order = s'.nextId ∧ r.path = b.ix ∧ r.windows = [(b.ix, la)] ∧ r.inTrap = b.inTrap ∧ r.arrived = false ∧ r.pending = 0
    ∧ c.sregs = b.sregs ∧ c.vregs = b.vregs ∧ c.mask = b.mask
    ∧ Frame b c (fun r => ∃ w ∈ e.scalars, w.1 = r) (fun v => ∃ w ∈ e.vectors, w.1 = v) e.lanes
    ∧ GoesOn b c
    ∧ (∀ w ∈ e.scalars, (r.writes.foldl Band.applyWrite b).sreg w.1 = b.scalarAfter w.1 w.2)
    ∧ (∀ w ∈ e.vectors, ∀ l, l < 96 → e.lanes.getLsbD l = true →
        (r.writes.foldl Band.applyWrite b).vlane w.1 l = w.2 l)
    ∧ (∀ x, (∀ w ∈ e.scalars, w.1 ≠ x) → (r.writes.foldl Band.applyWrite b).sreg x = b.sreg x)
    ∧ (∀ v l, l < 96 → ¬ ((∃ w ∈ e.vectors, w.1 = v) ∧ e.lanes.getLsbD l = true) →
        (r.writes.foldl Band.applyWrite b).vlane v l = b.vlane v l)

/-- The results of a form with a lookahead field: at once with LA = 0, else in a result entry (R84). -/
def Delivers (s s' : State) (b : Band) (i : Instr) (la : LA) (e : Effect) : Prop :=
  if la.val = 0 then Ends s s' b i e else Queues s s' b i la.val e

/-! ### What a store leaves in memory -/

/-- A store of bytes at a place. -/
abbrev Writes := List (Loc × List Byte)

/-- Where a place lies in the memory of this device, and in a scratchpad. -/
def inMem : Loc → Option Nat
  | .mem a => some a
  | .spad _ | .remote _ _ => none
def inSpad : Loc → Option Nat
  | .spad a => some a
  | .mem _ | .remote _ _ => none

/-- The byte at address a after stores in order, of which the last that covers it counts; `old` where none does. -/
def lastByte (at_ : Loc → Option Nat) (ws : Writes) (a : Nat) (old : Byte) : Byte :=
  ws.foldl (fun x w => match at_ w.1 with
    | some p => if p ≤ a ∧ a < p + w.2.length then w.2.getD (a - p) 0 else x
    | none => x) old

/-- The stores to other devices, which go on their way (R325). -/
def posted (ws : Writes) : List (Nat × Nat × List Byte) :=
  ws.filterMap fun w => match w.1 with
    | .remote d a => some (d, a, w.2)
    | .mem _ | .spad _ => none

/-- A form that stores leaves the stored bytes where it put them and every other byte of every memory as it was. Bands,
quadrants, and tables of partitions and launches keep all they hold; what belongs to the stored lines (versions, dirty bits,
poison, tags, copies, drain counts, TICK words) is the machine's. -/
structure Stored (s t : State) (b' : Band) (ws : Writes) : Prop where
  memory  : ∀ a, t.mem.byte a = lastByte inMem ws a (s.mem.byte a)
  pads    : ∀ a, t.spad.byte a = lastByte inSpad ws a (s.spad.byte a)
  remote  : t.rmem = s.rmem ∧ t.remotes.map (fun r => (r.dev, r.pa, r.data))
              = s.remotes.map (fun r => (r.dev, r.pa, r.data)) ++ posted ws
  bands   : t.bands = s.bands.put s.cur b'
  copies  : ∀ k, { t.cluster k with l2 := [], hot := (t.cluster k).hot.map fun h : HotLine => { h with dirty := false } }
              = { s.cluster k with l2 := [], hot := (s.cluster k).hot.map fun h : HotLine => { h with dirty := false } }
  tables  : ∀ k, { t.core k with cache := [], drain := [] } = { s.core k with cache := [], drain := [] }
  parts   : ∀ p, (t.parts.find? p).map (fun x => { x with ticks := [] }) = (s.parts.find? p).map fun x => { x with ticks := [] }
  rest    : { t with mem := s.mem, spad := s.spad, bands := s.bands, cores := s.cores, clusters := s.clusters
                     parts := s.parts, remotes := s.remotes, windows := s.windows, glaze := s.glaze, glazeTree := s.glazeTree, poison := s.poison
                     spadPoison := s.spadPoison, tampered := s.tampered, nextId := s.nextId } = s

/-! ### Scalars (R125 to R127) -/

/-- The number that the low n bits of a word stand for, signed. -/
def signed (n : Nat) (w : Word) : Int := (w.setWidth n).toInt

/-- The count b[4:0] of a shift. -/
def count (b : Word) : Nat := b.toNat % 32

/-- A word shifted right with copies of bit 31. -/
def shiftSigned (a : Word) (c : Nat) : Word := BitVec.ofInt 32 (a.toInt / 2 ^ c)

/-- A word rotated left by c below 32. -/
def rotate (a : Word) (c : Nat) : Word := BitVec.ofNat 32 (a.toNat * 2 ^ c + a.toNat / 2 ^ (32 - c))

/-- 1 for a condition that holds. -/
def truth (p : Prop) [Decidable p] : Word := if p then 1 else 0

/-- The bits of a word that are 1, ascending. -/
def ones (a : Word) : List Nat := (List.range 32).filter a.getLsbD

/-- The result of a form of SALU (R125) and its destination. -/
def salu (b : Band) : Instr → Option Effect
  | .add d x y => some (ofScalars [(d, BitVec.ofNat 32 ((b.sreg x).toNat + (b.sreg y).toNat))])
  | .sub d x y => some (ofScalars [(d, BitVec.ofInt 32 ((b.sreg x).toNat - (b.sreg y).toNat))])
  | .mul24 d x y => some (ofScalars [(d, BitVec.ofInt 32 (signed 24 (b.sreg x) * signed 24 (b.sreg y)))])
  | .mul d x y => some (ofScalars [(d, BitVec.ofNat 32 ((b.sreg x).toNat * (b.sreg y).toNat))])
  | .mulh d x y => some (ofScalars [(d, BitVec.ofInt 32 ((b.sreg x).toInt * (b.sreg y).toInt / 2 ^ 32))])
  | .mulhn d x y => some (ofScalars [(d, BitVec.ofNat 32 ((b.sreg x).toNat * (b.sreg y).toNat / 2 ^ 32))])
  | .and d x y => some (ofScalars [(d, b.sreg x &&& b.sreg y)])
  | .or d x y => some (ofScalars [(d, b.sreg x ||| b.sreg y)])
  | .xor d x y => some (ofScalars [(d, b.sreg x ^^^ b.sreg y)])
  | .andn d x y => some (ofScalars [(d, b.sreg x &&& ~~~b.sreg y)])
  | .orn d x y => some (ofScalars [(d, b.sreg x ||| ~~~b.sreg y)])
  | .sll d x y => some (ofScalars [(d, BitVec.ofNat 32 ((b.sreg x).toNat * 2 ^ count (b.sreg y)))])
  | .srl d x y => some (ofScalars [(d, BitVec.ofNat 32 ((b.sreg x).toNat / 2 ^ count (b.sreg y)))])
  | .sra d x y => some (ofScalars [(d, shiftSigned (b.sreg x) (count (b.sreg y)))])
  | .rol d x y => some (ofScalars [(d, rotate (b.sreg x) (count (b.sreg y)))])
  | .ror d x y => some (ofScalars [(d, rotate (b.sreg x) ((32 - count (b.sreg y)) % 32))])
  | .min d x y => some (ofScalars [(d, if (b.sreg x).toInt < (b.sreg y).toInt then b.sreg x else b.sreg y)])
  | .max d x y => some (ofScalars [(d, if (b.sreg x).toInt < (b.sreg y).toInt then b.sreg y else b.sreg x)])
  | .minn d x y => some (ofScalars [(d, if (b.sreg x).toNat < (b.sreg y).toNat then b.sreg x else b.sreg y)])
  | .maxn d x y => some (ofScalars [(d, if (b.sreg x).toNat < (b.sreg y).toNat then b.sreg y else b.sreg x)])
  | .slt d x y => some (ofScalars [(d, truth ((b.sreg x).toInt < (b.sreg y).toInt))])
  | .sltn d x y => some (ofScalars [(d, truth ((b.sreg x).toNat < (b.sreg y).toNat))])
  | .eq d x y => some (ofScalars [(d, truth (b.sreg x = b.sreg y))])
  | .popc d x => some (ofScalars [(d, BitVec.ofNat 32 (ones (b.sreg x)).length)])
  | .clz d x =>
    some (ofScalars [(d, BitVec.ofNat 32 (match (ones (b.sreg x)).getLast? with | some j => 31 - j | none => 32))])
  | .ctz d x => some (ofScalars [(d, BitVec.ofNat 32 ((ones (b.sreg x)).head?.getD 32))])
  | .brev d x => some (ofScalars [(d, (b.sreg x).reverse)])
  | .bswap d x => some (ofScalars [(d, (b.sreg x).extractLsb' 0 8 ++ (b.sreg x).extractLsb' 8 8
      ++ (b.sreg x).extractLsb' 16 8 ++ (b.sreg x).extractLsb' 24 8)])
  | .sxb d x => some (ofScalars [(d, BitVec.ofInt 32 (signed 8 (b.sreg x)))])
  | .sxh d x => some (ofScalars [(d, BitVec.ofInt 32 (signed 16 (b.sreg x)))])
  | .zxb d x => some (ofScalars [(d, BitVec.ofNat 32 ((b.sreg x).toNat % 2 ^ 8))])
  | .zxh d x => some (ofScalars [(d, BitVec.ofNat 32 ((b.sreg x).toNat % 2 ^ 16))])
  | _ => none

/-- An immediate, widened by a LIMM that is pending (R94). -/
def wide {n : Nat} (b : Band) (x : BitVec n) : Word :=
  match b.path.limm with
  | none => BitVec.ofInt 32 x.toInt
  | some h => BitVec.ofNat 32 (h.toNat * 32 + x.toNat % 32)

/-- The result of a form of SALUI (R126) and of SLI (R127). -/
def salui (b : Band) : Instr → Option Effect
  | .addi d x i => some (ofScalars [(d, BitVec.ofNat 32 ((b.sreg x).toNat + (wide b i).toNat))])
  | .andi d x i => some (ofScalars [(d, b.sreg x &&& wide b i)])
  | .ori d x i => some (ofScalars [(d, b.sreg x ||| wide b i)])
  | .xori d x i => some (ofScalars [(d, b.sreg x ^^^ wide b i)])
  | .slti d x i => some (ofScalars [(d, truth ((b.sreg x).toInt < (wide b i).toInt))])
  | .sltni d x i => some (ofScalars [(d, truth ((b.sreg x).toNat < (wide b i).toNat))])
  | .slli d x c => some (ofScalars [(d, BitVec.ofNat 32 ((b.sreg x).toNat * 2 ^ c.toNat))])
  | .srli d x c => some (ofScalars [(d, BitVec.ofNat 32 ((b.sreg x).toNat / 2 ^ c.toNat))])
  | .srai d x c => some (ofScalars [(d, shiftSigned (b.sreg x) c.toNat)])
  | .rori d x c => some (ofScalars [(d, rotate (b.sreg x) ((32 - c.toNat) % 32))])
  | .muli d x i => some (ofScalars [(d, BitVec.ofNat 32 ((b.sreg x).toNat * (wide b i).toNat))])
  | .sli d i => some (ofScalars [(d, BitVec.ofInt 32 i.toInt)])
  | .slu d i => some (ofScalars [(d, BitVec.ofNat 32 (i.toNat * 2 ^ 12 + (b.sreg d).toNat % 2 ^ 12))])
  | _ => none

/-! ### Elements of vectors (R155 to R157) -/

/-- A code of a type as Wr puts it into a register, or a pair (R46, R157). -/
def wr (t : Ty) (d : Nat) (code : Nat → Nat) : List (Nat × (Nat → Word)) :=
  if t.is64 then [(d, fun l => BitVec.ofNat 32 (code l)), (d + 1, fun l => BitVec.ofNat 32 (code l / 2 ^ 32))]
  else [(d, fun l => wrWord t (code l))]

/-- A form on the enabled lanes whose result is a code of the type in MR, for an accepted type and named registers. -/
def lanewise (b : Band) (ok : Bool) (d : VReg) (srcs : List VReg) (code : Nat → Nat) : Effect :=
  { legal := ok && (d :: srcs).all fun r => b.elem? b.ty r, scalars := [], vectors := wr b.ty d code, lanes := b.enabled }

/-- The element of an operand, as an integer in the view of its type, and its code. -/
def int (b : Band) (x : VReg) (l : Nat) : Int := b.rdInt b.ty x l
def bits (b : Band) (x : VReg) (l : Nat) : Nat := b.code b.ty x l

/-- Fit of an exact integer (R47), as a code. -/
def fitted (b : Band) (z : Int) : Nat := (fit (mr.sat b.mr) z b.ty.signed b.ty.width % 2 ^ b.ty.width).toNat

/-- Bits [min(W, 24)-1:0] of an operand, in the view of its type (R160). -/
def low24 (b : Band) (c : Nat) : Int :=
  let w := min b.ty.width 24
  if b.ty.signed then (c % 2 ^ w : Nat) - (if c % 2 ^ w < 2 ^ (w - 1) then 0 else 2 ^ w) else (c % 2 ^ w : Nat)

/-- The signed view of W bits. -/
def signedCode (w c : Nat) : Int := if c % 2 ^ w < 2 ^ (w - 1) then (c % 2 ^ w : Nat) else (c % 2 ^ w : Nat) - 2 ^ w

/-- The operations of VALU and VALUI on the bits of two operands. -/
def shiftLeft (w x c : Nat) : Nat := if c ≥ w then 0 else x * 2 ^ c % 2 ^ w
def shiftRight (w x c : Nat) : Nat := if c ≥ w then 0 else x / 2 ^ c
def shiftArith (w x c : Nat) : Nat := (signedCode w x / 2 ^ c % 2 ^ w).toNat
def rotl (w x c : Nat) : Nat := (x * 2 ^ (c % w) + x / 2 ^ (w - c % w)) % 2 ^ w
def invert (w x : Nat) : Nat := 2 ^ w - 1 - x % 2 ^ w
def oneBits (w x : Nat) : List Nat := (List.range w).filter x.testBit

/-- The result of a form of VALU (R160). -/
def valu (b : Band) : Instr → Option Effect
  | .vadd d x y => some (lanewise b b.ty.isInt d [x, y] fun l => fitted b (int b x l + int b y l))
  | .vsub d x y => some (lanewise b b.ty.isInt d [x, y] fun l => fitted b (int b x l - int b y l))
  | .vmul24 d x y => some (lanewise b b.ty.isInt d [x, y] fun l => fitted b (low24 b (bits b x l) * low24 b (bits b y l)))
  | .vmul32 d x y => some (lanewise b b.ty.isInt d [x, y] fun l => fitted b (int b x l * int b y l))
  | .vmulh32 d x y => some (lanewise b (b.ty.et = .i32 || b.ty.et = .n32) d [x, y] fun l =>
      (signedCode 32 (bits b x l) * signedCode 32 (bits b y l) / 2 ^ 32 % 2 ^ 32).toNat)
  | .vmulhn32 d x y => some (lanewise b (b.ty.et = .i32 || b.ty.et = .n32) d [x, y] fun l => bits b x l * bits b y l / 2 ^ 32)
  | .vand d x y => some (lanewise b true d [x, y] fun l => bits b x l &&& bits b y l)
  | .vor d x y => some (lanewise b true d [x, y] fun l => bits b x l ||| bits b y l)
  | .vxor d x y => some (lanewise b true d [x, y] fun l => bits b x l ^^^ bits b y l)
  | .vandn d x y => some (lanewise b true d [x, y] fun l => bits b x l &&& invert b.ty.width (bits b y l))
  | .vsll d x y => some (lanewise b b.ty.isInt d [x, y] fun l => shiftLeft b.ty.width (bits b x l) (bits b y l % 32))
  | .vsrl d x y => some (lanewise b b.ty.isInt d [x, y] fun l => shiftRight b.ty.width (bits b x l) (bits b y l % 32))
  | .vsra d x y => some (lanewise b b.ty.isInt d [x, y] fun l => shiftArith b.ty.width (bits b x l) (bits b y l % 32))
  | .vrol d x y => some (lanewise b b.ty.isInt d [x, y] fun l => rotl b.ty.width (bits b x l) (bits b y l % 32))
  | .vmin d x y => some (lanewise b b.ty.isInt d [x, y] fun l => if int b x l < int b y l then bits b x l else bits b y l)
  | .vmax d x y => some (lanewise b b.ty.isInt d [x, y] fun l => if int b x l < int b y l then bits b y l else bits b x l)
  | .vabsd d x y => some (lanewise b b.ty.isInt d [x, y] fun l => fitted b (int b x l - int b y l).natAbs)
  | .vpopc d x => some (lanewise b b.ty.isInt d [x] fun l => (oneBits b.ty.width (bits b x l)).length)
  | .vclz d x => some (lanewise b b.ty.isInt d [x] fun l =>
      match (oneBits b.ty.width (bits b x l)).getLast? with | some j => b.ty.width - 1 - j | none => b.ty.width)
  | .vctz d x => some (lanewise b b.ty.isInt d [x] fun l => (oneBits b.ty.width (bits b x l)).head?.getD b.ty.width)
  | .vbrev d x => some (lanewise b b.ty.isInt d [x] fun l =>
      ((oneBits b.ty.width (bits b x l)).map fun j => 2 ^ (b.ty.width - 1 - j)).sum)
  | .vsel d x y => some (lanewise b true d [x, y] fun l =>
      (bits b x l &&& bits b d l) ||| (bits b y l &&& invert b.ty.width (bits b d l)))
  | .vmov d x => some (lanewise b true d [x] fun l => bits b x l)
  | _ => none

/-- The immediate of VALUI under the type (R161): its low W bits, sign-extended for f64. -/
def immBits (b : Band) (i : BitVec 9) : Nat := ((wide b i).toInt % 2 ^ b.ty.width).toNat

/-- The integer that those bits are in the view of the type: Wrap(x, ET). -/
def immInt (b : Band) (i : BitVec 9) : Int :=
  if b.ty.signed then signedCode b.ty.width (immBits b i) else (immBits b i : Nat)

/-- The result of a form of VALUI (R161). -/
def valui (b : Band) : Instr → Option Effect
  | .vaddi d x i => some (lanewise b b.ty.isInt d [x] fun l => fitted b (int b x l + immInt b i))
  | .vmuli24 d x i => some (lanewise b b.ty.isInt d [x] fun l => fitted b (low24 b (bits b x l) * low24 b (immBits b i)))
  | .vandi d x i => some (lanewise b true d [x] fun l => bits b x l &&& immBits b i)
  | .vori d x i => some (lanewise b true d [x] fun l => bits b x l ||| immBits b i)
  | .vxori d x i => some (lanewise b true d [x] fun l => bits b x l ^^^ immBits b i)
  | .vslli d x c => some (lanewise b b.ty.isInt d [x] fun l => shiftLeft b.ty.width (bits b x l) c.toNat)
  | .vsrli d x c => some (lanewise b b.ty.isInt d [x] fun l => shiftRight b.ty.width (bits b x l) c.toNat)
  | .vsrai d x c => some (lanewise b b.ty.isInt d [x] fun l => shiftArith b.ty.width (bits b x l) c.toNat)
  | .vmini d x i => some (lanewise b b.ty.isInt d [x] fun l => if int b x l < immInt b i then bits b x l else immBits b i)
  | .vmaxi d x i => some (lanewise b b.ty.isInt d [x] fun l => if int b x l < immInt b i then immBits b i else bits b x l)
  | .vmovi d i => some (lanewise b true d [] fun _ => immBits b i)
  | _ => none

/-! ### Floating-point forms (R162 to R165) -/

/-- The value of an operand as Rd reads it, with the flush of MR.SUB (R157). -/
def val (b : Band) (x : VReg) (l : Nat) : FVal := b.rdVal b.ty x l

/-- Round with MR.RM and MR.SUB (R60), and FSum (R162). -/
def rounded (b : Band) (x : FVal) : Nat := fround x b.ty.fmt (mr.rounding b.mr) (mr.sub b.mr)
def summed (b : Band) (xs : List FVal) : Nat := fsum xs b.ty.fmt (mr.rounding b.mr) (mr.sub b.mr)

def floating (b : Band) (d : VReg) (srcs : List VReg) (code : Nat → Nat) : Effect := lanewise b b.ty.isFloat d srcs code

/-- x is below y in the order of R164, in which −0 is below +0. -/
def below (x y : FVal) : Bool :=
  match x, y with
  | .zero true, .zero false => true
  | _, _ => FVal.cmp x y = .lt

/-- An operand's code, as it is returned (R55, R164). -/
def kept (t : Fmt) (code : Nat) (x : FVal) : Nat :=
  match x with
  | .zero n => if n && t.nz then t.withSign true 0 else 0
  | .nan => t.nanCode
  | _ => code

/-- vfmin and vfmax of R164. -/
def extreme (max : Bool) (b : Band) (x y : VReg) (l : Nat) : Nat :=
  let t := b.ty.fmt
  let a := val b x l
  let c := val b y l
  if a.isNan then kept t (bits b y l) c
  else if c.isNan then kept t (bits b x l) a
  else if (if max then below a c else below c a) then kept t (bits b y l) c
  else kept t (bits b x l) a

/-- The result of a form of VFP, but for vfclass (R163, R164). -/
def vfp (b : Band) : Instr → Option Effect
  | .vfadd d x y => some (floating b d [x, y] fun l => summed b [val b x l, val b y l])
  | .vfsub d x y => some (floating b d [x, y] fun l => summed b [val b x l, (val b y l).neg])
  | .vfmul d x y => some (floating b d [x, y] fun l => rounded b ((val b x l).mul (val b y l)))
  | .vfma d x y => some (floating b d [x, y] fun l => summed b [(val b x l).mul (val b y l), val b d l])
  | .vfms d x y => some (floating b d [x, y] fun l => summed b [(val b x l).mul (val b y l), (val b d l).neg])
  | .vfnma d x y => some (floating b d [x, y] fun l => summed b [((val b x l).mul (val b y l)).neg, val b d l])
  | .vfmin d x y => some (floating b d [x, y] fun l => extreme false b x y l)
  | .vfmax d x y => some (floating b d [x, y] fun l => extreme true b x y l)
  | .vfabs d x => some (floating b d [x] fun l => rounded b (val b x l).abs)
  | .vfneg d x => some (floating b d [x] fun l => rounded b (val b x l).neg)
  | .vfcpys d x y => some (floating b d [x, y] fun l =>
      rounded b (if (val b y l).isNan then .nan else (val b x l).withSign (val b y l).isNeg))
  | .vfrnd d x => some (floating b d [x] fun l => rounded b (roundIntegral (mr.rounding b.mr) (val b x l)))
  | .vfclass d x => some
      { legal := b.ty.isFloat && b.elem? b.ty x && b.vregs? d 1, scalars := [], lanes := b.enabled
        vectors := [(d, fun l => classMask (bits b x l) b.ty.fmt)] }
  | _ => none

/-! ### Conversions (R168 to R172) -/

/-- A conversion from the type of code c. -/
def converting (b : Band) (ok : Bool) (d x : VReg) (c : Fin 16) (code : Nat → Nat) : Effect :=
  { legal := ok && b.elem? (b.tyCode c) x && b.elem? b.ty d, scalars := [], vectors := wr b.ty d code, lanes := b.enabled }

/-- The result of a form of VCVT. -/
def vcvt (b : Band) : Instr → Option Effect
  | .vcvt d x c => some (converting b ((b.tyCode c).isInt == b.ty.isInt) d x c fun l =>
      if b.ty.isInt then fitted b (b.rdInt (b.tyCode c) x l) else rounded b (b.rdVal (b.tyCode c) x l))
  | .vcvti d x c => some (converting b ((b.tyCode c).isFloat && b.ty.isInt) d x c fun l =>
      (toIntType (mr.rounding b.mr) (b.rdVal (b.tyCode c) x l) b.ty.signed b.ty.width % 2 ^ b.ty.width).toNat)
  | .vcvtf d x c => some (converting b ((b.tyCode c).isInt && b.ty.isFloat) d x c fun l =>
      rounded b (FVal.ofInt (b.rdInt (b.tyCode c) x l) 0))
  | .vcvtef d x y =>
    let r (l : Nat) : Nat × Nat := errorFeedback (fread (mr.sub b.mr) (b.vlane x l).toNat Fmt.binary32) (b.vlane y l).toNat
      b.ty.fmt (mr.sub b.mr)
    some { legal := (b.ty.et = .f16 || b.ty.et = .bf16 || b.ty.et = .fmt) && b.vregs? d 1 && b.vregs? x 1 && b.vregs? y 1
           scalars := [], lanes := b.enabled
           vectors := wr b.ty d (fun l => (r l).1) ++ [(y.val, fun l => BitVec.ofNat 32 (r l).2)] }
  | .vpk d x y => some
      { legal := (b.ty.et = .i16 || b.ty.et = .n16 || b.ty.et = .f16 || b.ty.et = .bf16 || b.ty.et = .i8 || b.ty.et = .n8
          || (b.ty.et = .fmt && b.ty.width ≤ 8)) && b.vregs? d 1 && b.vregs? x 1 && b.vregs? y 1
        scalars := [], lanes := b.enabled
        vectors := [(d, fun l =>
          if b.ty.width = 16 then (b.vlane y l).extractLsb' 0 16 ++ (b.vlane x l).extractLsb' 0 16
          else (b.vlane y l).extractLsb' 0 8 ++ (b.vlane x l).extractLsb' 0 8 ++ (b.vlane d l).extractLsb' 16 16)] }
  | .vupk d x n =>
    let wide16 := b.ty.et = .i16 || b.ty.et = .n16 || b.ty.et = .f16 || b.ty.et = .bf16
    some { legal := ((wide16 && n.val < 2) || b.ty.et = .i8 || b.ty.et = .n8 || (b.ty.et = .fmt && b.ty.width ≤ 8))
             && b.vregs? d 1 && b.vregs? x 1
           scalars := [], lanes := b.enabled
           vectors := wr b.ty d fun l =>
             if wide16 then ((b.vlane x l).extractLsb' (16 * n.val) 16).toNat else ((b.vlane x l).extractLsb' (8 * n.val) 8).toNat }
  | .vscale d x y => some
      { legal := b.ty.isFloat && b.elem? b.ty d && b.elem? b.ty x && b.vregs? y 1, scalars := [], lanes := b.enabled
        vectors := wr b.ty d fun l => rounded b ((val b x l).scale (clampScale (b.vlane y l).toInt)) }
  | _ => none

/-! ### Lane forms (R173 to R178) -/

/-- The registers of a value: one, or a pair under f64. -/
def span (b : Band) : List Nat := if b.ty.is64 then [0, 1] else [0]

/-- A form in which each enabled lane takes the register value of lane `src l`, or 0. -/
def moving (b : Band) (ok : Bool) (d x : VReg) (src : Nat → Nat) : Effect :=
  { legal := ok && b.elem? b.ty d && b.elem? b.ty x, scalars := [], lanes := b.enabled
    vectors := (span b).map fun k => (d.val + k, fun l => if src l < 96 then b.vlane (x.val + k) (src l) else 0) }

/-- The code that a scalar, or a pair under f64, gives. -/
def scalarBits (b : Band) (r : Nat) : Nat :=
  (b.sreg r).toNat + (if b.ty.is64 then 2 ^ 32 * (b.sreg (r + 1)).toNat else 0)

/-- The forms of VLANE that move values (R173, R174), and the running sum (R177): lane l of the destination of vscan takes
the sum of the enabled lanes up to l, integers exactly and then fitted, floats rounded one by one. -/
def runInt (b : Band) (x : VReg) (l : Nat) : Int := (((laneList b.enabled).filter (· ≤ l)).map (int b x)).sum
def runFloat (b : Band) (x : VReg) (l : Nat) : Nat :=
  (((laneList b.enabled).filter (· ≤ l)).foldl (fun (a : Nat × FVal) k =>
    (fun c : Nat => (c, fdecode c b.ty.fmt)) (summed b [a.2, val b x k])) (0, .zero true)).1

def vlane (b : Band) : Instr → Option Effect
  | .vbs d r => some
      { legal := b.elem? b.ty d && (!b.ty.is64 || r.val % 2 = 0), scalars := [], lanes := b.enabled
        vectors := wr b.ty d fun _ => scalarBits b r }
  | .vshfl d x y => some (moving b (b.vregs? y 1) d x fun l => (b.vlane y l).toNat)
  | .vshfx d x y => some (moving b (b.vregs? y 1) d x fun l => l ^^^ ((b.vlane y l).toNat % 128))
  | .vrot d x r => some (moving b true d x fun l => (l + (b.sreg r).toNat) % 96)
  | .vwr d x r => some
      { legal := b.elem? b.ty d && (!b.ty.is64 || x.val % 2 = 0) && (b.sreg r).toNat < 96, scalars := []
        lanes := b.enabled &&& BitVec.twoPow 96 (b.sreg r).toNat
        vectors := wr b.ty d fun _ => scalarBits b x }
  | .vrd d x r => some
      { legal := b.elem? b.ty x && (!b.ty.is64 || d.val % 2 = 0) && (b.sreg r).toNat < 96, vectors := [], lanes := 0
        scalars := (span b).map fun k => (d.val + k,
          if b.enabled.getLsbD (b.sreg r).toNat then b.vlane (x.val + k) (b.sreg r).toNat else 0) }
  | .vscan d x => some (lanewise b true d [x] fun l => if b.ty.isInt then fitted b (runInt b x l) else runFloat b x l)
  | _ => none

/-- The tree of R175: node k of a level, from the leaves. -/
def node {α : Type} (op : α → α → α) (leaf : Nat → α) : Nat → Nat → α
  | 0, k => leaf k
  | n + 1, k => op (node op leaf n (2 * k)) (node op leaf n (2 * k + 1))

/-- The root over lanes 0 to 127, with the identity for lanes that are not enabled. -/
def root {α : Type} (b : Band) (op : α → α → α) (one : α) (rd : Nat → α) : α :=
  node op (fun l => if l < 96 && b.enabled.getLsbD l then rd l else one) 7 0

/-- A scalar result of the type in MR (R175). -/
def scalarWr (t : Ty) (d code : Nat) : List (Nat × Word) :=
  if t.is64 then [(d, BitVec.ofNat 32 code), (d + 1, BitVec.ofNat 32 (code / 2 ^ 32))] else [(d, wrWord t code)]

def reducing (b : Band) (d : SReg) (x : VReg) (code : Nat) : Effect :=
  { legal := b.elem? b.ty x && (!b.ty.is64 || d.val % 2 = 0), scalars := scalarWr b.ty d code, vectors := [], lanes := 0 }

/-- The identity of a float extreme, with its code. -/
def extremeOne (max : Bool) (t : Fmt) : Nat × FVal :=
  (fun v : FVal => (fround v t .rne false, v)) (if t.sv = 1 then .inf max else if !max then maxFin t
    else if t.s then (maxFin t).neg else .zero false)

/-- vfmin or vfmax of two codes with their values. -/
def extremeOp (max : Bool) (a c : Nat × FVal) : Nat × FVal :=
  if a.2.isNan then c else if c.2.isNan then a else if (if max then below a.2 c.2 else below c.2 a.2) then c else a

/-- The minimum or maximum of the enabled lanes, as a code. -/
def extremeOf (max : Bool) (b : Band) (x : VReg) : Nat :=
  let t := b.ty
  if t.isInt then
    let op (a c : Int) : Int := if max then Max.max a c else Min.min a c
    (root b op (if max then minOf t.signed t.width else maxOf t.signed t.width) (int b x) % 2 ^ t.width).toNat
  else
    let r := root b (extremeOp max) (extremeOne max t.fmt) fun l => (bits b x l, val b x l)
    kept t.fmt r.1 r.2

/-- The result of a reduction (R175). -/
def vred (b : Band) : Instr → Option Effect
  | .vredadd d x => some (reducing b d x (
      if b.ty.isInt then fitted b (root b (· + ·) 0 (int b x))
      else (root b (fun a c => (fun k : Nat => (k, fdecode k b.ty.fmt)) (summed b [a.2, c.2])) (0, .zero true)
        fun l => (bits b x l, val b x l)).1))
  | .vredmin d x => some (reducing b d x (extremeOf false b x))
  | .vredmax d x => some (reducing b d x (extremeOf true b x))
  | .vredand d x => some (reducing b d x (root b (· &&& ·) (2 ^ b.ty.width - 1) (bits b x)))
  | .vredor d x => some (reducing b d x (root b (· ||| ·) 0 (bits b x)))
  | .vredxor d x => some (reducing b d x (root b (· ^^^ ·) 0 (bits b x)))
  | _ => none

/-- Lane l of the enabled lanes holds a value that no other beats, and no lower lane holds as good a one (R176). -/
def wins (max : Bool) (b : Band) (x : VReg) (l : Nat) : Bool :=
  let better (i j : Nat) : Bool :=
    if b.ty.isInt then (if max then int b x i > int b x j else int b x i < int b x j)
    else (if max then below (val b x j) (val b x i) else below (val b x i) (val b x j))
  let field := (laneList b.enabled).filter fun k => b.ty.isInt || !(val b x k).isNan
  field.contains l && field.all fun k => !better k l && (k ≥ l || better l k)

/-- The index that goes with a minimum or maximum, and the value (R176). -/
def winner (max : Bool) (b : Band) (x : VReg) : Nat × Word :=
  match laneList b.enabled with
  | [] => (extremeOf max b x, 0xFFFFFFFF)
  | low :: _ => match (List.range 96).find? (wins max b x) with
    | some l => (extremeOf max b x, BitVec.ofNat 32 l)
    | none => (b.ty.fmt.nanCode, BitVec.ofNat 32 low)

def indexing (max : Bool) (b : Band) (d : SReg) (x : VReg) (r : SReg) : Effect :=
  { legal := b.elem? b.ty x && (!b.ty.is64 || d.val % 2 = 0) && r.val ≠ d.val && !(b.ty.is64 && r.val = d.val + 1)
    scalars := scalarWr b.ty d (winner max b x).1 ++ [(r.val, (winner max b x).2)], vectors := [], lanes := 0 }

def vredx (b : Band) : Instr → Option Effect
  | .vredminx d x r => some (indexing false b d x r)
  | .vredmaxx d x r => some (indexing true b d x r)
  | _ => none

/-! ### Predicates (R21, R150, R178) -/

/-- The three words of predicate k with bit l as given. -/
def predicate (k : PReg) (c : Nat → Bool) : List (Nat × Word) :=
  let m : Lanes := BitVec.ofBoolListLE ((List.range 96).map c)
  [(36 + 3 * k.val, m.extractLsb' 0 32), (37 + 3 * k.val, m.extractLsb' 32 32), (38 + 3 * k.val, m.extractLsb' 64 32)]

/-- The new bit of a combination. -/
def combined (m : Comb) (old new : Bool) : Bool :=
  match m with
  | .set => new | .and => old && new | .or => old || new | .xor => xor old new

def ordered {α : Type} [LT α] [DecidableLT α] [DecidableEq α] (c : CC) (x y : α) : Bool :=
  match c with
  | .eq => x = y | .ne => x ≠ y | .lt => x < y | .le => x < y || x = y | .gt => y < x | .ge => y < x || x = y | .un => false

/-- A compare of two values: −0 = +0, and with a NaN only ne and un hold. -/
def floatOrdered (c : CC) (x y : FVal) : Bool :=
  if x.isNan || y.isNan then c = .ne || c = .un
  else match c with
    | .eq => FVal.cmp x y = .eq | .ne => FVal.cmp x y ≠ .eq | .lt => FVal.cmp x y = .lt | .le => FVal.cmp x y ≠ .gt
    | .gt => FVal.cmp x y = .gt | .ge => FVal.cmp x y ≠ .lt | .un => false

def comparing (b : Band) (ok : Bool) (p : PReg) (m : Comb) (x y : VReg) (c : Nat → Bool) : Effect :=
  { legal := ok && b.elem? b.ty x && b.elem? b.ty y, vectors := [], lanes := 0
    scalars := predicate p fun l =>
      if b.enabled.getLsbD l then combined m ((b.pred p).getLsbD l) (c l) else (b.pred p).getLsbD l }

/-- The result of a compare (R178). -/
def vcmp (b : Band) : Instr → Option Effect
  | .vcmp c p m x y => some (comparing b b.ty.isInt p m x y fun l =>
      ordered c (signedCode b.ty.width (bits b x l)) (signedCode b.ty.width (bits b y l)))
  | .vcmpn c p m x y => some (comparing b b.ty.isInt p m x y fun l => ordered c (bits b x l) (bits b y l))
  | .vfcmp c p m x y => some (comparing b b.ty.isFloat p m x y fun l => floatOrdered c (val b x l) (val b y l))
  | .vfcmpn c p m x y => some (comparing b b.ty.isFloat p m x y fun l => !floatOrdered c (val b x l) (val b y l))
  | _ => none

/-- Votes and identifiers (R150, R151), and the register forms of SYS that read the band (R137, R140, R141) and of LNCH
(R269). -/
def query (s : State) (b : Band) : Instr → Option Effect
  | .nop => some (ofScalars [])
  | .voteAny d p => some (ofScalars [(d, truth (∃ l ∈ laneList b.enabled, (b.pred p).getLsbD l = true))])
  | .voteAll d p => some (ofScalars [(d, truth (∀ l ∈ laneList b.enabled, (b.pred p).getLsbD l = true))])
  | .voteCnt d p => some (ofScalars [(d, BitVec.ofNat 32 ((laneList b.enabled).filter fun l => (b.pred p).getLsbD l).length)])
  | .voteBal q p => some (ofScalars (predicate q fun l => b.enabled.getLsbD l && (b.pred p).getLsbD l))
  | .lid v => some { legal := b.vregs? v 1, scalars := [], lanes := b.enabled, vectors := [(v, fun l => BitVec.ofNat 32 l)] }
  | .tid v => some { legal := b.vregs? v 1, scalars := [], lanes := b.enabled, vectors := [(v, fun l => b.tids.getD l 0)] }
  | .bid d => some (ofScalars [(d, b.bid)])
  | .fmtget d f => some (ofScalars [(d, b.fmtReg f)])
  | .caps d n => some (ofScalars [(d, truth (((s.part b.part).caps.getD (n.toNat / 32) 0).getLsbD (n.toNat % 32) = true))])
  | .dsp d l => some (ofScalars [(d, if b.level < l.val then 0 else BitVec.ofNat 32 (b.disp1 l).toNat),
      (d.val + 1, if b.level < l.val then 0 else BitVec.ofNat 32 ((b.disp1 l).toNat / 2 ^ 32))])
  | _ => none

/-! ### Special functions (R166, R167) -/

/-- The function of a VSF form, of the old destination n and the operand x, correctly rounded: its code in the type of MR. -/
def specialCode (b : Band) (n x : FVal) : Instr → Option Nat
  | .vrcp _ _ _ => some (rounded b (SpecialFn.rcp x))
  | .vrsq _ _ _ => some (rounded b (SpecialFn.rsq x))
  | .vsqrt _ _ _ => some (rounded b (SpecialFn.sqrt x))
  | .vdiv _ _ _ => some (rounded b (SpecialFn.div n x))
  | .vexp2 _ _ _ => some (SpecialFn.exp2 x b.ty.fmt (mr.rounding b.mr) (mr.sub b.mr))
  | .vlog2 _ _ _ => some (SpecialFn.log2 x b.ty.fmt (mr.rounding b.mr) (mr.sub b.mr))
  | .vsin _ _ _ => some (SpecialFn.sin x b.ty.fmt (mr.rounding b.mr) (mr.sub b.mr))
  | .vcos _ _ _ => some (SpecialFn.cos x b.ty.fmt (mr.rounding b.mr) (mr.sub b.mr))
  | .vtanh _ _ _ => some (SpecialFn.tanh x b.ty.fmt (mr.rounding b.mr) (mr.sub b.mr))
  | _ => none

/-- The window of a VSF form, and its effect. -/
def vsf (b : Band) (i : Instr) : Option (LA × Effect) :=
  match i with
  | .vrcp la d x | .vrsq la d x | .vsqrt la d x | .vdiv la d x | .vexp2 la d x | .vlog2 la d x | .vsin la d x
  | .vcos la d x | .vtanh la d x =>
    some (la, lanewise b (b.ty.et = .f16 || b.ty.et = .bf16 || b.ty.et = .f32 || b.ty.et = .f64) d [x] fun l =>
      (specialCode b (val b d l) (val b x l) i).getD 0)
  | _ => none

/-- One, with its sign. -/
def one (neg : Bool) : FVal := .fin neg 1 0

/-- The special results of R167, of the dividend n and the operand x; none where the function itself gives the result. -/
def specialValue (n x : FVal) : Instr → Option FVal
  | .vrcp _ _ _ => match x with
    | .nan => some .nan | .zero s => some (.inf s) | .inf s => some (.zero s) | .fin _ _ _ => none
  | .vrsq _ _ _ => match x with
    | .nan | .inf true | .fin true _ _ => some .nan
    | .zero s => some (.inf s) | .inf false => some (.zero false) | .fin false _ _ => none
  | .vsqrt _ _ _ => match x with
    | .nan | .inf true | .fin true _ _ => some .nan
    | .zero s => some (.zero s) | .inf false => some (.inf false) | .fin false _ _ => none
  | .vexp2 _ _ _ => match x with
    | .nan => some .nan | .zero _ => some (one false) | .inf false => some (.inf false) | .inf true => some (.zero false)
    | .fin _ _ _ => none
  | .vlog2 _ _ _ => match x with
    | .nan | .inf true | .fin true _ _ => some .nan
    | .zero _ => some (.inf true) | .inf false => some (.inf false)
    | .fin false m e => if e ≤ 0 ∧ m = 2 ^ (-e).toNat then some (.zero false) else none
  | .vsin _ _ _ => match x with
    | .nan | .inf _ => some .nan | .zero s => some (.zero s) | .fin _ _ _ => none
  | .vcos _ _ _ => match x with
    | .nan | .inf _ => some .nan | .zero _ => some (one false) | .fin _ _ _ => none
  | .vtanh _ _ _ => match x with
    | .nan => some .nan | .zero s => some (.zero s) | .inf s => some (one s) | .fin _ _ _ => none
  | .vdiv _ _ _ => match n, x with
    | .nan, _ | _, .nan | .zero _, .zero _ | .inf _, .inf _ => some .nan
    | .inf s, .zero r | .fin s _ _, .zero r | .inf s, .fin r _ _ => some (.inf (s != r))
    | .zero s, .inf r | .fin s _ _, .inf r | .zero s, .fin r _ _ => some (.zero (s != r))
    | .fin _ _ _, .fin _ _ _ => none
  | _ => none

/-! ### Loads (R179 to R190) -/

/-- The byte offset of a memory operand with a field of n-byte units, or the one that a LIMM widens (R94, R179). -/
def offset {k : Nat} (b : Band) (i : BitVec k) (n : Nat) : Int :=
  match b.path.limm with
  | none => (i.toNat * n : Nat)
  | some _ => (wide b i).toInt

/-- The address that a pair of scalar registers holds, if bits [31:16] of its high word are zero (R22). -/
def address (b : Band) (a : Nat) : Option Nat :=
  if (b.sreg (a + 1)).toNat < 2 ^ 16 then some ((b.sreg a).toNat + 2 ^ 32 * (b.sreg (a + 1)).toNat) else none

/-- A per-lane access: its size, the registers that hold the values, the pair and the offset of its base, each lane's own
offset, and the scope of an acquire. -/
structure LaneAccess where
  la     : LA
  size   : Nat
  reg    : Nat
  regs   : Nat
  pair   : SReg
  off    : Int
  own    : Nat → Nat
  value  : List Byte → Nat → Word
  scope  : Option Scope

/-- The effective address of a lane, modulo 2^48. -/
def LaneAccess.ea (x : LaneAccess) (base l : Nat) : Nat := (((base : Int) + x.off + x.own l) % 2 ^ 48).toNat

/-- A value that fills with zeros, one that copies its highest bit, and word j of a longer one. -/
def zeroFill (bs : List Byte) (_ : Nat) : Word := BitVec.ofNat 32 (leNat bs)
def signFill (bs : List Byte) (_ : Nat) : Word := BitVec.ofInt 32 (signedCode (8 * bs.length) (leNat bs))
def wordAt (bs : List Byte) (j : Nat) : Word := BitVec.ofNat 32 (leNat ((bs.drop (4 * j)).take 4))

/-- The per-lane loads: of each lane at EA + l × n (R185), at its own offset (R187), with an acquire (R189). -/
def laneLoad (b : Band) : Instr → Option LaneAccess
  | .ldb la v a i => some ⟨la, 1, v, 1, a, offset b i 1, fun l => l, zeroFill, none⟩
  | .ldbs la v a i => some ⟨la, 1, v, 1, a, offset b i 1, fun l => l, signFill, none⟩
  | .ldh la v a i => some ⟨la, 2, v, 1, a, offset b i 2, fun l => 2 * l, zeroFill, none⟩
  | .ldhs la v a i => some ⟨la, 2, v, 1, a, offset b i 2, fun l => 2 * l, signFill, none⟩
  | .ldw la v a i => some ⟨la, 4, v, 1, a, offset b i 4, fun l => 4 * l, wordAt, none⟩
  | .ldd la v a i => some ⟨la, 8, v, 2, a, offset b i 8, fun l => 8 * l, wordAt, none⟩
  | .ldq la v a i => some ⟨la, 16, v, 4, a, offset b i 16, fun l => 16 * l, wordAt, none⟩
  | .ldx la v a i => some ⟨la, 4, v, 1, a, offset b i 4, fun l => (b.vlane v l).toNat, wordAt, none⟩
  | .ldwAcq la v a c => some ⟨la, 4, v, 1, a, 0, fun l => 4 * l, wordAt, some c⟩
  | .lddAcq la v a c => some ⟨la, 8, v, 2, a, 0, fun l => 8 * l, wordAt, some c⟩
  | _ => none

/-- The machine after the acquire of a form, if it has one: copies that its core holds are given up, but for a form whose
addresses all lie in a scratchpad (R309). -/
def acquired (s : State) (c : Option Scope) (addrs : List Nat) : State :=
  match c with
  | some c => if ∀ a ∈ addrs, isSpad a = true then s else acquire s s.myCore c
  | none => s

/-- The bytes that a lane reads: those of the place where its address leads. -/
def laneBytes (s : State) (u : Issuer) (a n : Nat) : List Byte :=
  match access s u a (.read n) false with
  | .ok p => readAt s u p.1 p.2 n
  | .error _ => []

/-- The places that the lanes of a mask reach. -/
def lanePlaces (s : State) (u : Issuer) (m : Lanes) (k : Want) (ea : Nat → Nat) : List (Loc × Nat) :=
  (laneList m).filterMap fun l => match access s u (ea l) k false with
    | .ok p => some p
    | .error _ => none

/-- No enabled lane's access fails. -/
def lanesReach (s : State) (u : Issuer) (m : Lanes) (k : Want) (atomic : Bool) (ea : Nat → Nat) : Prop :=
  ∀ l ∈ laneList m, ∃ p, access s u (ea l) k atomic = .ok p

/-- What a per-lane load writes. -/
def loaded (s : State) (b : Band) (x : LaneAccess) (base : Nat) : Effect :=
  { legal := b.vregs? x.reg x.regs, scalars := [], lanes := b.enabled
    vectors := (List.range x.regs).map fun j => (x.reg + j, fun l => x.value (laneBytes s (s.issuer 0) (x.ea base l) x.size) j) }

/-- The address of a lexical operand, after its checks (R190): its level, and its bound. -/
def lexicalAt (s : State) (b : Band) (e : Fin 8) (o : BitVec 14) : Option Nat :=
  if e.val > b.level then none
  else match frameSize s e.val with
    | .error _ => none
    | .ok size => if 4 * o.toNat + 4 > size then none else some (((b.disp1 e.val).toNat + 4 * o.toNat) % 2 ^ 48)

/-- The uniform loads (R188 to R190): window, destination, address, scope, and whether the frame cache serves it (R345). -/
def uniformLoad (s : State) (b : Band) : Instr → Option (LA × SReg × Option Nat × Option Scope × Bool)
  | .lds la d a i => some (la, d, (address b a).map fun x => (((x : Int) + offset b i 4) % 2 ^ 48).toNat, none, false)
  | .ldsAcq la d a c => some (la, d, (address b a).map (· % 2 ^ 48), some c, false)
  | .fld la e d o => some (la, d, lexicalAt s b e o, none, true)
  | _ => none

/-! ### Stores (R186 to R190) -/

/-- The per-lane stores; `value` is not used. -/
def laneStore (b : Band) : Instr → Option LaneAccess
  | .stb _ v a i => some ⟨0, 1, v, 1, a, offset b i 1, fun l => l, wordAt, none⟩
  | .sth _ v a i => some ⟨0, 2, v, 1, a, offset b i 2, fun l => 2 * l, wordAt, none⟩
  | .stw _ v a i => some ⟨0, 4, v, 1, a, offset b i 4, fun l => 4 * l, wordAt, none⟩
  | .std _ v a i => some ⟨0, 8, v, 2, a, offset b i 8, fun l => 8 * l, wordAt, none⟩
  | .stq _ v a i => some ⟨0, 16, v, 4, a, offset b i 16, fun l => 16 * l, wordAt, none⟩
  | .stx v a i => some ⟨0, 4, v, 2, a, offset b i 4, fun l => (b.vlane (v.val + 1) l).toNat, wordAt, none⟩
  | _ => none

/-- Byte k of the value that a lane stores: registers in order, each from its low byte on. -/
def storedByte (b : Band) (v l k : Nat) : Byte := (b.vlane (v + k / 4) l).extractLsb' (8 * (k % 4)) 8

/-- The stores of the enabled lanes, ascending. -/
def laneWrites (s : State) (b : Band) (x : LaneAccess) (base : Nat) : Writes :=
  (laneList b.enabled).filterMap fun l =>
    match access s (s.issuer 0) (x.ea base l) (.write x.size) false with
    | .ok p => some (p.1, (List.range x.size).map (storedByte b x.reg l))
    | .error _ => none

/-- The uniform stores: the address and the value. -/
def uniformStore (s : State) (b : Band) : Instr → Option (Option Nat × Word)
  | .sts _ v a i => some ((address b a).map fun x => (((x : Int) + offset b i 4) % 2 ^ 48).toNat, b.sreg v)
  | .fst _ e v o => some (lexicalAt s b e o, b.sreg v)
  | _ => none

/-- The four bytes of a word. -/
def wordBytes4 (w : Word) : List Byte := (List.range 4).map fun k => w.extractLsb' (8 * k) 8

/-! ### Streams (R191 to R194) -/

/-- The register words of a stream's element, from its bytes. -/
def elementWords (r : StreamRec) : List Byte → Nat → Word :=
  if r.esz = 3 then wordAt else if r.sx then signFill else zeroFill

/-- The place of element e of a stream, or why it has none. -/
def elementAt (s : State) (u : Issuer) (r : StreamRec) (e : Nat) (k : Want) : Except FaultAt (Loc × Nat) :=
  match elemAddr s u r e with
  | .error f => .error f
  | .ok a => access s u a k false

/-- What the enabled lanes' elements in range meet. -/
def elementsReach (s : State) (b : Band) (r : Stream) (k : Want) : Prop :=
  ∀ l ∈ laneList b.enabled, r.rcd.inRange (r.pos + l) = true → ∃ p, elementAt s (s.issuer 3) r.rcd (r.pos + l) k = .ok p

/-- The bytes of a lane's element: zeros where it is out of range. -/
def elementBytes (s : State) (r : Stream) (l : Nat) : List Byte :=
  if r.rcd.inRange (r.pos + l) then
    match elementAt s (s.issuer 3) r.rcd (r.pos + l) (.read (2 ^ r.rcd.esz)) with
    | .ok p => readAt s (s.issuer 3) p.1 p.2 (2 ^ r.rcd.esz)
    | .error _ => []
  else List.replicate (2 ^ r.rcd.esz) 0

/-- The places that a stream load reads: those of its index array, where it has an indirect level, and those of the elements. -/
def elementPlaces (s : State) (b : Band) (r : Stream) : List (Loc × Nat) :=
  let ok (x : Except FaultAt (Loc × Nat)) : Option (Loc × Nat) := match x with | .ok p => some p | .error _ => none
  let here := (laneList b.enabled).filter fun l => r.rcd.inRange (r.pos + l)
  (if r.rcd.ind then here.filterMap fun l => ok (indexPlace s (s.issuer 3) r.rcd (r.pos + l)) else [])
    ++ here.filterMap fun l => ok (elementAt s (s.issuer 3) r.rcd (r.pos + l) (.read (2 ^ r.rcd.esz)))

/-- The stores of a stream store. -/
def elementWrites (s : State) (b : Band) (r : Stream) (v : VReg) : Writes :=
  (laneList b.enabled).filterMap fun l =>
    if r.rcd.inRange (r.pos + l) then
      match elementAt s (s.issuer 3) r.rcd (r.pos + l) (.write (2 ^ r.rcd.esz)) with
      | .ok p => some (p.1, (List.range (2 ^ r.rcd.esz)).map (storedByte b v l))
      | .error _ => none
    else none

/-- The band with stream k walked on: 96 further, at most to the end. -/
def walked (b : Band) (k : Fin 4) (r : Stream) : Band :=
  { b with streams := b.streams.put k { r with pos := min (r.pos + 96) r.rcd.total } }

/-! ### Atomics (R216 to R218) -/

/-- An atomic: its operation, whether it returns the old words, the release that it is. -/
structure AtomicForm where
  op   : AtomicOp
  ret  : Bool
  la   : LA
  v    : VReg
  pair : SReg
  off  : BitVec 5

def atomic : Instr → Option AtomicForm
  | .aadd la v a o => some ⟨.add, true, la, v, a, o⟩
  | .amin la v a o => some ⟨.min, true, la, v, a, o⟩
  | .amax la v a o => some ⟨.max, true, la, v, a, o⟩
  | .aminn la v a o => some ⟨.minn, true, la, v, a, o⟩
  | .amaxn la v a o => some ⟨.maxn, true, la, v, a, o⟩
  | .aand la v a o => some ⟨.and, true, la, v, a, o⟩
  | .aor la v a o => some ⟨.or, true, la, v, a, o⟩
  | .axor la v a o => some ⟨.xor, true, la, v, a, o⟩
  | .axchg la v a o => some ⟨.xchg, true, la, v, a, o⟩
  | .acas la v a o => some ⟨.cas, true, la, v, a, o⟩
  | .ainc la v a o => some ⟨.inc, true, la, v, a, o⟩
  | .afadd la v a o => some ⟨.fadd, true, la, v, a, o⟩
  | .aaddNr _ v a o => some ⟨.add, false, 0, v, a, o⟩
  | .aminNr _ v a o => some ⟨.min, false, 0, v, a, o⟩
  | .amaxNr _ v a o => some ⟨.max, false, 0, v, a, o⟩
  | .aminnNr _ v a o => some ⟨.minn, false, 0, v, a, o⟩
  | .amaxnNr _ v a o => some ⟨.maxn, false, 0, v, a, o⟩
  | .aandNr _ v a o => some ⟨.and, false, 0, v, a, o⟩
  | .aorNr _ v a o => some ⟨.or, false, 0, v, a, o⟩
  | .axorNr _ v a o => some ⟨.xor, false, 0, v, a, o⟩
  | .axchgNr _ v a o => some ⟨.xchg, false, 0, v, a, o⟩
  | .acasNr _ v a o => some ⟨.cas, false, 0, v, a, o⟩
  | .aincNr _ v a o => some ⟨.inc, false, 0, v, a, o⟩
  | .afaddNr _ v a o => some ⟨.fadd, false, 0, v, a, o⟩
  | _ => none

/-- The registers that it names. -/
def AtomicForm.regs (x : AtomicForm) : Nat := if x.op = .cas then 3 else 2

/-- A lane's address: EA plus its own offset (R216). -/
def AtomicForm.ea (x : AtomicForm) (b : Band) (base l : Nat) : Nat :=
  (((base : Int) + offset b x.off 4 + (b.vlane (x.v.val + 1) l).toNat) % 2 ^ 48).toNat

/-- The operation that a lane asks for: its word, the operand, and for acas the new value, with the kind of its page (R308). -/
def AtomicForm.laneOp (x : AtomicForm) (b : Band) (l : Nat) (p : Loc × Nat) : LaneOp :=
  { lane := l, pa := paOf p.1, x := b.vlane x.v l, y := if x.op = .cas then b.vlane (x.v.val + 2) l else 0, ord := p.2 }

/-- The line requests that are under way: in the FIFOs of the engines, and on their way to other devices. -/
def requestUnderWay (s : State) (r : LineReq) : Prop :=
  (∃ cl p, r ∈ fifo s cl p ∧ r.dev = none) ∨ (∃ o ∈ s.remotes, o.req = some r)

/-- What each operation makes of the old word m and the operand x (R217); those on counters have no word. -/
def newWord (op : AtomicOp) (m x y : Word) : Word :=
  match op with
  | .add => BitVec.ofNat 32 (m.toNat + x.toNat)
  | .min => if x.toInt < m.toInt then x else m
  | .max => if x.toInt > m.toInt then x else m
  | .minn => if x.toNat < m.toNat then x else m
  | .maxn => if x.toNat > m.toNat then x else m
  | .and => m &&& x
  | .or => m ||| x
  | .xor => m ^^^ x
  | .xchg => x
  | .cas => if m = x then y else m
  | .inc => if m.toNat ≥ x.toNat then 0 else BitVec.ofNat 32 (m.toNat + 1)
  | .fadd => BitVec.ofNat 32 (fsum [fdecode m.toNat Fmt.binary32, fdecode x.toNat Fmt.binary32] Fmt.binary32 .rne false)
  | .count | .read => m

/-- The line of a place as a request names it: the home device, none for this one, and the line's address. -/
def homeLine : Loc → Option (Option Nat × Nat)
  | .spad _ => none
  | .mem a => some (none, a / 128 * 128)
  | .remote d a => some (some d, a / 128 * 128)

/-- One lane of a request on memory whose first byte has an address: on a word, or on a 64-bit counter (R198). -/
def performLaneAt (base : Nat) (op : AtomicOp) (m : Memory) (o : LaneOp) : Memory :=
  let a := base + o.pa
  match op with
  | .read => m
  | .count => m.setBytes a (leBytes 8 ((m.num a 8 + (o.x.toNat + 2 ^ 32 * o.y.toNat)) % 2 ^ 64))
  | _ => m.setBytes a (wordBytes4 (newWord op (BitVec.ofNat 32 (m.num a 4)) o.x o.y))

def performLane (op : AtomicOp) (m : Memory) (o : LaneOp) : Memory := performLaneAt 0 op m o

/-- The lanes of requests, one after another, on memory. -/
def performAll (rs : List LineReq) (m : Memory) : Memory := rs.foldl (fun m r => r.lanes.foldl (performLane r.op) m) m

/-- Bands keep everything but their energy and the values that come back to them. -/
def keepsBands (s t : State) : Prop :=
  ∀ n, (t.bands.find? n).map (fun b => { b with energy := 0, results := [] })
    = (s.bands.find? n).map fun b => { b with energy := 0, results := [] }

/-! ### Faults of a form (R183, R403, R407, R409) -/

/-- Taking an exception (R142, R405, R407): the band b, on its program table, enters trap mode with the cause at a handler.
TCAUSE, TPC, TMR, TMASK and the fault record are written, MR is reset, pending write latches are cleared (R33), and trap entry
0 starts at the handler with the path's mask. Everything else is unchanged. -/
structure EntersTrap (s : State) (b b' : Band) (cause : Word) (pc tpc : Addr) (word : Word) : Prop where
  mode    : b'.inTrap = true ∧ b'.mr = 4 ∧ b'.tcur = 0
  saved   : b'.tcause = cause ∧ b'.tpc = tpc ∧ b'.tmr = b.mr ∧ b'.tmask = b.mask
  path    : b'.trp = [(0, { PathEntry.empty with
              v := true, pc := ((s.part b.part).handler).extractLsb' 2 46, mask := b.mask })]
  latches : ∀ p, (b'.latch p).write = none ∧ (b'.latch p).read = (b.latch p).read
  record  : (b'.frec.getD 0 0).toNat % 2 ^ 16 = cause.toNat % 2 ^ 16 ∧ b'.frec.getD 1 0 = b.lnch
              ∧ b'.frec.getD 2 0 = BitVec.ofNat 32 s.cur ∧ b'.frec.getD 3 0 = b.bid
              ∧ b'.frec.getD 4 0 = pc.extractLsb' 0 32 ∧ b'.frec.getD 5 0 = (pc.extractLsb' 32 16).setWidth 32
              ∧ b'.frec.getD 6 0 = tpc.extractLsb' 0 32 ∧ b'.frec.getD 7 0 = (tpc.extractLsb' 32 16).setWidth 32
              ∧ b'.frec.getD 8 0 = word
  rest    : { b' with inTrap := b.inTrap, mr := b.mr, tcur := b.tcur, tcause := b.tcause, tpc := b.tpc, tmr := b.tmr
                      tmask := b.tmask, trp := b.trp, latches := b.latches, frec := b.frec } = b

/-- The path at the address of its unit, a prefix with it (R36, R407). -/
def atUnit (b : Band) : Band := b.setPath { b.path with pc := b.unitPC.extractLsb' 2 46, limm := none, wait := none }

/-- A form whose uniform check fails takes the trap of a code, with nothing written; but for the copies that reading its record has
left in t, nothing else changes in the machine: the operand log holds it for replay, and TPC is the next word. -/
def FaultsAfter (s t : State) (b : Band) (i : Instr) (code : Nat) : Prop :=
  ∃ b' j e, exec i s = .next ({ t with nextId := t.nextId + 1 }.setBand b')
    ∧ b.olog.free? 4 = some j ∧ e.code = code ∧ e.wait = false ∧ e.path = b.pcur
    ∧ e.cap.word = wordOf i ∧ e.cap.pc = b.unitPC ∧ e.cap.mr = b.mr
    ∧ EntersTrap s { b.advance with olog := b.olog.put j e } b' (BitVec.ofNat 32 code) b.unitPC b.advance.pc (wordOf i)

def Faults (s : State) (b : Band) (i : Instr) (code : Nat) : Prop := FaultsAfter s s b i code

/-- What a per-lane form leaves of its band when lanes fail, ascending in `bad`, the lowest with the fault f (R183, R405, R407): the
operand log holds the form for the lanes that failed, and the band is in trap mode with the fault's code as its cause and the next word
as TPC; the record names the lowest lane and the lanes that failed. -/
structure LaneTrap (b b' : Band) (i : Instr) (bad : List Nat) (f : FaultAt) : Prop where
  mode   : b'.inTrap = true ∧ b'.tcause = BitVec.ofNat 32 f.code ∧ b'.tpc = b.advance.pc
  record : b'.frec.getD 9 0 = BitVec.ofNat 32 (bad.headD 127) ∧ b'.frec.getD 10 0 = beat (maskOf bad) 0
             ∧ b'.frec.getD 11 0 = beat (maskOf bad) 1 ∧ b'.frec.getD 12 0 = beat (maskOf bad) 2
  log    : ∃ j e, b.olog.free? 4 = some j ∧ b'.olog.find? j = some e ∧ e.code = f.code ∧ e.wait = false ∧ e.cap.lanes = maskOf bad
             ∧ e.cap.word = wordOf i ∧ e.cap.pc = b.unitPC

/-- The enabled lanes whose access fails, ascending. -/
def failing (s : State) (u : Issuer) (m : Lanes) (k : Want) (ea : Nat → Nat) : List Nat :=
  (laneList m).filter fun l => match access s u (ea l) k false with
    | .ok _ => false
    | .error _ => true

/-- A band that can take a trap and log a form: outside trap mode, with a handler and a free log entry. -/
def canFault (s : State) (b : Band) : Prop := b.inTrap = false ∧ (s.part b.part).handler ≠ 0 ∧ (b.olog.free? 4).isSome = true

/-! ### Tiles and buffers (R204 to R215) -/

/-- The tile that a scalar names for a band: below 1024, in a slice of its owner. -/
def namesTile (s : State) (b : Band) (r : SReg) (t : Nat) : Prop :=
  t < 1024 ∧ (b.sreg r).toNat = t ∧ sliceOwner s s.myCore (t / 256) = b.part

/-- The state forms (R206): the tile's register, the state they need and the state they leave. -/
def tileStep : Instr → Option (SReg × Nat × Nat)
  | .tfill t => some (t, 0, 1)
  | .tcommit t => some (t, 1, 2)
  | .tdrain t => some (t, 2, 3)
  | .trel t => some (t, 3, 0)
  | _ => none

/-- What a state form may still wait for, or lack. -/
def tileReady (s : State) (t : Nat) (x : Tile) : Instr → Prop
  | .tfill _ => x.len ≠ 0
  | .tcommit _ => storesPending s t x = false
  | .trel _ => x.readers = 0
  | _ => True

/-- The buffer that a scalar names for a band. -/
def namesBuffer (s : State) (b : Band) (r : SReg) (n : Nat) (x : CircBuf) : Prop :=
  (b.sreg r).toNat = n ∧ n < 32 ∧ sliceOwner s s.myCore (n / 8) = b.part ∧ (s.core s.myCore).cbs.find? n = some x

/-- A buffer of the core put in its place. -/
def withBuffer (s : State) (n : Nat) (x : CircBuf) : State :=
  s.setCore s.myCore { s.core s.myCore with cbs := (s.core s.myCore).cbs.put n x }

/-- A tile of the core put in its place. -/
def withTileAt (s : State) (t : Nat) (x : Tile) : State :=
  s.setCore s.myCore { s.core s.myCore with tiles := (s.core s.myCore).tiles.setD t x Tile.undefined }

/-- A path that waits in a form, with nothing else changed (R291). -/
def Waits (s : State) (b : Band) (i : Instr) (k : WaitKind) : Prop :=
  ∃ w, exec i s = .next (s.setBand (b.setPath { b.path with wait := some w })) ∧ w.kind = k ∧ w.cap.word = wordOf i
    ∧ w.cap.lanes = b.enabled ∧ w.cap.mr = b.mr

/-! ### Line operations (R196 to R203) -/

/-- What a lane copy moves, once both its places are reached: every source is read before anything is written. -/
def partMove (s : State) (u : Issuer) (p : CopyPart) : Option (Loc × List Byte) :=
  match access s u p.dst (.write p.n) false, access s u p.src (.read p.n) false with
  | .ok d, .ok a => some (d.1, readAt s u a.1 a.2 p.n)
  | _, _ => none

/-- What an element of a cpt moves: nothing where it is out of range on its way to memory, zeros on its way to the tile. -/
def elementMove (s : State) (u : Issuer) (t : TilePart) (e : Nat) : Option Writes :=
  let n := 2 ^ t.rcd.esz
  let here := t.base + e * n
  if t.toTile then
    if t.rcd.inRange e then match elementAt s u t.rcd e (.read n) with
      | .ok p => some [(.spad here, readAt s u p.1 p.2 n)]
      | .error _ => none
    else some [(.spad here, List.replicate n 0)]
  else if t.rcd.inRange e then match elementAt s u t.rcd e (.write n) with
    | .ok p => if (spadPoisoned? s here n).isSome then none else some [(p.1, s.spad.bytes here n)]
    | .error _ => none
  else some []

/-- All that a line operation writes; none where one of its accesses fails. -/
def lineMoves (s : State) (o : CopyOp) : Option Writes :=
  match o.tile with
  | none => o.parts.mapM (partMove s o.u)
  | some t => (t.elems.mapM (elementMove s o.u t)).map List.flatten

/-- The event that performs line operation o at place n of the queue. -/
def lineEvent (o : CopyOp) (n : Nat) (i : Instr) : Prop :=
  (i = .copyLineOperation n ∧ o.tile = none) ∨ (i = .tileCopyLine n ∧ o.tile ≠ none)

/-- The addition of n to a counter at a place is on its way to the counter's engine, for an engine and not for a result (R336,
R351). -/
def additionUnderWay (t : State) (p : Loc × Nat) (n : Nat) : Prop :=
  ∃ r, requestUnderWay t r ∧ r.op = .count ∧ r.entry = none ∧ homeLine p.1 = some (r.dev, r.line)
    ∧ r.lanes = [{ lane := 127, pa := paOf p.1, x := BitVec.ofNat 32 n, y := BitVec.ofNat 32 (n / 2 ^ 32), ord := p.2 }]

/-- The plain writes that go to other devices. -/
def remoteWrites (s : State) : List (Nat × Nat × List Byte) :=
  (s.remotes.filter fun r => r.req.isNone).map fun r => (r.dev, r.pa, r.data)

/-- Memory after writes, with the count of their bytes for the counter at p. Where some bytes go to another device the count waits
for all of them (R336). -/
def writtenAndCounted (s t : State) (ws : Writes) (p : Loc × Nat) (n : Nat) : Prop :=
  (∀ a, t.mem.byte a = lastByte inMem ws a (s.mem.byte a))
  ∧ (∀ a, t.spad.byte a = lastByte inSpad ws a (s.spad.byte a)) ∧ t.rmem = s.rmem
  ∧ remoteWrites t = remoteWrites s ++ posted ws
  ∧ (posted ws = [] → additionUnderWay t p n)
  ∧ (posted ws ≠ [] → s.remotes.length < t.remotes.length ∧ ∃ k, ∀ r ∈ t.remotes.drop s.remotes.length, r.count = some (k, p, n))

/-- The youngest record of a partition's buffer carries a code and its details. -/
def reported (t : State) (part code : Nat) (d : List Word) : Prop :=
  ∃ r, (t.part part).waiting.getLast? = some r ∧ (r.rcd.getD 0 0).toNat % 2 ^ 16 = code ∧ (r.rcd.drop 16).take d.length = d

/-! ### System registers and modes (R29 to R34, R51, R52) -/

/-- A value that MR may take (R31). -/
def validMode (m : Word) : Prop :=
  (m.extractLsb' 0 4).toNat ≤ 10 ∧ (m.extractLsb' 4 3).toNat ≤ 5 ∧ m.getLsbD 7 = false ∧ m.extractLsb' 19 13 = 0
  ∧ (m.getLsbD 12 = false → m.getLsbD 11 = false ∧ m.extractLsb' 8 3 = 0)

/-- A valid format register value (R52), by its fields (R51). -/
def validFormat (f : Word) : Prop :=
  let s := (f.extractLsb' 0 1).toNat
  let e := (f.extractLsb' 1 3).toNat
  let m := (f.extractLsb' 4 3).toNat
  let sv := f.extractLsb' 15 2
  f.extractLsb' 18 14 = 0 ∧ 1 ≤ e + m ∧ s + e + m ≤ 8 ∧ sv ≠ 3 ∧ (sv = 1 → 2 ≤ e ∧ 1 ≤ m) ∧ (sv = 2 → 2 ≤ e + m)
  ∧ (f.getLsbD 17 = true → s = 1)

/-- The pair whose LO word has a number: which latches it has, and its value (R32). -/
def pairAt (s : State) (b : Band) (n : Nat) : Option (PairReg × Nat) :=
  if n = 0x010 then some (.energy, b.energy / 1024)
  else if n = 0x018 then some (.clock, (s.cluster s.myCluster).clk.toNat)
  else if n = 0x020 then some (.thb, b.thb)
  else if n = 0x022 then some (.thl, b.thl)
  else if n = 0x024 then some (.tho, b.tho)
  else if n = 0x040 then some (.rwpc, b.rwpc.toNat)
  else if n = 0x0C0 then some (.tpc, b.tpc.toNat)
  else none

/-- The registers that only trap mode may read (R32). -/
def privileged (n : Nat) : Prop := 0x060 ≤ n ∧ n ≤ 0x0C6

/-- The word that a number reads as, of those that are assigned (R32, R33). -/
def sysValue (s : State) (b : Band) (n : Nat) : Option Word :=
  match pairAt s b n, pairAt s b (n - 1) with
  | some (_, v), _ => some (BitVec.ofNat 32 v)
  | none, some (p, v) => some ((b.latch p).read.getD (BitVec.ofNat 32 (v / 2 ^ 32)))
  | none, none =>
    if n < 8 then some ((s.part b.part).caps.getD n 0)
    else if n = 0x030 then some b.lnch
    else if n = 0x031 then some (BitVec.ofNat 32 s.cur)
    else if n = 0x032 then some (BitVec.ofNat 32 b.level)
    else if 0x042 ≤ n ∧ n ≤ 0x045 then some (b.rwset.getD (n - 0x042) 0)
    else if n = 0x046 then some (BitVec.ofNat 32 (b.rwn + if b.boundary then 2 ^ 8 else 0))
    else if n = 0x050 then some (match (b.prog.getD b.pcur PathEntry.empty).rep with
      | none => 0
      | some r => BitVec.ofNat 32 (r.remaining % 64 + r.mask.toNat * 2 ^ 8 + 2 ^ 11))
    else if 0x060 ≤ n ∧ n ≤ 0x07F then some (b.frec.getD (n - 0x060) 0)
    else if 0x080 ≤ n ∧ n ≤ 0x0BF then some (match b.olog.find? ((n - 0x080) / 16) with
      | none => 0
      | some e =>
        let k := n % 16
        if k = 0 then BitVec.ofNat 32 (1 + (if e.wait then 2 else 0) + 4 * e.cap.vecs.length)
        else if k = 1 then e.cap.word
        else if k = 2 then e.cap.pc.extractLsb' 0 32
        else if k = 3 then (e.cap.pc.extractLsb' 32 16).setWidth 32
        else if k < 7 then beat e.cap.lanes (k - 4)
        else if k = 7 then e.cap.mr
        else e.cap.scalars.getD (k - 8) 0)
    else if n = 0x0C2 then some b.tmr
    else if n = 0x0C3 then some b.tcause
    else if 0x0C4 ≤ n ∧ n ≤ 0x0C6 then some (beat b.tmask (n - 0x0C4))
    else none

/-- The read latch that a read of a LO word fills (R33). -/
def readLatched (s : State) (b : Band) (n : Nat) : Band :=
  match pairAt s b n with
  | none => b
  | some (p, v) => b.setLatch p { b.latch p with read := some (BitVec.ofNat 32 (v / 2 ^ 32)) }

/-- What a commit may put into a pair (R33, R34, R138). -/
def committable (p : PairReg) (v : Nat) : Bool :=
  v < 2 ^ 48 && match p with
    | .thb | .thl | .tho => v % 2 ^ 21 = 0
    | .tpc => v % 4 = 0
    | .energy => true
    | .clock | .rwpc => false

/-- A pair with a value that has been committed. -/
def committed (b : Band) (p : PairReg) (v : Nat) : Band :=
  match p with
  | .energy => { b with energy := v * 1024 }
  | .thb => { b with thb := v }
  | .thl => { b with thl := v }
  | .tho => { b with tho := v }
  | .tpc => { b with tpc := BitVec.ofNat 48 v }
  | .clock | .rwpc => b

/-- The band after a write that its register takes, by its number (R32, R33, R138, R408). -/
def sysWritten (s : State) (b : Band) (n : Nat) (v : Word) : Option Band :=
  match pairAt s b n, pairAt s b (n - 1) with
  | some (p, _), _ => if p = .clock ∨ p = .rwpc then none else some (b.setLatch p { b.latch p with write := some v })
  | none, some (p, x) =>
    let lo : Word := (b.latch p).write.getD (BitVec.ofNat 32 x)
    let c := lo.toNat + 2 ^ 32 * v.toNat
    if committable p c then some ((committed b p c).setLatch p { b.latch p with write := none }) else none
  | none, none =>
    if 0x060 ≤ n ∧ n ≤ 0x07F then some { b with frec := b.frec.setD (n - 0x060) v 0 }
    else if 0x080 ≤ n ∧ n ≤ 0x0BF then some (b.setOlog (n - 0x080) v)
    else if n = 0x0C2 then if mr.valid v then some { b with tmr := v } else none
    else if n = 0x0C3 then some { b with tcause := v }
    else if 0x0C4 ≤ n ∧ n ≤ 0x0C6 then some { b with tmask := setBeat b.tmask (n - 0x0C4) v }
    else none

/-! ### Control (R81, R82, R129 to R131) -/

/-- The target of a direct form: its address and four times the signed offset, modulo 2^48. -/
def target (b : Band) (o : BitVec 18) : Addr := BitVec.ofInt 48 (b.pc.toNat + 4 * o.toInt)

/-- The next word's address, and the target of a register form. -/
def nextPC (b : Band) : Addr := b.pc + 4
def registerPC (b : Band) (w : Word) : Addr := b.pc.extractLsb' 32 16 ++ w

/-- A branch is done: its path, and nothing else but the registers of an effect, is at an address. -/
def Jumps (s : State) (b : Band) (i : Instr) (a : Addr) (link : Option Word) : Prop :=
  ∃ b', exec i s = .next (s.setBand b') ∧ Frame b b' (fun r => link.isSome ∧ r = 1) (fun _ => False) 0
    ∧ b'.path = { b.path with pc := a.extractLsb' 2 46, rep := none, limm := none, wait := none }
    ∧ ∀ w, link = some w → b'.sreg 1 = w

/-- The conditional branches: offset, and whether it is taken. -/
def branch (b : Band) : Instr → Option (BitVec 18 × Bool)
  | .br o => some (o, true)
  | .bz a o => some (o, b.sreg a = 0)
  | .bnz a o => some (o, b.sreg a ≠ 0)
  | .bneg a o => some (o, (b.sreg a).getLsbD 31)
  | .bnneg a o => some (o, !(b.sreg a).getLsbD 31)
  | _ => none

/-- The register branches: the register, and whether s1 takes the link. -/
def registerBranch : Instr → Option (Nat × Bool)
  | .jr a => some (a, false)
  | .jl a => some (a, true)
  | .ret => some (1, false)
  | _ => none

/-- A window goes along the new entry e too, when a pbr splits it from entry k, of which the pbr is a unit (R84). -/
def along (k e : Nat) (t : Tab Nat) : Tab Nat :=
  match t.find? k with
  | none => t
  | some n => t.put e (n - 1)

/-- Results and logged instructions after a pbr of a path in a mode. -/
def splitResults (trap : Bool) (k e : Nat) (rs : List ResultEntry) : List ResultEntry :=
  rs.map fun r => if r.inTrap = trap then { r with windows := along k e r.windows } else r
def splitLog (trap : Bool) (k e : Nat) (t : Tab LogEntry) : Tab LogEntry :=
  if trap then t else t.map fun (x : Nat × LogEntry) => (x.1, { x.2 with windows := along k e x.2.windows })

/-- A result and a logged instruction without its windows and its path. -/
def unplaced (r : ResultEntry) : ResultEntry := { r with windows := [], path := 0 }
def unplacedLog (x : Nat × LogEntry) : Nat × LogEntry := (x.1, { x.2 with windows := [], path := 0 })

/-! ### Gangs (R146 to R148) -/

/-- Check of R148: when all members have arrived, the phase flips and the arrivals start anew. -/
def settled (g : GangEntry) : GangEntry :=
  if 0 < g.arrivals ∧ g.count ≤ g.arrivals then { count := g.count, arrivals := 0, phase := !g.phase } else g

/-- The enabled lanes of a band that are in gang g. -/
def members (b : Band) (m : Lanes) (g : Nat) : List Nat := (laneList m).filter fun l => b.gang.find? l = some g

/-- The gang table of the core becomes another, given entry by entry, and nothing else changes. -/
structure GangsBecome (s t : State) (f : Nat → Option GangEntry) : Prop where
  gangs  : ∀ k, (t.core s.myCore).gangs.find? k = f k
  here   : { t.core s.myCore with gangs := [] } = { s.core s.myCore with gangs := [] }
  others : ∀ k, k ≠ s.myCore → t.core k = s.core k
  rest   : { t with cores := s.cores } = s

/-- A gang of the core. -/
def gangHere (s : State) (g : Nat) : Option GangEntry := (s.core s.myCore).gangs.find? g

/-- A gang once the enabled lanes of a band have left it (R147): without members it is no more. -/
def gangLeft (s : State) (b : Band) (g : Nat) : Option GangEntry :=
  let n := (members b b.enabled g).length
  if g < 64 ∧ n ≠ 0 then (gangHere s g).bind fun e => if e.count ≤ n then none else some (settled { e with count := e.count - n })
  else gangHere s g

/-- The threads of a band once the lanes m have left their gangs. -/
def outOfGangs (b : Band) (m : Lanes) (gs : Tab Nat) : Prop :=
  ∀ l, gs.find? l = if m.getLsbD l then none else b.gang.find? l

/-- The steps that end a wait of a path, with a form that waits so (R12, R291). A store, sst or cpt that waits for the readers of
a tile (R208) has the same step. -/
def wakeStep (n k : Nat) (i e : Instr) : Prop :=
  match i with
  | .cntw _ _ => e = .cntwWake n k
  | .cbwait _ _ _ => e = .cbwaitWake n k
  | .swacq _ _ => e = .swacqWake n k
  | .lwait _ _ => e = .lwaitWake n k
  | .tcommit _ => e = .tcommitWake n k
  | .trel _ => e = .trelWake n k
  | .tstAon _ _ => e = .tstAonOpenWake n k ∨ e = .tstAonCloseWake n k
  | .tldVer _ _ _ => e = .tldVerWake n k
  | .stb _ _ _ _ | .sth _ _ _ _ | .stw _ _ _ _ | .std _ _ _ _ | .stq _ _ _ _ | .stx _ _ _ | .sts _ _ _ _ | .fst _ _ _ _
  | .sst _ _ | .cpt _ _ _ => e = .tileStoreWake n k
  | .launch _ _ => e = .launchWaitWake n k
  | .qput _ _ => e = .qputWaitWake n k
  | .mfmt _ _ _ _ | .wld _ _ _ _ | .mloop _ _ _ _ | .mzero _ _ _ _ | .mld _ _ _ _ | .mst _ _ _ _ => e = .mtxPostWake n k
  | _ => False

/-- The kind of wait that a step ends. -/
def wakeKind : Instr → Option WaitKind
  | .cntwWake _ _ => some .cntw
  | .cbwaitWake _ _ => some .cbwait
  | .swacqWake _ _ => some .swacq
  | .lwaitWake _ _ => some .lwait
  | .tcommitWake _ _ => some .tcommit
  | .trelWake _ _ => some .trel
  | .tstAonOpenWake _ _ => some .tstOpen
  | .tstAonCloseWake _ _ => some .tstClose
  | .tldVerWake _ _ => some .tldVer
  | .tileStoreWake _ _ => some .tileStore
  | .launchWaitWake _ _ => some .launch
  | .qputWaitWake _ _ => some .qput
  | .mtxPostWake _ _ => some .mtxPost
  | _ => none

/-- A path of the band in a slot leaves its wait and goes on, and nothing else changes but which registers hold the masks of paths
that are not current. -/
def PathWakes (s : State) (n k : Nat) (b : Band) (i : Instr) : Prop :=
  ∃ c, exec i s = .next { s with bands := s.bands.put n c }
    ∧ (c.entry k).pc = (b.entry k).next.pc ∧ (c.entry k).wait = none
    ∧ (∀ j, j ≠ k → (c.entry j).pc = (b.entry j).pc ∧ (c.entry j).wait = (b.entry j).wait ∧ (c.entry j).v = (b.entry j).v)
    ∧ c.sregs = b.sregs ∧ c.vregs = b.vregs ∧ c.inTrap = b.inTrap ∧ c.results = b.results

/-- The current path of b, which runs in slot n and is not stopped for a pre-emption, waits in form i: the band is as the form has left it, but that since then launches
of it may have ended. Before the form, which moves a stream on (R194), its streams were x. -/
def waitsIn (s : State) (n : Nat) (b : Band) (i : Instr) (w : Wait) (x : Tab Stream) : Prop :=
  (s.slot n).state = 1 ∧ b.stopped = false ∧ b.path.v = true ∧ s.bands.find? n = some (b.setPath { b.path with wait := some w })
  ∧ s.bands.put n (b.setPath { b.path with wait := some w }) = s.bands
  ∧ ∃ (s0 t0 : State) (b0 : Band), s0.cur = n ∧ s0.holds b0
    ∧ { b0 with children := b.children, kills := b.kills, killsExtra := b.killsExtra, streams := b.streams } = b ∧ b0.streams = x
    ∧ exec i s0 = .next t0 ∧ t0.bands.find? n = some ({ b0 with streams := b.streams }.setPath { b0.path with wait := some w })

/-- The machine as that form would find it if it issued now. -/
def again (s : State) (n : Nat) (b : Band) (w : Wait) (x : Tab Stream) : State :=
  { s with cur := n, bands := s.bands.put n { b.setPath { b.path with wait := some w } with streams := x } }

/-- A path of the band that runs in a slot waits in a form of a kind. -/
def pathWaits (s : State) (n k : Nat) (b : Band) (w : Wait) (kind : WaitKind) : Prop :=
  s.bands.find? n = some b ∧ (s.slot n).state = 1 ∧ b.stopped = false ∧ (b.entry k).v = true ∧ (b.entry k).wait = some w ∧ w.kind = kind

/-- Who the band of slot n is for a form that waits: with the heap triple of its issue (R139), in an engine class. -/
def waitIssuer (n : Nat) (b : Band) (w : Wait) (cls : Nat) : Issuer :=
  { part := b.part, core := coreOf n, quad := quadOf n, thb := w.cap.thb, thl := w.cap.thl, tho := w.cap.tho, cls := cls, heap := true
    deadline := b.cls = 0 }

/-- The address that words j and j + 1 of a waiting form's operands hold, if bits [31:16] of the second are zero (R22). -/
def waitAddress (w : Wait) (j : Nat) : Option Nat :=
  if (w.cap.scalars.getD (j + 1) 0).toNat < 2 ^ 16 then
    some ((w.cap.scalars.getD j 0).toNat + 2 ^ 32 * (w.cap.scalars.getD (j + 1) 0).toNat)
  else none

/-- The machine in which a waiting form goes on: its path is the current one, with the heap triple of its issue. -/
def resumed (s : State) (n k : Nat) (b : Band) (w : Wait) : State :=
  { s with cur := n, bands := s.bands.put n { b.switchTo k with thb := w.cap.thb, thl := w.cap.thl, tho := w.cap.tho } }

/-- The step e ends the wait of path k of slot n's band b: the path goes on at the next word, or with its next repetition, and P holds
of the machine and the band then. -/
def WaitEnd (s : State) (n k : Nat) (b : Band) (e : Instr) (P : State → Band → Prop) : Prop :=
  ∃ t c, exec e s = .next t ∧ t.cur = s.cur ∧ t.bands.find? n = some c ∧ (c.entry k).wait = none
    ∧ (c.entry k).pc = (b.entry k).next.pc ∧ c.inTrap = b.inTrap ∧ P t c

/-- The store of a waiting form of the linear kind, or of a uniform one: its words as it captured them. -/
def linearStore (i : Instr) (m : Nat) (o : BitVec 6) : Prop :=
  ∃ r v a, (i = .stb r v a o ∧ m = 1) ∨ (i = .sth r v a o ∧ m = 2) ∨ (i = .stw r v a o ∧ m = 4) ∨ (i = .std r v a o ∧ m = 8)
    ∨ (i = .stq r v a o ∧ m = 16)

/-- What the lanes of a waiting linear store of m bytes write, from the address of lane 0 on (R184, R186). -/
def waitWrites (s : State) (u : Issuer) (w : Wait) (base m : Nat) : Writes :=
  (laneList w.cap.lanes).filterMap fun l => match access s u ((base + l * m) % 2 ^ 48) (.write m) false with
    | .ok p => some (p.1, (List.range m).map fun j => ((w.cap.vecs.getD (j / 4) []).getD l 0).extractLsb' (8 * (j % 4)) 8)
    | .error _ => none

/-- A register that keeps all it is written: none of s0 and the words of the activity mask. -/
def plainDest (r : Nat) : Prop := r ≠ 0 ∧ (r < 60 ∨ r = 63)

/-- The word of a waiting form names tile m of its partition, with the entry y. -/
def waitTile (s : State) (core part : Nat) (w : Word) (m : Nat) (y : Tile) : Prop :=
  m < 1024 ∧ w.toNat = m ∧ sliceOwner s core (m / 256) = part ∧ tileAt s core m = y

/-- The word of a waiting form names the circular buffer y of its partition. -/
def waitBuffer (s : State) (core part : Nat) (w : Word) (y : CircBuf) : Prop :=
  w.toNat < 32 ∧ sliceOwner s core (w.toNat / 8) = part ∧ (s.core core).cbs.find? w.toNat = some y

/-- The launch that a record names for a band (R261, R262). -/
def childLaunch (s : State) (b : Band) (w : Nat → Word) (entry cw : Nat) : Launch :=
  { freshLaunch b.part (.child s.me) s.myCluster with
    level := b.level + 1, cls := ((w 3).extractLsb' 16 2).toNat, entry := BitVec.ofNat 48 entry, n := (w 2).toNat
    rf := allocOf ((w 3).extractLsb' 12 2).toNat, cw := cw, work := (w 7).toNat, thb := b.thb, thl := b.thl, tho := b.tho }

/-! ### Matrix commands (R224 to R251) -/

/-- The words that post a command (R225): its fn3, its id, its predecessors, the first register of its record. -/
def posts : Instr → Option (Nat × Nat × List Nat × SReg)
  | .mfmt i p q r => some (0, i.val, [p.val, q.val], r)
  | .wld i p q r => some (1, i.val, [p.val, q.val], r)
  | .mloop i p q r => some (2, i.val, [p.val, q.val], r)
  | .mzero i p q r => some (3, i.val, [p.val, q.val], r)
  | .mld i p q r => some (4, i.val, [p.val, q.val], r)
  | .mst i p q r => some (5, i.val, [p.val, q.val], r)
  | _ => none

/-- The commands of a band in the queue of its quadrant. -/
def commands (s : State) (q : Nat) (b : Band) : List Cmd :=
  (s.quad q).queue.filter fun c => c.ref.lnch = b.lnch && c.ref.bid = b.bid

/-- The command of a band with an id that has not retired. -/
def named (s : State) (q : Nat) (b : Band) (id : Nat) : Option Cmd := (commands s q b).find? fun c => c.id = id

/-- The words that mquery writes (R247). -/
def queried (s : State) (q : Nat) (b : Band) (i : Nat) : Word × Word :=
  let word (st done fn : Nat) : Word :=
    BitVec.ofNat 32 (st + 2 ^ 8 * (if fn = 1 ∨ fn = 2 ∨ fn = 5 then done else 0) + 2 ^ 24 * fn)
  if i = 63 then (BitVec.ofNat 32 (commands s q b).length, BitVec.ofNat 32 b.mfaults.length)
  else match named s q b i, b.cmdEnds.find? i with
  | some c, _ => (word (if c.stage = .running then 2 else 1) c.done c.fn, 0)
  | none, some e => if e.failed then (word 3 e.done e.fn, BitVec.ofNat 32 e.code) else (word 0 e.done e.fn, 0)
  | none, none => (0, 0)

/-- A queue in which another command stands in the place of c. -/
def replaced (s : State) (q : Nat) (c c' : Cmd) : List Cmd := (s.quad q).queue.map fun x => if x.seq = c.seq then c' else x

/-- A command that passes its issue checks runs, and nothing else changes but the quadrant's queue. -/
def Starts (s : State) (q k : Nat) (c c' : Cmd) : Prop :=
  exec (.matrixCommandIssue q k) s = .next (s.setQuad q { s.quad q with queue := replaced s q c c' })

/-- Element (i, j) of accumulator tile a. -/
def element (s : State) (q a i j : Nat) : DWord := (s.quad q).acc.getD (1024 * a + 32 * i + j) 0

/-- A command has left its queue, and its band knows how it ended (R227, R247). -/
def retired (s t : State) (q : Nat) (c : Cmd) (done : Nat) : Prop :=
  (t.quad q).queue.map (·.seq) = ((s.quad q).queue.filter fun x => x.seq ≠ c.seq).map (·.seq)
  ∧ ∀ n b, s.bands.find? n = some b → b.lnch = c.ref.lnch → b.bid = c.ref.bid →
      ∃ b', t.bands.find? n = some b' ∧ b'.cmdEnds.find? c.id = some { fn := c.fn, done := done, failed := false, code := 0 }

/-- One more step of a command of n is done: it retires with the last. -/
def stepped (s t : State) (q : Nat) (c : Cmd) (n : Nat) : Prop :=
  if c.done + 1 = n then retired s t q c n
  else (t.quad q).queue.map (·.seq) = (s.quad q).queue.map (·.seq)
    ∧ ∀ x ∈ (t.quad q).queue, x.seq = c.seq → x.done = c.done + 1

/-- The oldest running command of a fn3, where there is one. -/
def runs (s : State) (q fn : Nat) (c : Cmd) : Prop :=
  List.find? (fun x : Cmd => x.stage = .running && x.fn = fn) (s.quad q).queue = some c

/-- The owner of an accumulator tile, if it has one, exists. -/
def ownerAlive (s : State) (q a : Nat) : Prop := ∀ e ∈ (s.quad q).accOwn, e.1 = a → ∀ r, e.2 = .band r → alive s r = true

/-- The launch of a band is killed with a code: no band of it is left, bound or saved (R256). -/
def dead (s t : State) (b : Band) (code : Nat) : Prop :=
  (∀ e ∈ t.bands, e.2.lnch ≠ b.lnch) ∧ (∀ e ∈ t.saved, e.2.lnch ≠ b.lnch)
  ∧ ∀ l, s.launches.find? b.lnch.toNat = some l → l.killed = none →
      ∃ l', t.launches.find? b.lnch.toNat = some l' ∧ l'.killed = some code

/-- What a form that waits has waited for is there, and nothing else stops the form (R12, R198, R206, R208 to R210, R214, R221, R224,
R226, R262, R268, R277). -/
def waitOver (s : State) (b : Band) (i : Instr) : Prop :=
  match i with
  | .cntw c g => ∃ a p, address b c = some a ∧ a % 8 = 0 ∧ isSpad a = false ∧ access s (s.issuer 5) a (.read 8) true = .ok p
      ∧ (b.sreg g).toNat + 2 ^ 32 * (b.sreg (g.val + 1)).toNat ≤ counterRead s (s.issuer 5) p.1
      ∧ ∀ line, homeLine p.1 = some (none, line) →
        engineTurn s (owningCluster line) (corePort s.myCore (owningCluster line)) line b.part = true
  | .cbwait r m o => ∃ k x, namesBuffer s b r k x ∧ 1 ≤ (b.sreg m).toNat ∧ (b.sreg m).toNat ≤ x.nslot
      ∧ ((b.sreg o = 0 ∧ (b.sreg m).toNat ≤ x.available) ∨ (b.sreg o = 1 ∧ (b.sreg m).toNat ≤ x.room))
  | .swacq h g => ∃ k v, windowOf s b.part (b.sreg h) (b.sreg (h.val + 1)) = some (k, v) ∧ (v.gen - b.sreg g).toNat < 2 ^ 31
  | .lwait _ h => if b.sreg h = 0 then b.children = [] else b.sreg h ∉ b.children
  | .tcommit r => ∃ k x, namesTile s b r k ∧ tileAt s s.myCore k = x ∧ x.state = 1 ∧ graphTile s s.myCore k = false
      ∧ storesPending s k x = false
  | .trel r => ∃ k x, namesTile s b r k ∧ tileAt s s.myCore k = x ∧ x.state = 3 ∧ graphTile s s.myCore k = false ∧ x.readers = 0
  | .tstAon r m => ∃ k x, namesTile s b r k ∧ tileAt s s.myCore k = x
      ∧ ((b.sreg m = 1 ∧ x.state = 2 ∧ x.ver % 2 = 0) ∨ (b.sreg m = 0 ∧ x.ver % 2 = 1 ∧ storesPending s k x = false))
  | .tldVer d r c => ∃ k x off m, namesTile s b r k ∧ tileAt s s.myCore k = x ∧ 1 ≤ m ∧ m ≤ 16 ∧ off < 2 ^ 20 ∧ off % 4 = 0
      ∧ b.sreg c = BitVec.ofNat 32 (off + 2 ^ 28 * (m - 1)) ∧ (∀ j, j < m → d.val + j < 60 ∨ d.val + j = 63)
      ∧ x.state = 2 ∧ off + 4 * m ≤ 16 * x.len ∧ x.torn = false ∧ x.ver % 2 = 0
      ∧ ∀ j, j < 4 * m → s.spadPoison.has ((tileBase s.myCore k x + off + j) / 16) = false
  | .stb _ _ _ _ | .sth _ _ _ _ | .stw _ _ _ _ | .std _ _ _ _ | .stq _ _ _ _ | .stx _ _ _ =>
    ∃ x base, laneStore b i = some x ∧ address b x.pair = some base
      ∧ lanesReach s (s.issuer 0) b.enabled (.write x.size) false (x.ea base)
      ∧ ∀ w ∈ laneWrites s b x base, busyLoc s x.size w.1 = false
  | .sts _ _ _ _ | .fst _ _ _ _ => ∃ a v p, uniformStore s b i = some (some a, v) ∧ access s (s.issuer 0) a (.write 4) false = .ok p
      ∧ busyLoc s 4 p.1 = false
  | .sst v k => ∃ r, b.streams.find? k = some r ∧ (r.rcd.esz = 3 → v.val % 2 = 0) ∧ b.vregs? v (if r.rcd.esz = 3 then 2 else 1) = true
      ∧ elementsReach s b r (.write (2 ^ r.rcd.esz)) ∧ ∀ w ∈ elementWrites s b r v, busyLoc s (2 ^ r.rcd.esz) w.1 = false
  | .launch _ r =>
    let w (k : Nat) : Word := b.sreg (r.val + k)
    ∃ entry cw, launchOk ((List.range 8).map w) = true ∧ (w 0).toNat + 2 ^ 32 * (w 1).toNat = entry ∧ entry < 2 ^ 48
      ∧ (w 5).toNat + 2 ^ 32 * (w 6).toNat = cw ∧ cw < 2 ^ 48 ∧ cw % 8 = 0 ∧ isSpad cw = false ∧ b.level < 7
      ∧ b.cls ≤ ((w 3).extractLsb' 16 2).toNat ∧ launchFull s b = false ∧ atomicsPend s b false = false
      ∧ (makeLaunch s (childLaunch s b w entry cw) ((w 3).extractLsb' 0 11).toNat (b.disp1 b.level).toNat
          (List.replicate (64 * ((w 3).extractLsb' 0 11).toNat) 0) (w 4).toNat (displayOf b.disp (b.level + 1))).isSome = true
  | .qput v q => atomicsPend s b false = false ∧ ∃ n x, (b.sreg q).toNat = n ∧ n < 64 ∧ (s.part b.part).tasks.find? n = some x
      ∧ (∀ l ∈ laneList b.enabled, nodeKnown s b.part (b.vlane v.val l) = true)
      ∧ x.wr - x.rd + (appendTasks ((laneList b.enabled).map fun l => (b.vlane v.val l, b.vlane (v.val + 1) l)) x x.wr).1.length ≤ x.words
  | .mfmt _ _ _ _ | .wld _ _ _ _ | .mloop _ _ _ _ | .mzero _ _ _ _ | .mld _ _ _ _ | .mst _ _ _ _ =>
    ((s.quad s.myQuad).queue.filter fun c => c.stage ≠ .suspended).length < 64
      ∧ ∀ fn id ps r, posts i = some (fn, id, ps, r) →
        let w := (List.range (recordLength fn)).map fun k => b.sreg (r.val + k)
        named s s.myQuad b id = none
        ∧ (∀ a ∈ accsOf fn w, ∀ o, (s.quad s.myQuad).accOwn.find? a = some o → ∃ x, o = .band x ∧ x.lnch = b.lnch ∧ x.bid = b.bid)
        ∧ (∀ n, fn = 2 → mloopCb w = some n → sliceOwner s s.myCore (n / 8) = b.part ∧ ∃ x, (s.core s.myCore).cbs.find? n = some x ∧
            (x.cons = none ∨ ∃ o, x.cons = some (.band o) ∧ o.lnch = b.lnch ∧ o.bid = b.bid))
  | .cpt t a c => ∃ base cnt p r k, (b.sreg t).toNat = k ∧ k < 1024 ∧ sliceOwner s s.myCore (k / 256) = b.part
      ∧ address b a = some base ∧ access s (s.issuer 0) base (.read 64) false = .ok p
      ∧ streamRecord (readAt s (s.issuer 0) p.1 p.2 64) = some r
      ∧ address b c = some cnt ∧ cnt % 8 = 0 ∧ isSpad cnt = false ∧ r.total * 2 ^ r.esz ≤ 16 * (tileAt s s.myCore k).len
      ∧ ((tileAt s s.myCore k).state = 1 ∨ ((tileAt s s.myCore k).state = 2 ∧ (tileAt s s.myCore k).readers = 0))
  | _ => False

/-- A cpt whose record is still the one that it has read (R197). -/
def sameRecord (s : State) (w : Wait) : Instr → Prop
  | .cpt _ _ _ => cptRecord s { w.cap with stream := none } = .ok w.cap.stream
  | _ => True

/-! ### Graphs (R272, R273, R388 to R399) -/

/-- A storer's firing of stage k waits: it would change a ready tile that has readers (R208). -/
def storerWaits (s : State) (part : Nat) (g : BoundGraph) (k : Nat) (x : StagePlace) (run : List Word) : Prop :=
  let e := (g.decl.ends k).getD 0 0
  ∃ b r ws, edgeCb s g e = some b ∧ (g.decl.edge e).frm ≠ k ∧ streamRecord (wordsBytes (run.drop 2)) = some r
    ∧ storeElems s (gcore g) (firingIssuer part g k x) r b (run.getD 1 0).toNat
        (List.range ((g.decl.edge e).cons * (g.decl.edge e).recsz / 2 ^ r.esz)) = .ok ws
    ∧ ∃ w ∈ ws, busyLoc s w.2.1.length w.1 = true

/-- A graph that a partition has under a handle. -/
def bound (s : State) (part : Nat) (h : Word) : Option BoundGraph := (s.part part).graphs.find? h.toNat

/-- A graph whose next period begins (R395). -/
def nextPeriod (g : BoundGraph) : BoundGraph :=
  { g with started := 0, period := g.pnum.toNat % 2 ^ 32, pnum := g.pnum + 1
           stages := g.stages.map fun x => { x with fired := 0 } }

/-! ### Faults and their answers (R408 to R411) -/

/-- An answer for a queue names a log entry or a held path of a band (R410). -/
def asks (part : Nat) (seq : Word) (b : Band) (x : Option (Bool × Word)) : Prop :=
  x = some (decide (part = 0), seq) ∧ (part = 0 ∨ b.part = part)
def asksAny (part : Nat) (seq : Word) (b : Band) : Prop :=
  (∃ e ∈ b.olog, e.2.wait = true ∧ asks part seq b e.2.seq)
  ∨ ∃ e ∈ b.prog, ∃ w, e.2.wait = some w ∧ w.kind = .fetch ∧ asks part seq b w.seq

/-- Room for a record among those that wait for a partition's ring (R410). -/
def hasRoom (s : State) (part : Nat) : Prop :=
  s.parts.has part = true ∧ ((s.part part).waiting.filter fun r => !r.kept).length < 256

/-! ### Launch queues and binds (R363 to R372) -/

/-- A queue's fields stand in its descriptor too (R363). -/
def queueIs (t : State) (part n : Nat) (v : LaunchQueue) : Prop :=
  (t.part part).queues.find? n = some v
  ∧ t.mem.bytes ((t.part part).object + 512 + 64 * n + 16) 9
      = leBytes 4 v.head.toNat ++ leBytes 4 v.tail.toNat ++ leBytes 1 v.state

/-- What bars a bind record that would fill slot n, by its code in REFUSE (R371): the slot is in use; register units of its half are
taken; the quadrant is not the owner's; the units are not an aligned run of 1, 2 or 4 of the 8; the drain table has no entry left; and the
launch, the BID or the place of the context block (log 43) is not one that the record may name. -/
def bindBar (s : State) (n : Nat) (r : BindRecord) (code : Nat) : Prop :=
  let units := allocOf r.rf / 32
  match code with
  | 1 => (s.slot n).state ≠ 0 ∨ s.bands.has n = true
  | 2 => ∃ k b i j, k < 4 ∧ n / 4 * 4 + k ≠ n ∧ s.bands.find? (n / 4 * 4 + k) = some b ∧ i < units ∧ j < b.rf / 32 ∧ r.unit + i = b.unit + j
  | 3 => (s.quad (quadOf n)).owner ≠ r.owner ∨ r.owner = 0
  | 4 => 2 < r.rf ∨ r.unit % units ≠ 0 ∨ 8 < r.unit + units
  | 5 => (s.core (coreOf n)).drain.find? r.lnchid.toNat = none ∧ 64 ≤ (s.core (coreOf n)).drain.length
  | 6 => ∀ l, s.launches.find? r.lnchid.toNat = some l → (l.n + 95) / 96 ≤ r.bid.toNat
      ∨ (if l.ctx = 0 then ctxFits s r.owner r.lnchid r.ctx = false else l.ctx ≠ r.ctx)
  | _ => False

/-- No code bars the record. -/
def bindable (s : State) (n : Nat) (r : BindRecord) : Prop := ∀ code, ¬ bindBar s n r code

/-- What fails a section table (R114): a count or a flag of the header that is wrong, an entry out of its limits, a type or a target
that stands twice, or contents that overlap. -/
def sectionsBad (bs : List Byte) : Prop :=
  let n := leAt bs 12 4
  let x (k : Nat) : Section := sectionAt bs (leAt bs 16 8 + 32 * k)
  n < 1 ∨ 32 < n ∨ leAt bs 8 4 ≠ (if (sectionsOf bs).any (fun y => y.typ = 2) then 1 else 0)
  ∨ (∃ k, k < n ∧ ((x k).typ < 1 ∨ 9 < (x k).typ ∨ ((x k).typ = 9 ∧ n ≤ (x k).link) ∨ ((x k).typ ≠ 9 ∧ (x k).link ≠ 0)
      ∨ (x k).off % 8 ≠ 0 ∨ bs.length - 128 < (x k).off + (x k).size ∨ 21 < (x k).align ∨ (x k).pad ≠ 0
      ∨ ((x k).typ = 1 ∧ (x k).size % 4 ≠ 0)))
  ∨ ∃ j k, j < k ∧ k < n ∧ (((x j).typ = (x k).typ ∧ ((x j).typ ≠ 9 ∨ (x j).link = (x k).link))
      ∨ ((x j).size ≠ 0 ∧ (x k).size ≠ 0 ∧ (x k).off < (x j).off + (x j).size ∧ (x j).off < (x k).off + (x k).size))

/-- What fails the loader's check with a code (R119), for a partition, an object, a request and the numbers of the object's graphs. -/
def loadBar (p : Partition) (bs : List Byte) (r : LoadRequest) (graphs : Tab Nat) (code : Nat) : Prop :=
  let sig := bs.length - 128
  let key := (bs.drop (sig + 64)).take 32
  match code with
  | 1 => bs.length < 192 ∨ leAt bs 0 4 ≠ 0x004F5956 ∨ leAt bs 24 8 ≠ sig ∨ sig < leAt bs 16 8 + 32 * leAt bs 12 4
  | 2 => (p.signers ≠ [] ∧ key ∉ p.signers) ∨ (∃ x ∈ (bs.drop (sig + 96)).take 32, x ≠ 0)
      ∨ Config.ed25519Verify key ((bs.drop sig).take 64) (hash (bs.take sig)) = false
  | 3 => leAt bs 4 2 ≠ 1
  | 4 => leAt bs 6 2 ≠ 1
  | 5 => ∃ k i, k < 8 ∧ i < 32 ∧ (leAt bs (32 + 4 * k) 4).testBit i = true ∧ (p.caps.getD k 0).getLsbD i = false
  | 6 => sectionsBad bs
  | 7 => ∃ e ∈ entriesOf bs, (∀ x, (symbolsOf bs)[e.sym]? = some x → x.kind ≠ 1) ∨ e.units < 1 ∨ 1024 < e.units ∨ 7 < e.level
      ∨ e.rf % 4 = 3 ∨ 8 ≤ e.rf ∨ (e.slip = false ∧ ((contentsOf bs 1).length ≤ e.off ∨ e.off % 4 ≠ 0))
  | 8 => ∃ e ∈ entriesOf bs, e.slip = true ∧ slipOk bs e = false
  | 9 => (∃ x ∈ symbolsOf bs, x.sec ≠ 0xFFFF ∧ (sectionsOf bs).length ≤ x.sec)
      ∨ ∃ t ∈ patches bs, ∃ x ∈ relocsOf bs t.1, (symbolsOf bs)[x.sym]? = none ∨ x.pad ≠ 0 ∨ (t.2.typ ≠ 1 ∧ t.2.typ ≠ 3 ∧ t.2.typ ≠ 4)
        ∨ t.2.size < x.off + (if x.kind = 1 then 8 else 4) ∨ relocValue bs r graphs t.2 0 x = none
  | 10 => ∃ k, 8 * k + 8 ≤ (contentsOf bs 6).length ∧ ¬ validFormat (BitVec.ofNat 32 (leAt (contentsOf bs 6) (8 * k) 4))
  | _ => False

/-- The value that a relocation of a kind needs can be patched (R116): the kind is known, and a branch's offset fits its field. -/
def patchFits (kind : Nat) (z : Int) (p : Nat) : Prop :=
  1 ≤ kind ∧ kind ≤ 8 ∧ (kind = 4 → (z - p) % 4 = 0 ∧ -131072 ≤ (z - p) / 4 ∧ (z - p) / 4 ≤ 131071)

/-- A firmware image of a kind that is accepted (R451, R452): header, fused digest of its key, signature, and ROLLBACK. -/
def imageGood (bs : List Byte) (kind least : Nat) : Prop :=
  let n := 64 + leAt bs 16 8
  let key := (bs.drop (n + 64)).take 32
  bs.length = n + 128 ∧ leAt bs 0 4 = 0x00465956 ∧ leAt bs 4 2 = kind ∧ leAt bs 6 2 = 0 ∧ leAt bs 32 32 = 0 ∧ leAt bs 12 4 ≤ 63
  ∧ leAt bs 24 8 < leAt bs 16 8 ∧ Machine.hash key = (List.range 64).map Config.keyDigest ∧ (∀ x ∈ (bs.drop (n + 96)).take 32, x = 0)
  ∧ Config.ed25519Verify key ((bs.drop n).take 64) (Machine.hash (bs.take n)) = true ∧ least ≤ leAt bs 12 4

/-- Address a of memory is one of ENERGY in the partition object of an entry (R431). -/
def inEnergy (e : Nat × Partition) (a : Nat) : Prop := e.2.object + 200 ≤ a ∧ a < e.2.object + 208

/-- A collective has been aborted for a reason (R468): no more than its addition is under way, and the partition has the A record. -/
def aborted (t : State) (c : Collective) (reason : Nat) : Prop :=
  (∀ x ∈ t.collectives, x.seq = c.seq → x.stage = 2)
  ∧ ∃ r ∈ (t.part c.part).waiting, (r.rcd.getD 0 0).toNat % 2 ^ 16 = 0x70
    ∧ (r.rcd.getD 16 0, r.rcd.getD 17 0, r.rcd.getD 18 0, r.rcd.getD 20 0)
      = (BitVec.ofNat 32 c.group, BitVec.ofNat 32 c.gseq, BitVec.ofNat 32 c.arrived.length, BitVec.ofNat 32 reason)

/-- A slot with a band that is saved or stopped. -/
def slotIs (t : State) (n : Nat) (state : Nat) (moving : Bool) : Prop := (t.slot n).state = state ∧ (t.slot n).moving = moving

/-! ### Kiln (R432 to R456) -/

/-- Kiln answers the command of a mailbox page: the response holds its TAG, a status and a result, the doorbell is served, and the
host is notified (R432, R433). -/
structure Answers (s t : State) (page status : Nat) (result : List Byte) : Prop where
  response : t.mail.bytes (128 * page + 64) 64
    = leBytes 4 (tagOf s page).toNat ++ leBytes 4 status ++ result ++ List.replicate (56 - result.length) 0
  other    : ∀ a, (a < 128 * page + 64 ∨ 128 * page + 128 ≤ a) → t.mail.byte a = s.mail.byte a
  served   : t.doorbells = s.doorbells.drop 1
  notified : t.notes = s.notes ++ [4 * page]

/-- Kiln takes up an operation of a page: its doorbell is the oldest and no answer is outstanding. -/
def takesUp (s : State) (page op : Nat) : Prop :=
  s.doorbells.head? = some page ∧ kilnFree s = true ∧ leAt (s.mail.bytes (128 * page) 64) 0 2 = op

/-- The operations of a page (R433): what only the host's page may ask, what only a partition's may, and what both may. -/
def mayAsk (page op : Nat) : Prop :=
  (page = 0 ∧ (op = 1 ∨ op = 2 ∨ op = 9)) ∨ op = 3 ∨ op = 4 ∨ op = 8 ∨ (page ≠ 0 ∧ (op = 5 ∨ op = 6 ∨ op = 7))

/-- Bytes of memory from lo to hi read as zero. -/
def zeroed (t : State) (lo hi : Nat) : Prop := ∀ a, lo ≤ a → a < hi → t.mem.byte a = 0

/-- A response to a command that Kiln had answered before (R448). -/
def respondedTo (t : State) (page : Nat) (tag : Word) (result : List Byte) : Prop :=
  t.mail.bytes (128 * page + 64) 64
    = leBytes 4 tag.toNat ++ leBytes 4 0 ++ result ++ List.replicate (56 - result.length) 0

end Sys2Proof.Claims
end

