-- ==== Sys2Proof/Certificates/Slice0/Obligations.lean ====
section
/-!
DEFINITION. The statements for the provers. Each docstring names the rules of spec/ that it formalises; a clause that rests on a
choice of the model's names the log entry.
-/
open Sys2Proof Sys2Proof.Machine

/-- R125: the scalar three-register and unary forms write their result to s[D] under R20 and R11, and nothing else. R126, R127,
with the immediates that a LIMM widens (R94). -/
def Obligations.ScalarRegisterForms : Prop :=
  (∀ s b i e, s.holds b → i.wf = true → Claims.salu b i = some e → Claims.Completes s b i e)
  ∧ (∀ s b i e, s.holds b → i.wf = true → Claims.salui b i = some e → Claims.Completes s b i e)

/-- R160: the integer vector forms write their result in the enabled lanes by Wr under the type of MR. R161: the same with an
immediate. -/
def Obligations.VectorIntegerForms : Prop :=
  (∀ s b i e, s.holds b → i.wf = true → Claims.valu b i = some e → e.legal = true → Claims.Completes s b i e)
  ∧ (∀ s b i e, s.holds b → i.wf = true → Claims.valui b i = some e → e.legal = true → Claims.Completes s b i e)

/-- R163, R164, R165: floating-point arithmetic, comparisons that select, and classes. R168 to R172: conversions, error
feedback, packing, unpacking, scaling. -/
def Obligations.VectorFloatForms : Prop :=
  (∀ s b i e, s.holds b → i.wf = true → Claims.vfp b i = some e → e.legal = true → Claims.Completes s b i e)
  ∧ (∀ s b i e, s.holds b → i.wf = true → Claims.vcvt b i = some e → e.legal = true → Claims.Completes s b i e)

/-- R166: the special functions, with their windows. R167: their special results. -/
def Obligations.SpecialFunctions : Prop :=
  (∀ s b i la e, s.holds b → i.wf = true → Claims.vsf b i = some (la, e) → e.legal = true → Claims.Delivers s s b i la e)
  ∧ (∀ (b : Band) i n x y, Claims.specialValue n x i = some y → Claims.specialCode b n x i = some (Claims.rounded b y))

/-- R173, R174, R177: broadcasts, shuffles, rotations, single lanes, running sums. R175, R176: reductions over the enabled
lanes, by the fixed tree, and those that give an index. -/
def Obligations.LaneAndReductionForms : Prop :=
  (∀ s b i e, s.holds b → i.wf = true → Claims.vlane b i = some e → e.legal = true → Claims.Completes s b i e)
  ∧ (∀ s b i e, s.holds b → i.wf = true → (Claims.vred b i = some e ∨ Claims.vredx b i = some e) → e.legal = true →
      Claims.Completes s b i e)

/-- R178: a compare combines its bit with the predicate's in the enabled lanes; the other bits stay (R14). -/
def Obligations.Compares : Prop :=
  ∀ s b i e, s.holds b → i.wf = true → Claims.vcmp b i = some e → e.legal = true → Claims.Completes s b i e

/-- R136, R137, R140, R150, R151, R269: forms that read the band or its partition into a register. -/
def Obligations.QueryForms : Prop :=
  ∀ s b i e, s.holds b → i.wf = true → Claims.query s b i = some e → e.legal = true → Claims.Completes s b i e

/-- R23, R24, R77, R78, R83, R156: a register form whose fields or operands are illegal takes the ILLEGAL trap, whatever lanes
are enabled (R15). -/
def Obligations.IllegalOperandsTrap : Prop :=
  ∀ s b i e, s.holds b →
    (Claims.salu b i = some e ∨ Claims.salui b i = some e ∨ Claims.valu b i = some e ∨ Claims.valui b i = some e
      ∨ Claims.vfp b i = some e ∨ (∃ la, Claims.vsf b i = some (la, e)) ∨ Claims.vcvt b i = some e
      ∨ Claims.vlane b i = some e ∨ Claims.vred b i = some e ∨ Claims.vredx b i = some e ∨ Claims.vcmp b i = some e
      ∨ Claims.query s b i = some e) →
    (i.wf && e.legal) = false → exec i s = .next (trapIllegal s (wordOf i))

/-- R179 to R182, R185, R187, R189: a per-lane load whose enabled lanes' accesses all succeed. Each lane's registers take what
its bytes say; an acquire first gives up the copies of its core (R346, R309). But for the copies that the core gives up,
nothing else in the machine changes: memory keeps every byte. -/
def Obligations.LaneLoads : Prop :=
  ∀ s b i x base, s.holds b → i.wf = true → Claims.laneLoad b i = some x → b.vregs? x.reg x.regs = true →
    Claims.address b x.pair = some base →
    let t := Claims.acquired s x.scope ((laneList b.enabled).map (x.ea base))
    Claims.lanesReach t (s.issuer 0) b.enabled (.read x.size) false (x.ea base) →
    Claims.Delivers s (afterReads t (s.issuer 0) false (Claims.lanePlaces t (s.issuer 0) b.enabled (.read x.size) (x.ea base)))
      b i x.la (Claims.loaded t b x base)

/-- R188 to R190: the uniform loads of a word, of memory and of frames, whatever lanes are active. R190: FLA writes the address
of a lexical operand that passes its checks to a pair. -/
def Obligations.UniformLoads : Prop :=
  (∀ s b i la d a c f p, s.holds b → i.wf = true → Claims.uniformLoad s b i = some (la, d, some a, c, f) →
      let t := Claims.acquired s c [a]
      access t (s.issuer 0) a (.read 4) false = .ok p →
      Claims.Delivers s (afterReads t (s.issuer 0) f [p]) b i la (Claims.ofScalars
        [(d, BitVec.ofNat 32 (leNat (readAt t (s.issuer 0) p.1 p.2 4 (if f then .frame else .l1))))]))
  ∧ (∀ s b e d o a, s.holds b → (Instr.fla e d o).wf = true → Claims.lexicalAt s b e o = some a →
      Claims.Completes s b (.fla e d o) (Claims.ofScalars [(d, BitVec.ofNat 32 a), (d + 1, BitVec.ofNat 32 (a / 2 ^ 32))]))

/-- R184, R186, R187: a per-lane store whose enabled lanes' accesses all succeed and meet no busy tile (R208). Of two lanes that
write one byte the higher stays; every other byte of memory keeps its value, and so does every register. R188, R190: the uniform
stores of a word. -/
def Obligations.PlainStores : Prop :=
  (∀ s b i x base, s.holds b → i.wf = true → Claims.laneStore b i = some x → b.vregs? x.reg x.regs = true →
      Claims.address b x.pair = some base →
      Claims.lanesReach s (s.issuer 0) b.enabled (.write x.size) false (x.ea base) →
      (∀ w ∈ Claims.laneWrites s b x base, busyLoc s x.size w.1 = false) →
      ∃ t, exec i s = .next t ∧ Claims.Stored s t b.advance (Claims.laneWrites s b x base))
  ∧ (∀ s b i a v p, s.holds b → i.wf = true → Claims.uniformStore s b i = some (some a, v) →
      access s (s.issuer 0) a (.write 4) false = .ok p → busyLoc s 4 p.1 = false →
      ∃ t, exec i s = .next t ∧ Claims.Stored s t b.advance [(p.1, Claims.wordBytes4 v)])

/-- R193: spat reads the record at its pair into a stream and sets its position to 0; sreset sets the position to 0. R194: sld
writes the elements of the enabled lanes, 0 for one out of range, and the stream moves on by 96. R194, R184: sst stores the
elements in range of the enabled lanes, and nothing else. -/
def Obligations.Streams : Prop :=
  (∀ s b (k : Fin 4), s.holds b →
      (∀ a base p r, (Instr.spat a k).wf = true → Claims.address b a = some base →
        access s (s.issuer 3) (base % 2 ^ 48) (.read 64) false = .ok p →
        streamRecord (readAt s (s.issuer 3) p.1 p.2 64) = some r →
        exec (.spat a k) s = .next ((afterPast s (s.issuer 3) [p]).setBand
          { b.advance with streams := b.streams.put k { rcd := r, pos := 0 } }))
      ∧ (∀ r, b.streams.find? k = some r →
        exec (.sreset k) s = .next (s.setBand { b.advance with streams := b.streams.put k { r with pos := 0 } })))
  ∧ (∀ s b la d (k : Fin 4) r, s.holds b → (Instr.sld la d k).wf = true → b.streams.find? k = some r →
      (r.rcd.esz = 3 → d.val % 2 = 0) → b.vregs? d (if r.rcd.esz = 3 then 2 else 1) = true →
      Claims.elementsReach s b r (.read (2 ^ r.rcd.esz)) →
      Claims.Delivers s (afterPast s (s.issuer 3) (Claims.elementPlaces s b r)) (Claims.walked b k r) (.sld la d k) la
        { legal := true, scalars := [], lanes := b.enabled
          vectors := (List.range (if r.rcd.esz = 3 then 2 else 1)).map fun j =>
            (d.val + j, fun l => Claims.elementWords r.rcd (Claims.elementBytes s r l) j) })
  ∧ (∀ s b v (k : Fin 4) r, s.holds b → (Instr.sst v k).wf = true → b.streams.find? k = some r →
      (r.rcd.esz = 3 → v.val % 2 = 0) → b.vregs? v (if r.rcd.esz = 3 then 2 else 1) = true →
      Claims.elementsReach s b r (.write (2 ^ r.rcd.esz)) →
      (∀ w ∈ Claims.elementWrites s b r v, busyLoc s (2 ^ r.rcd.esz) w.1 = false) →
      ∃ t, exec (.sst v k) s = .next t ∧ Claims.Stored s t (Claims.walked b k r).advance (Claims.elementWrites s b r v))

/-- R216, R217: an atomic whose enabled lanes' accesses all succeed sends each lane's operation to the engine of its line, in a
request that this band names, and changes no byte of memory itself. The non-returning form is done; the returning form leaves a
result entry that waits for the old words of every enabled lane. -/
def Obligations.AtomicRequests : Prop :=
  ∀ s b i x base, s.holds b → i.wf = true → Claims.atomic i = some x → b.vregs? x.v x.regs = true →
    Claims.address b x.pair = some base →
    Claims.lanesReach s (s.issuer 5) b.enabled (.rmw 4) true (x.ea b base) →
    ∃ t c es, exec i s = .next t ∧ t.bands = s.bands.put s.cur { c with results := c.results ++ es }
      ∧ (∀ l ∈ laneList b.enabled, ∀ p, access s (s.issuer 5) (x.ea b base l) (.rmw 4) true = .ok p →
          ∃ r, Claims.requestUnderWay t r ∧ r.op = x.op ∧ r.ref = s.me ∧ r.part = b.part ∧ r.core = s.myCore
            ∧ Claims.homeLine p.1 = some (r.dev, r.line) ∧ x.laneOp b l p ∈ r.lanes
            ∧ (r.entry.isSome = x.ret) ∧ ∀ e ∈ es, r.entry = some e.id)
      ∧ (if x.ret = true ∧ b.enabled ≠ 0 then
          ∃ e, es = [e] ∧ e.windows = [(b.ix, x.la.val)] ∧ e.arrived = false ∧ e.pending ≠ 0
            ∧ e.writes = [{ vec := true, reg := x.v.val, mask := b.enabled, vals := [] }]
         else es = [])
      ∧ Frame b.needBoundary c (fun _ => False) (fun v => x.ret = true ∧ v = x.v.val) b.enabled ∧ GoesOn b c
      ∧ c.sregs = b.sregs ∧ c.vregs = b.vregs ∧ c.mask = b.mask
      ∧ { t with bands := s.bands, clusters := s.clusters, cores := s.cores, remotes := s.remotes, nextId := s.nextId } = s

/-- R352, R353: the engine of a cluster that is free accepts the oldest request of the first port, from the rotation on, whose
request it can take; a line in the hot store is served at once, lanes in ascending order (R218), and another waits for its line.
R352, R353: a line that was missed comes in, is the most recently used of the hot store, and the requests that waited for it are
performed in the order of their acceptance. R217: what each atomic operation makes of the old word. -/
def Obligations.AtomicPerformance : Prop :=
  (∀ s cl p r rest, (s.cluster cl).busy = 0 →
      ((List.range 10).map fun k => ((s.cluster cl).port + 1 + k) % 10).find? (fun q =>
        match fifo s cl q with
        | [] => false
        | r :: _ => isHot (s.cluster cl) r.line || !missRefused (s.cluster cl) r.part) = some p →
      fifo s cl p = r :: rest → (∀ o ∈ r.lanes, windowAt s o.pa = none) →
      ∃ t, exec (.atomicRequestAccept cl) s = .next t ∧ fifo t cl p = rest ∧ (t.cluster cl).port = p
        ∧ (t.cluster cl).busy = (if isHot (s.cluster cl) r.line ∧ r.op = .fadd then 4 else 1)
        ∧ (∀ a, t.mem.byte a = if isHot (s.cluster cl) r.line then (Claims.performAll [r] s.mem).byte a else s.mem.byte a)
        ∧ (t.cluster cl).miss = (if isHot (s.cluster cl) r.line then (s.cluster cl).miss else (s.cluster cl).miss ++ [r])
        ∧ t.spad = s.spad ∧ t.rmem = s.rmem ∧ Claims.keepsBands s t)
  ∧ (∀ s cl line r rs, (s.cluster cl).miss.filter (fun r => r.line = line) = r :: rs →
      (∀ q ∈ r :: rs, ∀ o ∈ q.lanes, windowAt s o.pa = none) → roomHot (s.cluster cl) = true →
      ∃ t, exec (.hotStoreFill cl line) s = .next t
        ∧ (∀ a, t.mem.byte a = (Claims.performAll (r :: rs) s.mem).byte a)
        ∧ (t.cluster cl).miss = (s.cluster cl).miss.filter (fun r => r.line ≠ line)
        ∧ (∃ h, (t.cluster cl).hot.head? = some h ∧ h.line = line ∧ ((∃ q ∈ r :: rs, q.op ≠ .read) → h.dirty = true))
        ∧ t.spad = s.spad ∧ t.rmem = s.rmem ∧ Claims.keepsBands s t)
  ∧ (∀ op m x y, atomicNew op m x y = Claims.newWord op m x y)

/-- R198, R351: the counter forms on a counter that their access reaches, with the charge of the operation where it is performed (R440).
cntadd and cntrd send their operation to the engine of the counter's line, here or at its device (R353): an addition of s[V], and a
read whose count comes to the pair of cntrd (R293). cntw goes on once the count has reached its value and its engine accepts the read,
with the acquire of R336, and else its path waits. -/
def Obligations.CounterForms : Prop :=
  ∀ s b (c : SReg) a, s.holds b → Claims.address b c = some a → a % 8 = 0 → isSpad a = false →
    (∀ v p, (Instr.cntadd c v).wf = true → access s (s.issuer 5) a (.rmw 8) true = .ok p →
      ∃ t r, exec (.cntadd c v) s = .next t ∧ Claims.requestUnderWay t r
        ∧ r.op = .count ∧ r.lanes = [{ lane := 127, pa := paOf p.1, x := b.sreg v, y := 0, ord := p.2 }]
        ∧ Claims.homeLine p.1 = some (r.dev, r.line) ∧ r.entry = none ∧ r.ref = s.me ∧ r.part = b.part ∧ r.core = s.myCore
        ∧ t.bands = s.bands.put s.cur b.needBoundary.advance
        ∧ { t with bands := s.bands, clusters := s.clusters, cores := s.cores, remotes := s.remotes, nextId := s.nextId } = s)
    ∧ (∀ d p, (Instr.cntrd d c).wf = true → access s (s.issuer 5) a (.read 8) true = .ok p →
      ∃ t r e b', exec (.cntrd d c) s = .next t ∧ Claims.requestUnderWay t r
        ∧ r.op = .read ∧ r.lanes = [{ lane := 127, pa := paOf p.1, x := 0, y := 0, ord := p.2 }]
        ∧ Claims.homeLine p.1 = some (r.dev, r.line) ∧ r.entry = some e.id ∧ r.ref = s.me ∧ r.part = b.part ∧ r.core = s.myCore
        ∧ e.windows = [(b.ix, 0)] ∧ e.arrived = false ∧ e.pending = 1
        ∧ e.writes.map (fun w => (w.vec, w.reg)) = [(false, d.val), (false, d.val + 1)]
        ∧ t.bands = s.bands.put s.cur { b' with results := b'.results ++ [e] }
        ∧ Frame b b' (fun r => r = d.val ∨ r = d.val + 1) (fun _ => False) 0 ∧ GoesOn b b' ∧ b'.sregs = b.sregs ∧ b'.vregs = b.vregs
        ∧ { t with bands := s.bands, clusters := s.clusters, cores := s.cores, remotes := s.remotes, nextId := s.nextId } = s)
    ∧ (∀ g p, (Instr.cntw c g).wf = true → access s (s.issuer 5) a (.read 8) true = .ok p →
      let goal := (b.sreg g).toNat + 2 ^ 32 * (b.sreg (g.val + 1)).toNat
      let c0 := charge s b.part s.me 12 1
      match Claims.homeLine p.1 with
      | none => True
      | some (some _, _) => if goal ≤ counterRead s (s.issuer 5) p.1 then
          let t := acquire c0 s.myCore .fabric
          Claims.Ends s t t.band (.cntw c g) (Claims.ofScalars [])
        else Claims.Waits s b (.cntw c g) .cntw
      | some (none, line) => if goal ≤ counterRead s (s.issuer 5) p.1
          ∧ engineTurn s (owningCluster line) (corePort s.myCore (owningCluster line)) line b.part = true then
          let t := strong (acquire (engineRead c0 b.part s.me s.myCore line) s.myCore .device) s.myCore [p.2]
          Claims.Ends s t t.band (.cntw c g) (Claims.ofScalars [])
        else Claims.Waits s b (.cntw c g) .cntw)

/-- R195, R196: a cpy whose counter pair and enabled lanes pass their checks queues the copies of its lanes as line operations:
each lane's copy in exactly one, those of one destination line together, each with the bytes that it will count (log 19). No byte of
memory changes yet, and the band goes on. R197: a cpt whose checks pass queues the elements of its record: each element in
exactly one line operation. R200: a cpz whose record passes its checks queues one operation, which counts as one line operation
for each line (R203). That lanes which overlap count their bytes each is the model's reading of the byte count (log 19). -/
def Obligations.CopyIssues : Prop :=
  (∀ s b i n (d a c : SReg) cnt, s.holds b → i.wf = true →
      (i = .cpy4 d a c ∧ n = 4 ∨ i = .cpy8 d a c ∧ n = 8 ∨ i = .cpy16 d a c ∧ n = 16) →
      b.vregs? d 2 = true → b.vregs? a 2 = true → Claims.address b c = some cnt → cnt % 8 = 0 → isSpad cnt = false →
      ∀ place : Nat → CopyPart,
      (∀ l ∈ laneList b.enabled, (place l).n = n
        ∧ (b.vlane (d.val + 1) l).toNat < 2 ^ 16 ∧ (b.vlane (a.val + 1) l).toNat < 2 ^ 16
        ∧ (place l).dst = (b.vlane d l).toNat + 2 ^ 32 * (b.vlane (d.val + 1) l).toNat ∧ (place l).dst % n = 0
        ∧ (place l).src = (b.vlane a l).toNat + 2 ^ 32 * (b.vlane (a.val + 1) l).toNat ∧ (place l).src % n = 0) →
      ∃ ops : List CopyOp, Claims.Ends s
          { ops.foldl (fun s _ => drainAdd s s.myCore b.lnch 1) s with
            copies := s.copies ++ ops, nextId := s.nextId + ops.length } b.needBoundary i (Claims.ofScalars [])
        ∧ (ops.flatMap (·.parts)).Perm ((laneList b.enabled).map place)
        ∧ ops.Pairwise (fun o q => ∀ x ∈ o.parts, ∀ y ∈ q.parts, x.dst / 128 ≠ y.dst / 128)
        ∧ ∀ o ∈ ops, o.ref = s.me ∧ o.u = s.issuer 1 ∧ o.cnt = cnt ∧ o.tile = none ∧ o.parts ≠ []
            ∧ o.count = n * o.parts.length ∧ ∀ x ∈ o.parts, ∀ y ∈ o.parts, x.dst / 128 = y.dst / 128)
  ∧ (∀ s b (t a c : SReg) base cnt p r k, s.holds b → (Instr.cpt t a c).wf = true →
      (b.sreg t).toNat = k ∨ (b.sreg t).toNat = k + 2 ^ 31 → k < 1024 → sliceOwner s s.myCore (k / 256) = b.part →
      Claims.address b a = some base → access s (s.issuer 0) base (.read 64) false = .ok p →
      streamRecord (readAt s (s.issuer 0) p.1 p.2 64) = some r →
      Claims.address b c = some cnt → cnt % 8 = 0 → isSpad cnt = false →
      r.total * 2 ^ r.esz ≤ 16 * (tileAt s s.myCore k).len →
      (if (b.sreg t).toNat = k then
          (tileAt s s.myCore k).state = 1 ∨ ((tileAt s s.myCore k).state = 2 ∧ (tileAt s s.myCore k).readers = 0)
        else (tileAt s s.myCore k).state = 2 ∨ (tileAt s s.myCore k).state = 3) →
      ∃ ops : List CopyOp, Claims.Ends s
          { ops.foldl (fun s _ => drainAdd s s.myCore b.lnch 1) (afterReads s (s.issuer 0) false [p]) with
            copies := s.copies ++ ops, nextId := s.nextId + ops.length } b.needBoundary (.cpt t a c) (Claims.ofScalars [])
        ∧ (ops.flatMap fun o => (o.tile.map (·.elems)).getD []).Perm (List.range r.total)
        ∧ ∀ o ∈ ops, o.ref = s.me ∧ o.u = s.issuer 1 ∧ o.cnt = cnt ∧ o.parts = []
            ∧ ∃ x, o.tile = some x ∧ x.rcd = r ∧ x.toTile = decide ((b.sreg t).toNat = k)
              ∧ x.base = tileBase s.myCore k (tileAt s s.myCore k) ∧ x.elems ≠ [] ∧ o.count = 2 ^ r.esz * x.elems.length)
  ∧ (∀ s b (r c : SReg) base cnt p, s.holds b → (Instr.cpz r c).wf = true → Claims.address b r = some base → base % 32 = 0 →
      Claims.address b c = some cnt → cnt % 8 = 0 → isSpad cnt = false →
      access s (s.issuer 0) base (.read 32) false = .ok p →
      ∀ src dst nline cap dir, (readAt s (s.issuer 0) p.1 p.2 32)
          = leBytes 8 src ++ leBytes 8 dst ++ leBytes 4 nline ++ leBytes 4 cap ++ leBytes 1 dir ++ List.replicate 7 0 →
      src < 2 ^ 48 → dst < 2 ^ 48 → 1 ≤ nline → nline ≤ 2 ^ 24 → cap % 16 = 0 → 48 ≤ cap → cap < 2 ^ 32 → dir ≤ 1 →
      (if dir = 0 then src % 128 = 0 ∧ dst % 16 = 0 else dst % 128 = 0 ∧ src % 16 = 0) →
      ∃ o : CzOp, Claims.Ends s
          { drainAdd (afterReads s (s.issuer 0) false [p]) s.myCore b.lnch nline with czs := s.czs ++ [o], nextId := s.nextId + 1 } b.needBoundary (.cpz r c)
          (Claims.ofScalars [])
        ∧ o.src = src ∧ o.dst = dst ∧ o.nline = nline ∧ o.cap = cap ∧ o.expand = decide (dir = 1) ∧ o.cnt = cnt ∧ o.ref = s.me
        ∧ o.u = s.issuer 1 ∧ o.checked = false)

/-- R184, R196, R197, R336: a line operation whose partition holds a copy engine, and a port where it needs one (R464), whose accesses
succeed and meet no busy tile, and whose counter is reached: its bytes are written, its count goes to the counter's engine after them, and it leaves the queue. R199: a
line operation of which an access fails writes and counts nothing; COPY_FAULT is reported with its counter and the bytes that
are not delivered. -/
def Obligations.CopyLines : Prop :=
  (∀ s (n : Nat) o i ws p, s.copies[n]? = some o → Claims.lineEvent o n i → holdsEngine s o.u.core 0 o.u.part = true →
      portsDown s o.u (copyPieces s o) = false → Claims.lineMoves s o = some ws →
      (∀ w ∈ ws, busyLoc s w.2.length w.1 = false) → counterAt s o.u o.cnt = .ok p →
      ∃ t, exec i s = .next t ∧ Claims.writtenAndCounted s t ws p o.count
        ∧ t.copies = s.copies.filter (fun x => x.seq ≠ o.seq) ∧ Claims.keepsBands s t)
  ∧ (∀ s (n : Nat) o i, s.copies[n]? = some o → Claims.lineEvent o n i → holdsEngine s o.u.core 0 o.u.part = true →
      portsDown s o.u (copyPieces s o) = false →
      (Claims.lineMoves s o = none ∨ ∃ f, counterAt s o.u o.cnt = .error f) →
      s.parts.has o.u.part = true → (((s.part o.u.part).waiting.filter fun r => !r.kept).length < 256) →
      ∃ t, exec i s = .next t ∧ t.mem = s.mem ∧ t.spad = s.spad ∧ t.rmem = s.rmem
        ∧ t.copies = s.copies.filter (fun x => x.seq ≠ o.seq) ∧ Claims.keepsBands s t
        ∧ Claims.reported t o.u.part 0x17 [BitVec.ofNat 32 o.cnt, BitVec.ofNat 32 (o.cnt / 2 ^ 32),
            BitVec.ofNat 32 o.count, BitVec.ofNat 32 (o.count / 2 ^ 32)])

/-- R202, R203: the steps of an engine of compression for a partition that holds one, and a port where it needs one (R464). A pack writes the stream of its lines and
counts them once; an expand first checks its whole stream, and then writes its lines one by one, each with its count. R201,
R202: the stream that a pack writes for lines of 128 bytes, where it fits, expands to the same lines. -/
def Obligations.PackSteps : Prop :=
  (∀ s (n : Nat) o p, s.czs[n]? = some o → holdsEngine s o.u.core 1 o.u.part = true → counterAt s o.u o.cnt = .ok p →
      (∀ lines ws, o.expand = false → portsDown s o.u ((List.range o.nline).map fun k => (o.src + 128 * k, 128)) = false →
        readBlocks s o.u 128 o.src o.nline = .ok lines →
        writeBlocks s o.u o.dst (blocks16 (packStream lines o.cap)) = .ok ws → (∀ w ∈ ws, busyLoc s 16 w.1 = false) →
        ∃ t, exec (.czPack n) s = .next t ∧ Claims.writtenAndCounted s t ws p (o.nline * 128)
          ∧ t.czs = s.czs.filter (fun x => x.seq ≠ o.seq) ∧ Claims.keepsBands s t)
      ∧ (∀ hd bs ls, o.expand = true → o.checked = false →
        portsDown s o.u ((List.range 2).map fun k => (o.src + 16 * k, 16)) = false →
        readBlocks s o.u 16 o.src 2 = .ok hd → streamOk o hd.flatten = true →
        portsDown s o.u ((List.range ((leAt hd.flatten 4 4 + 15) / 16)).map fun k => (o.src + 16 * k, 16)) = false →
        readBlocks s o.u 16 o.src ((leAt hd.flatten 4 4 + 15) / 16) = .ok bs →
        expandStream o.nline (bs.flatten.take (leAt hd.flatten 4 4)) = some ls →
        ∃ t, exec (.czExpandCheck n) s = .next t
          ∧ t.czs = s.czs.map (fun x => if x.seq = o.seq then { x with checked := true, lines := ls } else x)
          ∧ (∀ k, { t.core k with beats := [] } = { s.core k with beats := [] })
          ∧ t.mem = s.mem ∧ t.spad = s.spad ∧ t.rmem = s.rmem ∧ t.remotes = s.remotes ∧ t.copies = s.copies ∧ Claims.keepsBands s t)
      ∧ (∀ k bs l, o.checked = true → o.lines.find? (fun e => e.1 = k) = some (k, bs) →
        access s o.u ((o.dst + 128 * k) % 2 ^ 48) (.write 128) false = .ok l → busyLoc s 128 l.1 = false →
        ∃ t, exec (.czExpandLine n k) s = .next t ∧ Claims.writtenAndCounted s t [(l.1, bs)] p 128
          ∧ (∀ x ∈ t.czs, x.seq = o.seq → ∀ e ∈ x.lines, e.1 ≠ k) ∧ Claims.keepsBands s t))
  ∧ (∀ (lines : List (List Byte)) cap, lines.length ≤ 2 ^ 24 → (∀ l ∈ lines, l.length = 128) →
      (packStream lines cap).length ≠ 32 →
      expandStream lines.length (packStream lines cap) = some ((List.range lines.length).zip lines))

/-- R204 to R207: the tile forms that complete. tdef defines an empty tile by its record; a state form moves a tile from the one
state that it needs to the next; tstate reads its word. A tile of a bound graph answers only its own firings (R387). R209, R210,
R211: an all-or-nothing store opens on a ready tile with an even version, which it makes odd, and closes on an odd one; a
versioned read returns the words of a ready tile with an even version, all at one instant, and waits while the tile is not ready
or a bracket is open; the bracket that a band left open closes with TORN set. -/
def Obligations.TileForms : Prop :=
  (∀ s b, s.holds b →
      (∀ (a : SReg) base p k n, (Instr.tdef a).wf = true → Claims.address b a = some base →
        access s (s.issuer 0) base (.read 8) false = .ok p →
        ∀ lo, readAt s (s.issuer 0) p.1 p.2 8 = leBytes 2 k ++ leBytes 2 0 ++ leBytes 2 lo ++ leBytes 2 n →
        k < 1024 → lo ≤ 17407 → 1 ≤ n → n ≤ 17408 → lo + n ≤ 17408 → sliceOwner s s.myCore (k / 256) = b.part →
        (tileAt s s.myCore k).state = 0 →
        graphTile s s.myCore k = false →
        Claims.Ends s (Claims.withTileAt (afterReads s (s.issuer 0) false [p]) k
            { tileAt s s.myCore k with base := lo, len := n, ver := 0, torn := false }) b.needBoundary (.tdef a) (Claims.ofScalars []))
      ∧ (∀ i r was now k, i.wf = true → Claims.tileStep i = some (r, was, now) → Claims.namesTile s b r k →
        (tileAt s s.myCore k).state = was → graphTile s s.myCore k = false →
        Claims.tileReady s k (tileAt s s.myCore k) i →
        Claims.Ends s (Claims.withTileAt s k { tileAt s s.myCore k with
            state := now, torn := if now = 0 then false else (tileAt s s.myCore k).torn }) b.needBoundary i (Claims.ofScalars []))
      ∧ (∀ d r k x, (Instr.tstate d r).wf = true → Claims.namesTile s b r k → tileAt s s.myCore k = x →
        x.state < 4 → x.readers < 2 ^ 8 → x.ver < 2 ^ 16 →
        Claims.Completes s b (.tstate d r) (Claims.ofScalars [(d, BitVec.ofNat 16 x.ver ++ BitVec.ofNat 8 x.readers
          ++ (0 : BitVec 4) ++ BitVec.ofBool x.torn ++ BitVec.ofBool (x.len ≠ 0) ++ BitVec.ofNat 2 x.state)])))
  ∧ (∀ s b, s.holds b →
      (∀ (r m : SReg) k x, (Instr.tstAon r m).wf = true → Claims.namesTile s b r k → tileAt s s.myCore k = x →
        (b.sreg m = 1 → if x.state = 2 ∧ x.ver % 2 = 0 then
            Claims.Ends s (Claims.withTileAt s k { x with ver := (x.ver + 1) % 2 ^ 16, torn := false, opener := s.cur })
              b.needBoundary (.tstAon r m) (Claims.ofScalars [])
          else Claims.Waits s b (.tstAon r m) .tstOpen)
        ∧ (b.sreg m = 0 → x.ver % 2 = 1 → if storesPending s k x = false then
            Claims.Ends s (Claims.withTileAt s k { x with ver := (x.ver + 1) % 2 ^ 16 }) b.needBoundary (.tstAon r m)
              (Claims.ofScalars [])
          else Claims.Waits s b (.tstAon r m) .tstClose))
      ∧ (∀ (d r c : SReg) k x off n, (Instr.tldVer d r c).wf = true → Claims.namesTile s b r k → tileAt s s.myCore k = x →
        1 ≤ n → n ≤ 16 → off < 2 ^ 20 → off % 4 = 0 → b.sreg c = BitVec.ofNat 32 (off + 2 ^ 28 * (n - 1)) →
        (∀ j, j < n → d.val + j < 60 ∨ d.val + j = 63) →
        (x.state ≠ 2 → Claims.Waits s b (.tldVer d r c) .tldVer)
        ∧ (x.state = 2 → off + 4 * n ≤ 16 * x.len → x.torn = false → x.ver % 2 = 1 → Claims.Waits s b (.tldVer d r c) .tldVer)
        ∧ (x.state = 2 → off + 4 * n ≤ 16 * x.len → x.torn = false → x.ver % 2 = 0 →
          (∀ j, j < 4 * n → s.spadPoison.has ((tileBase s.myCore k x + off + j) / 16) = false) →
          Claims.Completes s b (.tldVer d r c) (Claims.ofScalars ((List.range n).map fun j =>
            (d.val + j, BitVec.ofNat 32 (s.spad.num (tileBase s.myCore k x + off + 4 * j) 4))))))
      ∧ (∀ core k x, tileAt s core k = x → x.ver % 2 = 1 → x.opener = 4096 →
        exec (.tornBracketClose core k) s = .next (s.setCore core { s.core core with
          tiles := (s.core core).tiles.setD k { x with ver := (x.ver + 1) % 2 ^ 16, torn := true, opener := 0 } Tile.undefined })))

/-- R212 to R215, R387: the buffer forms that complete, and the wait of cbwait. cbdef defines a buffer by its record, empty and with
both ends free, on tiles that no graph holds; cbpush and cbpop move their count; cbwait goes on when the records or the room are there; cbpeek reads. -/
def Obligations.BufferForms : Prop :=
  ∀ s b, s.holds b →
    (∀ (r a : SReg) base p n t0 ns sz, (Instr.cbdef r a).wf = true → (b.sreg r).toNat = n → n < 32 →
      sliceOwner s s.myCore (n / 8) = b.part → Claims.address b a = some base →
      access s (s.issuer 0) base (.read 16) false = .ok p →
      readAt s (s.issuer 0) p.1 p.2 16 = leBytes 2 t0 ++ leBytes 2 ns ++ leBytes 4 sz ++ List.replicate 8 0 →
      t0 < 1024 → 1 ≤ ns → ns ≤ 256 → sz % 16 = 0 → 16 ≤ sz → sz ≤ 65536 →
      (∀ k, k < ns → (t0 + k) / 256 = n / 8 ∧ sz ≤ 16 * (tileAt s s.myCore (t0 + k)).len
        ∧ graphTile s s.myCore (t0 + k) = false) →
      (∀ x, (s.core s.myCore).cbs.find? n = some x → x.available = 0 ∧ x.prod = none ∧ x.cons = none) →
      Claims.Ends s (Claims.withBuffer (afterReads s (s.issuer 0) false [p]) n { tile0 := t0, nslot := ns, recsz := sz, pp := 0, cp := 0, prod := none, cons := none })
        b.needBoundary (.cbdef r a) (Claims.ofScalars []))
    ∧ (∀ (r m : SReg) n x, Claims.namesBuffer s b r n x → 1 ≤ (b.sreg m).toNat → (b.sreg m).toNat ≤ x.nslot →
      ((Instr.cbpush r m).wf = true → endBusy s x.prod = false → (b.sreg m).toNat ≤ x.room →
        Claims.Ends s (Claims.withBuffer s n { x with pp := x.pp + b.sreg m }) b.needBoundary (.cbpush r m) (Claims.ofScalars []))
      ∧ ((Instr.cbpop r m).wf = true → endBusy s x.cons = false → (b.sreg m).toNat ≤ x.available →
        Claims.Ends s (Claims.withBuffer s n { x with cp := x.cp + b.sreg m }) b.needBoundary (.cbpop r m) (Claims.ofScalars []))
      ∧ (∀ w : SReg, (Instr.cbwait r m w).wf = true → (b.sreg w = 0 ∨ b.sreg w = 1) →
        if (b.sreg m).toNat ≤ (if b.sreg w = 0 then x.available else x.room) then
          Claims.Completes s b (.cbwait r m w) (Claims.ofScalars [])
        else Claims.Waits s b (.cbwait r m w) .cbwait))
    ∧ (∀ (d r f : SReg) n x, (Instr.cbpeek d r f).wf = true → Claims.namesBuffer s b r n x → x.nslot ≠ 0 → (b.sreg f).toNat ≤ 3 →
      Claims.Completes s b (.cbpeek d r f) (Claims.ofScalars [(d, BitVec.ofNat 32 (
        if b.sreg f = 0 then x.available else if b.sreg f = 1 then x.nslot - x.available
        else if b.sreg f = 2 then x.tile0 + x.pp.toNat % x.nslot else x.tile0 + x.cp.toNat % x.nslot))]))

/-- R219, R220, R311, R346: fence and pfence act on no register. A fence that orders a later load gives up the copies that its scope
reaches; a pfence is remembered while operations of its source classes are under way, and gives up the core's copies where class
B is a destination. R221, R332, R333: swrel publishes the lines that its tenant has written in a window it maps, under the next
generation: the published image takes their bytes, and the tenant's dirty bits are cleared. swacq goes on, as an acquire at
FABRIC scope, once the window has reached its generation, and else its path waits. -/
def Obligations.OrderingForms : Prop :=
  (∀ s b, s.holds b →
      (∀ c k, (Instr.fence c k).wf = true →
        Claims.Ends s (if k.getLsbD 0 || k.getLsbD 1 || k.getLsbD 2 then acquire s s.myCore c else s) b (.fence c k) (Claims.ofScalars []))
      ∧ (∀ src dst, (Instr.pfence src dst).wf = true →
        let t := if dst.getLsbD 0 || (src ||| dst) &&& (0b011110 : BitVec 6) = 0 then acquire s s.myCore .device else s
        Claims.Ends s { t with nextId := t.nextId + 1 } (if fencePending t b src (s.nextId + 1) then
            { b with fences := b.fences ++ [{ src := src, dst := dst, upto := s.nextId + 1, bid := b.bid }] } else b)
          (.pfence src dst) (Claims.ofScalars [])))
  ∧ (∀ s b (h g : SReg) n w, s.holds b → windowOf s b.part (b.sreg h) (b.sreg (h.val + 1)) = some (n, w) →
      ((Instr.swrel h g).wf = true → b.sreg g = w.gen + 1 →
        (∀ j ∈ (if b.part = w.a then w.dirtyA else w.dirtyB), ∀ k ∈ (if b.part = w.a then w.dirtyA else w.dirtyB),
          imageAt w.published (128 * j) + 128 ≤ imageAt w.working (128 * k)
            ∨ imageAt w.working (128 * k) + 128 ≤ imageAt w.published (128 * j)) →
        ∃ t, exec (.swrel h g) s = .next t
          ∧ (∀ a, t.mem.byte a = Claims.lastByte Claims.inMem
              ((if b.part = w.a then w.dirtyA else w.dirtyB).map fun k =>
                (.mem (imageAt w.published (128 * k)), s.mem.bytes (imageAt w.working (128 * k)) 128)) a (s.mem.byte a))
          ∧ t.windows = s.windows.put n (if b.part = w.a then { w with dirtyA := [], gen := b.sreg g }
              else { w with dirtyB := [], gen := b.sreg g })
          ∧ t.bands = s.bands.put s.cur b.needBoundary.advance
          ∧ { t with mem := s.mem, windows := s.windows, bands := s.bands, glaze := s.glaze, glazeTree := s.glazeTree, poison := s.poison
                     tampered := s.tampered, channels := s.channels } = s)
      ∧ ((Instr.swacq h g).wf = true →
        if (w.gen - b.sreg g).toNat < 2 ^ 31 then
          Claims.Ends s (acquire s s.myCore .fabric) b (.swacq h g) (Claims.ofScalars [])
        else Claims.Waits s b (.swacq h g) .swacq))

/-- R179 to R181, R190, R191, R193, R198, R205, R206, R213 to R215, R221, R262, R474: uniform checks that fail take the trap of their
code and change nothing; that CB_BUSY comes before CB_OVER and CB_UNDER, and a tile's state before the limits of its record, is log
21. R183, R403, R407: a per-lane load or store of which lanes fail, the lowest with no translation fault, has its effect in the other
enabled lanes, and traps with the code of the lowest: the operand log holds the lanes that failed. The load is one without a window
and without an acquire. -/
def Obligations.UniformFaults : Prop :=
  ∀ s b, s.holds b → Claims.canFault s b →
    (∀ la (e : Fin 8) (d : SReg) (o : BitVec 14), (Instr.fld la e d o).wf = true →
      (b.level < e.val → Claims.Faults s b (.fld la e d o) 0x30)
      ∧ (∀ n, e.val ≤ b.level → frameSize s e.val = .ok n → n < 4 * o.toNat + 4 → Claims.Faults s b (.fld la e d o) 0x31))
    ∧ (∀ r (e : Fin 8) (v : SReg) (o : BitVec 14), (Instr.fst r e v o).wf = true →
      (b.level < e.val → Claims.Faults s b (.fst r e v o) 0x30)
      ∧ (∀ n, e.val ≤ b.level → frameSize s e.val = .ok n → n < 4 * o.toNat + 4 → Claims.Faults s b (.fst r e v o) 0x31))
    ∧ (∀ (e : Fin 8) (d : SReg) (o : BitVec 14), (Instr.fla e d o).wf = true →
      (b.level < e.val → Claims.Faults s b (.fla e d o) 0x30)
      ∧ (∀ n, e.val ≤ b.level → frameSize s e.val = .ok n → n < 4 * o.toNat + 4 → Claims.Faults s b (.fla e d o) 0x31))
    ∧ (∀ r (v a : SReg) (o : BitVec 6) base, (Instr.sts r v a o).wf = true → Claims.address b a = some base → b.path.limm = none →
      let x := (base + 4 * o.toNat) % 2 ^ 48
      x % 4 = 0 →
      (isSpad x = true → Config.spadBytes < x % 2 ^ 32 + 4 → Claims.Faults s b (.sts r v a o) 0x12)
      ∧ (isSpad x = true → x % 2 ^ 32 + 4 ≤ Config.spadBytes → sliceOwner s s.myCore (x % 2 ^ 32 / Config.sliceBytes) ≠ b.part →
        Claims.Faults s b (.sts r v a o) 0x13)
      ∧ (isSpad x = false → b.thb ≤ x → x - b.thb < b.thl → granted s b.part ((x + b.tho) % 2 ^ 48) = false →
        Claims.Faults s b (.sts r v a o) 0x15)
      ∧ (isSpad x = false → b.thb ≤ x → x - b.thb < b.thl → granted s b.part ((x + b.tho) % 2 ^ 48) = true → b.cls ≠ 0 →
        touchesHeader s ((x + b.tho) % 2 ^ 48) 4 = true → Claims.Faults s b (.sts r v a o) 0x34))
    ∧ (∀ c v a : SReg, ∀ base, Claims.address b a = some base → base % 8 = 0 → isSpad base = true →
      ((Instr.cntadd a v).wf = true → Claims.Faults s b (.cntadd a v) 0x14)
      ∧ ((Instr.cntw a v).wf = true → Claims.Faults s b (.cntw a v) 0x14)
      ∧ ((Instr.cntrd c a).wf = true → Claims.Faults s b (.cntrd c a) 0x14))
    ∧ (∀ (a : SReg) (k : Fin 4) base p, (Instr.spat a k).wf = true → Claims.address b a = some base →
      access s (s.issuer 3) (base % 2 ^ 48) (.read 64) false = .ok p → streamRecord (readAt s (s.issuer 3) p.1 p.2 64) = none →
      Claims.Faults s b (.spat a k) 0x50)
    ∧ (∀ (a : SReg) base p k lo n, (Instr.tdef a).wf = true → Claims.address b a = some base →
      access s (s.issuer 0) base (.read 8) false = .ok p → k < 1024 → lo < 2 ^ 16 → n < 2 ^ 16 →
      readAt s (s.issuer 0) p.1 p.2 8 = leBytes 2 k ++ leBytes 2 0 ++ leBytes 2 lo ++ leBytes 2 n →
      (tileAt s s.myCore k).state = 0 → graphTile s s.myCore k = false → (n = 0 ∨ 17408 < lo + n) →
      Claims.FaultsAfter s (afterReads s (s.issuer 0) false [p]) b (.tdef a) 0x53)
    ∧ (∀ (r a : SReg) base p n t0 ns sz, (Instr.cbdef r a).wf = true → (b.sreg r).toNat = n → n < 32 →
      sliceOwner s s.myCore (n / 8) = b.part → Claims.address b a = some base →
      access s (s.issuer 0) base (.read 16) false = .ok p →
      readAt s (s.issuer 0) p.1 p.2 16 = leBytes 2 t0 ++ leBytes 2 ns ++ leBytes 4 sz ++ List.replicate 8 0 →
      t0 < 1024 → 1 ≤ ns → ns ≤ 256 → sz % 16 = 0 → 16 ≤ sz → sz ≤ 65536 →
      ((∃ k, k < ns ∧ ((t0 + k) / 256 ≠ n / 8 ∨ 16 * (tileAt s s.myCore (t0 + k)).len < sz)) →
        Claims.FaultsAfter s (afterReads s (s.issuer 0) false [p]) b (.cbdef r a) 0x53)
      ∧ (∀ x, (∀ k, k < ns → (t0 + k) / 256 = n / 8 ∧ sz ≤ 16 * (tileAt s s.myCore (t0 + k)).len
          ∧ graphTile s s.myCore (t0 + k) = false) → (s.core s.myCore).cbs.find? n = some x → 0 < x.available →
        Claims.FaultsAfter s (afterReads s (s.issuer 0) false [p]) b (.cbdef r a) 0x55))
    ∧ (∀ (r m : SReg) n x, Claims.namesBuffer s b r n x → 1 ≤ (b.sreg m).toNat → (b.sreg m).toNat ≤ x.nslot →
      ((Instr.cbpush r m).wf = true → endBusy s x.prod = true → Claims.Faults s b (.cbpush r m) 0x55)
      ∧ ((Instr.cbpop r m).wf = true → endBusy s x.cons = true → Claims.Faults s b (.cbpop r m) 0x55))
    ∧ (∀ (d r : SReg) entry cw, (Instr.launch d r).wf = true →
      let w (k : Nat) : Word := b.sreg (r.val + k)
      launchOk ((List.range 8).map w) = true → (w 0).toNat + 2 ^ 32 * (w 1).toNat = entry → entry < 2 ^ 48 →
      (w 5).toNat + 2 ^ 32 * (w 6).toNat = cw → cw < 2 ^ 48 → cw % 8 = 0 → isSpad cw = false →
      (7 ≤ b.level → Claims.Faults s b (.launch d r) 0x32)
      ∧ (b.level < 7 → ((w 3).extractLsb' 16 2).toNat < b.cls → Claims.Faults s b (.launch d r) 0x35))
    ∧ (∀ i x base l bad f, i.wf = true → Claims.laneLoad b i = some x → x.la.val = 0 → x.scope = none →
      b.vregs? x.reg x.regs = true → Claims.address b x.pair = some base →
      Claims.failing s (s.issuer 0) b.enabled (.read x.size) (x.ea base) = l :: bad →
      access s (s.issuer 0) (x.ea base l) (.read x.size) false = .error f → isTranslation f.code = false →
      ∃ (t : State) (b' : Band), exec i s = .next (t.setBand b') ∧ Claims.LaneTrap b b' i (l :: bad) f
        ∧ (∀ j lane, j < x.regs → lane < 96 → b'.vlane (x.reg + j) lane = if b.enabled.getLsbD lane = true ∧ lane ∉ l :: bad then
            x.value (Claims.laneBytes s (s.issuer 0) (x.ea base lane) x.size) j else b.vlane (x.reg + j) lane)
        ∧ b'.sregs = b.sregs ∧ t.mem = s.mem ∧ t.spad = s.spad ∧ t.rmem = s.rmem ∧ t.remotes = s.remotes)
    ∧ (∀ i x base l bad f, i.wf = true → Claims.laneStore b i = some x → b.vregs? x.reg x.regs = true →
      Claims.address b x.pair = some base →
      Claims.failing s (s.issuer 0) b.enabled (.write x.size) (x.ea base) = l :: bad →
      access s (s.issuer 0) (x.ea base l) (.write x.size) false = .error f → isTranslation f.code = false →
      (∀ w ∈ Claims.laneWrites s b x base, busyLoc s x.size w.1 = false) →
      ∃ t b', exec i s = .next t ∧ Claims.LaneTrap b b' i (l :: bad) f ∧ b'.sregs = b.sregs ∧ b'.vregs = b.vregs
        ∧ Claims.Stored s t b' (Claims.laneWrites s b x base))
    ∧ (∀ la d a i, (Instr.lds la d a i).wf = true → Claims.address b a.val = none → Claims.Faults s b (.lds la d a i) 0x10)
    ∧ (∀ la d a i x, (Instr.lds la d a i).wf = true → Claims.address b a.val = some x → b.path.limm = none →
      ((x + 4 * i.toNat) % 2 ^ 48) % 4 ≠ 0 → Claims.Faults s b (.lds la d a i) 0x11)
    ∧ (∀ k, b.streams.find? k.val = none → Claims.Faults s b (.sreset k) 0x51)
    ∧ (∀ i r was now k, i.wf = true → Claims.tileStep i = some (r, was, now) → Claims.namesTile s b r k →
      (tileAt s s.myCore k).state ≠ was → Claims.Faults s b i 0x52)
    ∧ (∀ (r m : SReg) n, (Instr.cbpush r m).wf = true → (b.sreg r).toNat = n → n < 32 →
      sliceOwner s s.myCore (n / 8) = b.part → (s.core s.myCore).cbs.find? n = none → Claims.Faults s b (.cbpush r m) 0x54)
    ∧ (∀ (r m : SReg) n x, Claims.namesBuffer s b r n x → 1 ≤ (b.sreg m).toNat → (b.sreg m).toNat ≤ x.nslot →
      ((Instr.cbpush r m).wf = true → endBusy s x.prod = false → x.room < (b.sreg m).toNat → Claims.Faults s b (.cbpush r m) 0x56)
      ∧ ((Instr.cbpop r m).wf = true → endBusy s x.cons = false → x.available < (b.sreg m).toNat →
        Claims.Faults s b (.cbpop r m) 0x57))
    ∧ (∀ h g : SReg, windowOf s b.part (b.sreg h) (b.sreg (h.val + 1)) = none →
      ((Instr.swrel h g).wf = true → Claims.Faults s b (.swrel h g) 0x60)
      ∧ ((Instr.swacq h g).wf = true → Claims.Faults s b (.swacq h g) 0x60))
    ∧ (∀ (h g : SReg) n w, windowOf s b.part (b.sreg h) (b.sreg (h.val + 1)) = some (n, w) → (Instr.swrel h g).wf = true →
      b.sreg g ≠ w.gen + 1 → Claims.Faults s b (.swrel h g) 0x61)

/-- R142, R405, R407: outside trap mode, where the partition has a handler, trap and brk take their exception: trap with the
next word as its TPC, brk with itself. R407: an ILLEGAL or ILLEGAL_PRIV that stops a unit before any lane has acted: TPC is the
unit itself, a LIMM with it (R36). R83: a word that does not decode traps ILLEGAL. -/
def Obligations.TrapEntries : Prop :=
  (∀ s b, s.holds b → b.inTrap = false → (s.part b.part).handler ≠ 0 →
      (∀ c : BitVec 12, ∃ b', exec (.trap c) s = .next (s.setBand b')
        ∧ Claims.EntersTrap s b.advance b' (BitVec.ofNat 32 (0x10000 + c.toNat)) b.pc (b.pc + 4) (wordOf (.trap c)))
      ∧ (∀ c : BitVec 12, ∃ b', exec (.brk c) s = .next (s.setBand b')
        ∧ Claims.EntersTrap s b b' (BitVec.ofNat 32 (0x20000 + c.toNat)) b.pc b.pc (BitVec.ofNat 32 (0x280000 + c.toNat))))
  ∧ (∀ s b w, s.holds b → b.inTrap = false → (s.part b.part).handler ≠ 0 →
      (∃ b', trapIllegal s w = s.setBand b' ∧ Claims.EntersTrap s (Claims.atUnit b) b' 1 b.unitPC b.unitPC w)
      ∧ (∃ b', trapPriv s w = s.setBand b' ∧ Claims.EntersTrap s (Claims.atUnit b) b' 2 b.unitPC b.unitPC w))
  ∧ (∀ s b w, s.holds b → exec (.illegalInstructionWord w) s = .next (trapIllegal s w))

/-- R411, R412: a trap that finds no handler, and one in trap mode, kills the launch: no band of it is left, and it is marked
with the fault's code, or with DOUBLE_FAULT: ILLEGAL, ILLEGAL_PRIV, trap and brk (with the cause as its code, log 46), PATH_FULL, and
a fault at execution, here ADDR_FORM. In trap mode exit is such a fault, and tret while several trap entries are valid. -/
def Obligations.UnhandledTrapKills : Prop :=
  (∀ s b, s.holds b → (b.inTrap = true ∨ (s.part b.part).handler = 0) →
    let code (n : Nat) : Nat := if b.inTrap then 4 else n
    (∀ w, Claims.dead s (trapIllegal s w) b (code 1)) ∧ (∀ w, Claims.dead s (trapPriv s w) b (code 2))
    ∧ (∀ c : BitVec 12, (∃ t, exec (.trap c) s = .next t ∧ Claims.dead s t b (code (0x10000 + c.toNat)))
        ∧ ∃ t, exec (.brk c) s = .next t ∧ Claims.dead s t b (code (0x20000 + c.toNat)))
    ∧ (∀ inv (p : PReg) o, (Instr.pbr inv p o).wf = true →
      let taken := b.mask &&& (if inv then ~~~(b.pred p) else b.pred p)
      taken ≠ 0 → taken ≠ b.mask → (∀ k, k < b.tableSize → (b.entry k).v = true) →
      ∃ t, exec (.pbr inv p o) s = .next t ∧ Claims.dead s t b (code 3))
    ∧ (∀ la d a i, (Instr.lds la d a i).wf = true → Claims.address b a.val = none → (b.olog.free? 4).isSome = true →
      ∃ t, exec (.lds la d a i) s = .next t ∧ Claims.dead s t b (code 0x10)))
  ∧ (∀ s b, s.holds b → b.inTrap = true →
    (∃ t, exec .exit s = .next t ∧ Claims.dead s t b 4)
    ∧ (1 < b.valid.length → ∃ t, exec .tret s = .next t ∧ Claims.dead s t b 4))

/-- R143: tret in trap mode, with one trap entry and no atomic still to answer it: results of trap mode are written, and retire with
their weights (R441); MR and the activity mask come back, and the program path goes on at TPC. That its repetitions and its wait
go on with it, unless the handler has moved TPC, is the model's reading (log 14). Every other register keeps its value. -/
def Obligations.TrapReturn : Prop :=
  ∀ s b, s.holds b → b.inTrap = true → b.valid.length ≤ 1 → b.results.all (fun e => !e.inTrap || e.pending = 0) = true →
    b.mfaults = [] →
    let c := (b.results.filter (·.inTrap)).foldl (fun c e => e.writes.foldl Band.applyWrite c) b
    let owed (e : ResultEntry) : Nat := (e.weight.map fun k => ((s.part b.part).weights.getD k 0).toNat).getD 0
    let p := b.prog.getD b.pcur PathEntry.empty
    ∃ b', exec .tret s = .next (s.setBand b') ∧ b'.inTrap = false ∧ b'.mr = b.tmr ∧ b'.mask = b.tmask &&& b.occ ∧ b'.trp = []
      ∧ b'.sregs = c.sregs ∧ b'.vregs = c.vregs ∧ b'.results = b.results.filter (fun e => !e.inTrap)
      ∧ (b.energy + ((b.results.filter fun e => e.inTrap && !e.arrived).map owed).sum < 2 ^ 58 →
          b'.energy = b.energy + ((b.results.filter fun e => e.inTrap && !e.arrived).map owed).sum)
      ∧ b'.path = { p with
          pc := b.tpc.extractLsb' 2 46, limm := none
          rep := if p.pc = b.tpc.extractLsb' 2 46 then p.rep else none
          wait := if p.pc = b.tpc.extractLsb' 2 46 then p.wait else none }
      ∧ (∀ k, k ≠ b.pcur → b'.entry k = b.prog.getD k PathEntry.empty)
      ∧ (∀ q, (b'.latch q).write = none ∧ (b'.latch q).read = (b.latch q).read)
      ∧ { b' with inTrap := b.inTrap, mr := b.mr, mask := b.mask, trp := b.trp, tcur := b.tcur, sregs := b.sregs, vregs := b.vregs
                  results := b.results, prog := b.prog, latches := b.latches, boundary := b.boundary, energy := b.energy } = b

/-- R32, R138, R143: what only trap mode may do traps ILLEGAL_PRIV outside it. R32, R33, R138, R408: mfsr writes the word of its
register; a read of a LO word fills the pair's read latch. R32, R33, R34, R138, R139: mtsr in trap mode writes the register that
its number names: LO words wait in the write latch, a HI word commits its pair after the checks on the value, and a write that a
check refuses traps ILLEGAL. -/
def Obligations.SystemRegisters : Prop :=
  (∀ s b, s.holds b → b.inTrap = false →
      exec .tret s = .next (trapPriv s (wordOf .tret))
      ∧ (∀ d n, (Instr.mfsr d n).wf = true → Claims.privileged n.toNat → Claims.sysValue s b n.toNat ≠ none →
        exec (.mfsr d n) s = .next (trapPriv s (wordOf (.mfsr d n))))
      ∧ (∀ v n, (Instr.mtsr v n).wf = true → exec (.mtsr v n) s = .next (trapPriv s (wordOf (.mtsr v n)))))
  ∧ (∀ s b d n v, s.holds b → (Instr.mfsr d n).wf = true → (Claims.privileged n.toNat → b.inTrap = true) →
      Claims.sysValue s b n.toNat = some v →
      Claims.Ends s s (Claims.readLatched s b n.toNat) (.mfsr d n) (Claims.ofScalars [(d, v)]))
  ∧ (∀ s b v n, s.holds b → b.inTrap = true → (Instr.mtsr v n).wf = true →
      match Claims.sysWritten s b n.toNat (b.sreg v) with
      | some c => Claims.Ends s s c (.mtsr v n) (Claims.ofScalars [])
      | none => exec (.mtsr v n) s = .next (trapIllegal s (wordOf (.mtsr v n))))

/-- R31, R52, R136, R137: mode, modei and fmtset write a valid value; a value that is not valid traps ILLEGAL. -/
def Obligations.ModeForms : Prop :=
  ∀ s b, s.holds b →
    (∀ a, (Instr.mode a).wf = true →
      (Claims.validMode (b.sreg a) → Claims.Ends s s { b with mr := b.sreg a } (.mode a) (Claims.ofScalars []))
      ∧ (¬ Claims.validMode (b.sreg a) → exec (.mode a) s = .next (trapIllegal s (wordOf (.mode a)))))
    ∧ (∀ (h : BitVec 11) (l : BitVec 7), (Instr.modei h l).wf = true →
      (Claims.validMode ((0 : BitVec 13) ++ h ++ (0 : BitVec 1) ++ l) →
        Claims.Ends s s { b with mr := (0 : BitVec 13) ++ h ++ (0 : BitVec 1) ++ l } (.modei h l) (Claims.ofScalars []))
      ∧ (¬ Claims.validMode ((0 : BitVec 13) ++ h ++ (0 : BitVec 1) ++ l) →
        exec (.modei h l) s = .next (trapIllegal s (wordOf (.modei h l)))))
    ∧ (∀ f a, (Instr.fmtset f a).wf = true →
      (Claims.validFormat (b.sreg a) → ∃ c, Claims.Ends s s c (.fmtset f a) (Claims.ofScalars [])
        ∧ c.fmtReg f = b.sreg a ∧ (∀ g, g ≠ f.val → c.fmtReg g = b.fmtReg g) ∧ { c with fmts := b.fmts } = b)
      ∧ (¬ Claims.validFormat (b.sreg a) → exec (.fmtset f a) s = .next (trapIllegal s (wordOf (.fmtset f a)))))

/-- R37, R144: rwp outside trap mode sets the rewind state: the next word, the pinned names, MR and the activity mask. Names
that may not be pinned trap ILLEGAL. In trap mode it changes nothing (log 20). -/
def Obligations.RewindPoints : Prop :=
  ∀ s b a (n : Fin 64), s.holds b → (Instr.rwp a n).wf = true →
    let name (j : Nat) : Nat := (b.sreg (a.val + j / 4)).toNat / 2 ^ (8 * (j % 4)) % 2 ^ 8
    let good := (∀ j, j < n.val → if name j < 128 then name j ≠ 0 ∧ name j < 64 ∧ ¬ (60 ≤ name j ∧ name j ≤ 62)
      else name j - 128 < b.rf) ∧ ∀ j k, j < n.val → k < n.val → name j = name k → j = k
    (b.inTrap = true → Claims.Completes s b (.rwp a n) (Claims.ofScalars []))
    ∧ (b.inTrap = false → good → ∃ c, Claims.Ends s s c (.rwp a n) (Claims.ofScalars [])
      ∧ c.rwpc = b.pc + 4 ∧ c.rwn = n.val ∧ c.pinned = (List.range n.val).map name ∧ c.rwmr = b.mr ∧ c.rwmask = b.mask
      ∧ c.boundary = decide (1 < b.programPaths)
      ∧ { c with rwpc := b.rwpc, rwn := b.rwn, rwset := b.rwset, rwmr := b.rwmr, rwmask := b.rwmask, boundary := b.boundary } = b)
    ∧ (b.inTrap = false → ¬ good → exec (.rwp a n) s = .next (trapIllegal s (wordOf (.rwp a n))))

/-- R81, R129, R130: the branches and the call: the path goes to the target or on, and call links the next word in s1. R82,
R129, R130: the register branches take bits [47:32] from the PC, and read their register before s1 is written; a register whose
low two bits are not zero traps ILLEGAL. -/
def Obligations.Branches : Prop :=
  (∀ s b, s.holds b →
      (∀ i o taken, i.wf = true → Claims.branch b i = some (o, taken) →
        if taken then Claims.Jumps s b i (Claims.target b o) none else Claims.Completes s b i (Claims.ofScalars []))
      ∧ (∀ o, (Instr.call o).wf = true → Claims.Jumps s b (.call o) (Claims.target b o) (some ((Claims.nextPC b).extractLsb' 0 32))))
  ∧ (∀ s b i r link, s.holds b → i.wf = true → Claims.registerBranch i = some (r, link) →
      if (b.sreg r).toNat % 4 = 0 then
        Claims.Jumps s b i (Claims.registerPC b (b.sreg r)) (if link then some ((Claims.nextPC b).extractLsb' 0 32) else none)
      else exec i s = .next (trapIllegal s (wordOf i)))

/-- R84, R131, R132: pbr sends the active lanes whose bit is set to its target, with the windows that are open. With none, or with all, the path goes on whole; else
the lowest invalid entry of the table takes them, and the current path keeps the others; PATH_FULL where there is none. R133,
R134: rcv merges every other valid entry at its address into the current path, which takes over what is theirs (log 60); alone, the path goes on; else it waits at the
rcv, unless all valid entries then wait at one, where the lowest goes on. -/
def Obligations.PathForms : Prop :=
  (∀ s b inv (p : PReg) o, s.holds b → (Instr.pbr inv p o).wf = true →
      let taken := b.mask &&& (if inv then ~~~(b.pred p) else b.pred p)
      (taken = 0 → Claims.Completes s b (.pbr inv p o) (Claims.ofScalars []))
      ∧ (taken ≠ 0 → taken = b.mask → Claims.Jumps s b (.pbr inv p o) (Claims.target b o) none)
      ∧ (taken ≠ 0 → taken ≠ b.mask → ∀ e, (List.range b.tableSize).find? (fun k => !(b.entry k).v) = some e → e ≠ b.ix →
        ∃ c, exec (.pbr inv p o) s = .next (s.setBand c)
          ∧ c.entry e = { PathEntry.empty with v := true, pc := (Claims.target b o).extractLsb' 2 46, mask := taken }
          ∧ c.path = b.path.next ∧ c.mask = b.mask &&& ~~~taken
          ∧ (∀ k, k ≠ e → k ≠ b.ix → c.entry k = b.entry k)
          ∧ c.results = Claims.splitResults b.inTrap b.ix e b.results ∧ c.olog = Claims.splitLog b.inTrap b.ix e b.olog
          ∧ { c with prog := b.prog, trp := b.trp, mask := b.mask, boundary := b.boundary, results := b.results, olog := b.olog } = b)
      ∧ (taken ≠ 0 → taken ≠ b.mask → (∀ k, k < b.tableSize → (b.entry k).v = true) →
        b.inTrap = false → (s.part b.part).handler ≠ 0 → ∃ b', exec (.pbr inv p o) s = .next (s.setBand b')
          ∧ Claims.EntersTrap s (Claims.atUnit b) b' 3 b.unitPC b.unitPC (wordOf (.pbr inv p o))))
  ∧ (∀ s b, s.holds b →
      let q := b.valid.filter fun k => k ≠ b.ix && (b.entry k).pc = b.path.pc
      (q ≠ [] → ∃ c, exec .rcv s = .next (s.setBand c)
        ∧ (∀ l, l < 96 → c.mask.getLsbD l
            = ((b.mask.getLsbD l || q.any fun k => (b.entry k).mask.getLsbD l) && b.occ.getLsbD l))
        ∧ (∀ k ∈ q, c.entry k = PathEntry.empty) ∧ (∀ k, k ∉ q → k ≠ b.ix → c.entry k = b.entry k)
        ∧ c.path = { b.path.next with age := 0 }
        ∧ c.results.map Claims.unplaced = b.results.map Claims.unplaced ∧ c.olog.map Claims.unplacedLog = b.olog.map Claims.unplacedLog
        ∧ c.results.map (·.path) = b.results.map (fun r => if r.inTrap = b.inTrap ∧ r.path ∈ q then b.ix else r.path)
        ∧ c.olog.map (·.2.path) = b.olog.map (fun x => if b.inTrap = false ∧ x.2.path ∈ q then b.ix else x.2.path)
        ∧ c.deliveries = b.deliveries.map (fun d => if b.inTrap = false ∧ d.path ∈ q then { d with path := b.ix } else d)
        ∧ { c with prog := b.prog, trp := b.trp, mask := b.mask, results := b.results, olog := b.olog, deliveries := b.deliveries } = b)
      ∧ (q = [] → b.valid.length ≤ 1 → Claims.Completes s b .rcv (Claims.ofScalars []))
      ∧ (q = [] → 1 < b.valid.length → b.path.v = true → b.ix < b.tableSize →
        (∃ k ∈ b.valid, k ≠ b.ix ∧ (b.entry k).wait.map (·.kind) ≠ some .rcv) → Claims.Waits s b .rcv .rcv)
      ∧ (q = [] → 1 < b.valid.length → b.path.v = true → b.ix < b.tableSize →
        (∀ k ∈ b.valid, k ≠ b.ix → (b.entry k).wait.map (·.kind) = some .rcv) →
        ∃ c k, exec .rcv s = .next (s.setBand c) ∧ k ∈ b.valid ∧ (∀ j ∈ b.valid, (b.entry k).pc.toNat ≤ (b.entry j).pc.toNat)
          ∧ (c.entry k).pc = (b.entry k).pc + 1 ∧ (c.entry k).wait = none ∧ (c.entry k).mask = (b.entry k).mask
          ∧ (∀ j ∈ b.valid, j ≠ k → (c.entry j).pc = (b.entry j).pc ∧ (c.entry j).wait.map (·.kind) = some .rcv)
          ∧ { c with prog := b.prog, trp := b.trp } = b))

/-- R146, R147, R148: join, leave and gbar on the gang table of the core. join counts the threads that are new; leave takes
threads out, and an entry without members is free; gbar counts arrivals, and its path waits for the phases to change. -/
def Obligations.GangForms : Prop :=
  ∀ s b, s.holds b →
    (∀ a g, (Instr.join a).wf = true → (b.sreg a).toNat = g → g < 64 → sliceOwner s s.myCore (g / 16) = b.part →
      (∀ l ∈ laneList b.enabled, ∀ h, b.gang.find? l = some h → h = g) →
      let new := (laneList b.enabled).filter fun l => (b.gang.find? l).isNone
      let e := (Claims.gangHere s g).getD { count := 0, arrivals := 0, phase := false }
      (new = [] → e.count ≤ 3072 → Claims.Completes s b (.join a) (Claims.ofScalars []))
      ∧ (new ≠ [] → e.count + new.length ≤ 3072 → ∃ t gs,
        Claims.GangsBecome s t (fun k => if k = g then some (Claims.settled { e with count := e.count + new.length })
          else Claims.gangHere s k)
        ∧ (∀ l, gs.find? l = if l ∈ new then some g else b.gang.find? l)
        ∧ Claims.Ends s t { b.needBoundary with gang := gs } (.join a) (Claims.ofScalars [])))
    ∧ ((∀ l ∈ laneList b.enabled, b.gang.find? l = none) →
      Claims.Completes s b .leave (Claims.ofScalars []) ∧ Claims.Completes s b .gbar (Claims.ofScalars []))
    ∧ ((∃ l ∈ laneList b.enabled, ∃ g, g < 64 ∧ b.gang.find? l = some g) →
      (∃ t gs, Claims.GangsBecome s t (Claims.gangLeft s b) ∧ Claims.outOfGangs b b.enabled gs
        ∧ Claims.Ends s t { b.needBoundary with gang := gs } .leave (Claims.ofScalars []))
      ∧ (∃ t w, Claims.GangsBecome s t (fun g =>
            let n := (Claims.members b b.enabled g).length
            if g < 64 ∧ n ≠ 0 then (Claims.gangHere s g).map fun e => Claims.settled { e with arrivals := e.arrivals + n }
            else Claims.gangHere s g)
        ∧ exec .gbar s = .next (t.setBand (b.needBoundary.setPath { b.path with wait := some w })) ∧ w.kind = .gbar
        ∧ w.cap.lanes = b.enabled
        ∧ ∀ g p, (g, p) ∈ w.phases ↔ g < 64 ∧ Claims.members b b.enabled g ≠ [] ∧ p = (Claims.gangHere s g).any (·.phase)))

/-- R152, R153, R296, R298: a band that is not eligible goes on at regroup; one without a partner waits at most 256 clocks; two
that may fuse exchange their registers for three clocks a register, and then one band has the threads of both, by ascending TID,
and the other's slot is free. -/
def Obligations.Regrouping : Prop :=
  (∀ s b, s.holds b →
    (eligible s s.cur b = false → Claims.Completes s b .regroup (Claims.ofScalars []))
    ∧ (eligible s s.cur b = true → regroupPartner s b = none → ∃ w, exec .regroup s = .next (s.setBand
        { b.setPath { b.path with wait := some w } with fusing := none }) ∧ w.kind = .regroup ∧ w.left = 256)
    ∧ (∀ n p, eligible s s.cur b = true → regroupPartner s b = some (n, p) → ∃ c d v w, exec .regroup s = .next
        { s.setBand c with bands := (s.setBand c).bands.put n d }
        ∧ c = { b.setPath { b.path with wait := some v } with fusing := some n } ∧ v.kind = .regroup ∧ v.left = 3 * b.rf
        ∧ d = { p.setPath { p.path with wait := some w } with fusing := some s.cur } ∧ w.kind = .regroup ∧ w.left = 3 * p.rf))
  ∧ (∀ s n b w, Claims.pathWaits s n b.ix b w .regroup → b.fusing = none → (w.left = 0 ∨ (s.slot n).preq = true) →
    Claims.PathWakes s n b.ix b (.regroupTimeout n))
  ∧ (∀ s n m (k x : Band), s.bands.find? n = some k → s.bands.find? m = some x → k.inTrap = false → k.fusing = some m → x.fusing = some n →
    k.bid.toNat < x.bid.toNat → (k.path.wait.all fun w => w.left = 0) = true →
    (laneList k.occ).length + (laneList x.occ).length ≤ 96 →
    ∃ t c, ∃ src : Nat → Bool × Nat, exec (.fusionComplete n m) s = .next t ∧ t.bands.find? n = some c ∧ t.bands.find? m = none
      ∧ c.occ = firstLanes ((laneList k.occ).length + (laneList x.occ).length) ∧ c.mask = c.occ ∧ c.lnch = k.lnch ∧ c.bid = k.bid
      ∧ c.path.pc = k.path.pc + 1 ∧ c.path.wait = none ∧ c.boundary = true
      ∧ (∀ l, l < (laneList k.occ).length + (laneList x.occ).length →
        let y := if (src l).1 then x else k
        y.occ.getLsbD (src l).2 = true ∧ (∀ r, r < k.rf → c.vlane r l = y.vlane r (src l).2)
        ∧ c.tids.getD l 0 = y.tids.getD (src l).2 0 ∧ c.gang.find? l = y.gang.find? (src l).2
        ∧ (∀ p, p < 8 → (c.pred p).getLsbD l = (y.pred p).getLsbD (src l).2)
        ∧ ∀ j, j < l → src j ≠ src l ∧ (c.tids.getD j 0).toNat ≤ (c.tids.getD l 0).toNat))

/-- R148, R246, R272: what ends the wait of a gbar, an mwait and a gstop. R12, R291: the wait of a form ends, once what it waits for
is there, with the effect that issuing the form now has (a stream store at the position that it has captured, R194), and the path
goes on; while the form would still wait, nothing happens. A
trap that it takes instead waits until the instructions before it have retired (R142, R407). The band is as the form left it, but for
launches of it that have ended since. R139, R198, R206 to R211, R213, R227, R262, R269, R277, R332: for each of these waits, what
suffices to end it, in terms of the operands that the form captured, and what the machine holds then; of the stores, the linear ones. -/
def Obligations.WaitEnds : Prop :=
  (∀ s n k b w,
      (Claims.pathWaits s n k b w .gbar → (∀ e ∈ w.phases, ((s.core (coreOf n)).gangs.find? e.1).any (·.phase) ≠ e.2) →
        Claims.PathWakes s n k b (.gbarUnblock n k))
      ∧ (Claims.pathWaits s n k b w .mwait →
        (∀ c ∈ (s.quad (quadOf n)).queue, c.ref.lnch = b.lnch → c.ref.bid = b.bid → ∀ e ∈ w.phases, e.1 ≠ c.seq) →
        Claims.PathWakes s n k b (.mwaitWake n k))
      ∧ (Claims.pathWaits s n k b w .gstop → w.cap.la = 0 →
        (∀ g, (s.part b.part).graphs.find? (w.cap.scalars.getD 0 0).toNat = some g → g.state ≠ 1 ∧ g.state ≠ 2) →
        Claims.PathWakes s n k b (.gstopWaitWake n k)))
  ∧ (∀ s n b w i e x, Claims.wakeStep n b.ix i e → Claims.wakeKind e = some w.kind → Claims.waitsIn s n b i w x →
      let s' := Claims.again s n b w x
      Claims.sameRecord s' w i → Claims.waitOver s' { b with streams := x } i →
      ∃ t c, exec e s = .next t ∧ exec i s' = .next { t with cur := n } ∧ t.cur = s.cur
        ∧ t.bands.find? n = some c ∧ c.path.wait = none ∧ c.path.pc = b.path.next.pc)
  ∧ (∀ s n b w i e x, Claims.wakeStep n b.ix i e → Claims.wakeKind e = some w.kind → Claims.waitsIn s n b i w x →
      let s' := Claims.again s n b w x
      Claims.sameRecord s' w i →
      ∃ t, exec i s' = .next t
        ∧ (t.band.path.wait.isSome = true → exec e s = .next s)
        ∧ (t.band.path.wait = none → exec e s = .next (if trapHeld n s t then s else { t with cur := s.cur })))
  ∧ (∀ s n k b w, w.cap.la = 0 →
    let r := Claims.resumed s n k b w
    let x (j : Nat) : Word := w.cap.scalars.getD j 0
    let u (cls : Nat) : Issuer := Claims.waitIssuer n b w cls
    let unchanged (t : State) (c : Band) : Prop := t.mem = s.mem ∧ t.spad = s.spad ∧ c.sregs = b.sregs ∧ c.vregs = b.vregs
    (Claims.pathWaits s n k b w .cntw → ∀ a p, Claims.waitAddress w 0 = some a → a % 8 = 0 → isSpad a = false →
        access r (u 5) a (.read 8) true = .ok p → (x 2).toNat + 2 ^ 32 * (x 3).toNat ≤ counterRead r (u 5) p.1 →
        (∀ l, Claims.homeLine p.1 = some (none, l) → engineTurn r (owningCluster l) (corePort (coreOf n) (owningCluster l)) l b.part = true) →
        Claims.WaitEnd s n k b (.cntwWake n k) unchanged)
    ∧ (Claims.pathWaits s n k b w .cbwait → ∀ y, Claims.waitBuffer r (coreOf n) b.part (x 0) y → 1 ≤ (x 1).toNat → (x 1).toNat ≤ y.nslot →
        (x 2 = 0 ∧ (x 1).toNat ≤ y.available ∨ x 2 = 1 ∧ (x 1).toNat ≤ y.room) → Claims.WaitEnd s n k b (.cbwaitWake n k) unchanged)
    ∧ (Claims.pathWaits s n k b w .swacq → ∀ j v, windowOf r b.part (x 0) (x 1) = some (j, v) → (v.gen - x 2).toNat < 2 ^ 31 →
        Claims.WaitEnd s n k b (.swacqWake n k) unchanged)
    ∧ (Claims.pathWaits s n k b w .lwait → (if x 0 = 0 then b.children = [] else x 0 ∉ b.children) →
        Claims.WaitEnd s n k b (.lwaitWake n k) fun t c => t.mem = s.mem ∧ c.vregs = b.vregs
          ∧ c.kills = (if x 0 = 0 then [] else b.kills.erase (x 0)) ∧ c.killsExtra = (if x 0 = 0 then 0 else b.killsExtra)
          ∧ (Claims.plainDest (destOf w.cap.word) → c.sreg (destOf w.cap.word)
              = if x 0 = 0 then BitVec.ofNat 32 (b.kills.length + b.killsExtra) else Claims.truth (x 0 ∈ b.kills)))
    ∧ (Claims.pathWaits s n k b w .tcommit → ∀ m y, Claims.waitTile r (coreOf n) b.part (x 0) m y → y.state = 1 →
        graphTile r (coreOf n) m = false → storesPending r m y = false →
        Claims.WaitEnd s n k b (.tcommitWake n k) fun t c => unchanged t c ∧ tileAt t (coreOf n) m = { y with state := 2 })
    ∧ (Claims.pathWaits s n k b w .trel → ∀ m y, Claims.waitTile r (coreOf n) b.part (x 0) m y → y.state = 3 →
        graphTile r (coreOf n) m = false → y.readers = 0 →
        Claims.WaitEnd s n k b (.trelWake n k) fun t c => unchanged t c ∧ tileAt t (coreOf n) m = { y with state := 0, torn := false })
    ∧ (Claims.pathWaits s n k b w .tstOpen → ∀ m y, Claims.waitTile r (coreOf n) b.part (x 0) m y → x 1 = 1 → y.state = 2 →
        y.ver % 2 = 0 → Claims.WaitEnd s n k b (.tstAonOpenWake n k) fun t c => unchanged t c
          ∧ tileAt t (coreOf n) m = { y with ver := (y.ver + 1) % 2 ^ 16, torn := false, opener := n })
    ∧ (Claims.pathWaits s n k b w .tstClose → ∀ m y, Claims.waitTile r (coreOf n) b.part (x 0) m y → x 1 = 0 → y.ver % 2 = 1 →
        storesPending r m y = false → Claims.WaitEnd s n k b (.tstAonCloseWake n k) fun t c => unchanged t c
          ∧ tileAt t (coreOf n) m = { y with ver := (y.ver + 1) % 2 ^ 16 })
    ∧ (Claims.pathWaits s n k b w .tldVer → ∀ m y off z, Claims.waitTile r (coreOf n) b.part (x 0) m y → 1 ≤ z → z ≤ 16 → off < 2 ^ 20 →
        off % 4 = 0 → x 1 = BitVec.ofNat 32 (off + 2 ^ 28 * (z - 1)) → (∀ j, j < z → Claims.plainDest ((destOf w.cap.word).val + j)) →
        y.state = 2 → off + 4 * z ≤ 16 * y.len → y.torn = false → y.ver % 2 = 0 →
        (∀ j, j < 4 * z → s.spadPoison.has ((tileBase (coreOf n) m y + off + j) / 16) = false) →
        Claims.WaitEnd s n k b (.tldVerWake n k) fun t c => t.mem = s.mem ∧ t.spad = s.spad ∧ c.vregs = b.vregs
          ∧ (∀ j, j < z → c.sreg ((destOf w.cap.word).val + j)
              = BitVec.ofNat 32 (s.spad.num (tileBase (coreOf n) m y + off + 4 * j) 4))
          ∧ ∀ j, j < (destOf w.cap.word).val ∨ (destOf w.cap.word).val + z ≤ j → c.sregs.getD j 0 = b.sregs.getD j 0)
    ∧ (Claims.pathWaits s n k b w .tileStore → ∀ i m o a, i.wf = true → Claims.linearStore i m o → w.cap.word = wordOf i → w.cap.wide = none →
        w.cap.vecs.length = (m + 3) / 4 → Claims.waitAddress w 0 = some a →
        let base := (a + m * o.toNat) % 2 ^ 48
        (∀ l ∈ laneList w.cap.lanes, ∃ p, access r (u 0) ((base + l * m) % 2 ^ 48) (.write m) false = .ok p) →
        (∀ e ∈ Claims.waitWrites r (u 0) w base m, busyLoc r m e.1 = false) →
        Claims.WaitEnd s n k b (.tileStoreWake n k) fun t c => c.sregs = b.sregs ∧ c.vregs = b.vregs
          ∧ (∀ j, t.mem.byte j = Claims.lastByte Claims.inMem (Claims.waitWrites r (u 0) w base m) j (s.mem.byte j))
          ∧ ∀ j, t.spad.byte j = Claims.lastByte Claims.inSpad (Claims.waitWrites r (u 0) w base m) j (s.spad.byte j))
    ∧ (Claims.pathWaits s n k b w .launch → ∀ entry cw h m t', launchOk w.cap.scalars = true →
        Claims.waitAddress w 0 = some entry → Claims.waitAddress w 5 = some cw → cw % 8 = 0 → isSpad cw = false → b.level < 7 →
        b.cls ≤ ((x 3).extractLsb' 16 2).toNat → launchFull r r.band = false → atomicsPend r r.band false = false →
        makeLaunch r (Claims.childLaunch r r.band x entry cw) ((x 3).extractLsb' 0 11).toNat (b.disp1 b.level).toNat
          (List.replicate (64 * ((x 3).extractLsb' 0 11).toNat) 0) (x 4).toNat (displayOf b.disp (b.level + 1)) = some (h, m, t') →
        Claims.WaitEnd s n k b (.launchWaitWake n k) fun t c => c.vregs = b.vregs
          ∧ c.children = (if h = 0 then b.children else b.children ++ [h])
          ∧ (Claims.plainDest (destOf w.cap.word) → c.sreg (destOf w.cap.word) = h)
          ∧ (((x 3).extractLsb' 16 2).toNat ≠ 0 → h = s.lnchNext ∧ ∃ l, t.launches.find? h.toNat = some l
            ∧ l.entry = BitVec.ofNat 48 entry ∧ l.n = (x 2).toNat ∧ l.level = b.level + 1 ∧ l.cw = cw ∧ l.part = b.part ∧ l.nbound = 0))
    ∧ (Claims.pathWaits s n k b w .qput → ∀ j y ws y', (x 0).toNat = j → j < 64 → (s.part b.part).tasks.find? j = some y →
        let task (l : Nat) : Word × Word := ((w.cap.vecs.getD 0 []).getD l 0, (w.cap.vecs.getD 1 []).getD l 0)
        (∀ l ∈ laneList w.cap.lanes, nodeKnown s b.part (task l).1 = true) →
        appendTasks ((laneList w.cap.lanes).map task) y y.wr = (ws, y') → y.wr - y.rd + ws.length ≤ y.words →
        atomicsPend r r.band false = false →
        Claims.WaitEnd s n k b (.qputWaitWake n k) fun t c => c.sregs = b.sregs ∧ c.vregs = b.vregs
          ∧ (t.part b.part).tasks.find? j = some { y' with wr := y.wr + ws.length })
    ∧ (Claims.pathWaits s n k b w .mtxPost → ∀ i fn id ps r0, i.wf = true → Claims.posts i = some (fn, id, ps, r0) → w.cap.word = wordOf i →
        let q := quadOf n
        recordOk fn w.cap.mr w.cap.scalars = true → (fn = 1 ∨ fn = 4 ∨ fn = 5 → (x 1).toNat < 2 ^ 16) →
        (∀ a ∈ accsOf fn w.cap.scalars, ∀ o, (s.quad q).accOwn.find? a = some o → ∃ y, o = .band y ∧ y.lnch = b.lnch ∧ y.bid = b.bid) →
        (∀ j, fn = 2 → mloopCb w.cap.scalars = some j → ∃ y, Claims.waitBuffer r (coreOf n) b.part (BitVec.ofNat 32 j) y
          ∧ (y.cons = none ∨ ∃ o, y.cons = some (.band o) ∧ o.lnch = b.lnch ∧ o.bid = b.bid)) →
        ((s.quad q).queue.filter fun c => c.stage ≠ .suspended).length < 64 → Claims.named s q b id = none →
        (∀ p ∈ ps, p ≠ 63 → Claims.named s q b p = none → ∀ e, b.cmdEnds.find? p = some e → e.failed = false) →
        Claims.WaitEnd s n k b (.mtxPostWake n k) fun t c => unchanged t c
          ∧ ∃ y, (t.quad q).queue = (s.quad q).queue ++ [y] ∧ y.fn = fn ∧ y.id = id ∧ y.rcd = w.cap.scalars ∧ y.mr = w.cap.mr
            ∧ y.stage = .posted ∧ y.done = 0 ∧ y.u = u 2))

/-- R16, R37, R255, R293, R441: a result of a long-latency form arrives, and its weight is charged. With its windows closed it is
written, a mask register to the path that issued it, and the entry is free; else the entry keeps it. A pinned register counts as
written then. A band that has ended leaves its slot with its last result. -/
def Obligations.ResultArrivals : Prop :=
  ∀ s n (k : Nat) b e, s.bands.find? n = some b → b.results[k]? = some e → e.arrived = false → e.pending = 0 →
    (b.results.map (·.id)).Nodup → (∀ x ∈ b.results, x.arrived = true → x.closed = false) →
    (b.occ ≠ 0 → ∃ c, exec (.resultArrival n k) s = .next (match e.weight with
          | none => { s with bands := s.bands.put n c }
          | some x => charge { s with bands := s.bands.put n c } b.part (refOf b) x 1)
      ∧ (let w := e.writes.foldl (Band.applyWriteOn e.path) b
        if e.closed = true then c.sregs = w.sregs ∧ c.vregs = w.vregs ∧ c.mask = w.mask ∧ c.prog = w.prog ∧ c.trp = w.trp
          ∧ c.results = b.results.filter fun x => x.id ≠ e.id
        else c.sregs = b.sregs ∧ c.vregs = b.vregs ∧ c.mask = b.mask ∧ c.prog = b.prog ∧ c.trp = b.trp
          ∧ c.results = b.results.map fun x => if x.id = e.id then { x with arrived := true } else x)
      ∧ c.boundary = (b.boundary || e.writes.any fun w => w.mask ≠ 0 && b.isPinned w.vec w.reg)
      ∧ c.energy = b.energy ∧ c.redirected = b.redirected.filter fun i => i ≠ e.id)
    ∧ (b.occ = 0 → b.results = [e] → e.closed = true → ∃ t, exec (.resultArrival n k) s = .next t ∧ t.bands.find? n = none
      ∧ ∀ l, s.launches.find? b.lnch.toNat = some l →
          ∃ l', t.launches.find? b.lnch.toNat = some l' ∧ l'.exited = l.exited + 1)

/-- R89 to R94: REP runs its target as its first repetition, with the others to follow, and LIMM runs its follower with the wide
immediate; a target that may not be repeated, or a word that may not follow, traps ILLEGAL. With a scalar form as the target or
the follower the unit writes its result and goes on. That REP finds a target that is illegal with the present scalars and MR, and
keeps its state by path, is log 13. -/
def Obligations.Prefixes : Prop :=
  ∀ s b w i, s.holds b → fetchWord s (b.pc + 4) = .ok w → decodePlain w.toNat = .ok i →
    (∀ (n : Fin 64) (m : BitVec 3),
      if targetOk w m = true ∧ illegalAlone i s = false then
        exec (.rep n m) s = exec i (s.setBand (b.setPath
          { b.path with pc := b.path.pc + 1, rep := some { count := n.val + 1, remaining := n.val + 1, mask := m } }))
      else exec (.rep n m) s = .next (trapIllegal s (BitVec.ofNat 32 (0xC0000000 + n.val * 2 ^ 21 + m.toNat * 2 ^ 18))))
    ∧ (∀ h : BitVec 27,
      if followerOk w = true then
        exec (.limm h) s = exec i (s.setBand (b.setPath { b.path with pc := b.path.pc + 1, limm := some h }))
      else exec (.limm h) s = .next (trapIllegal s (BitVec.ofNat 32 (0xC8000000 + h.toNat))))
    ∧ (∀ (n : Fin 64) (m : BitVec 3) e,
      let c := b.setPath { b.path with pc := b.path.pc + 1, rep := some { count := n.val + 1, remaining := n.val + 1, mask := m } }
      targetOk w m = true → illegalAlone i s = false → Claims.salu c i = some e →
      ∃ b', exec (.rep n m) s = .next (s.setBand b') ∧ (∀ w ∈ e.scalars, b'.sreg w.1 = b.scalarAfter w.1 w.2)
        ∧ Frame c b' (fun r => ∃ w ∈ e.scalars, w.1 = r) (fun _ => False) 0 ∧ GoesOn c b')
    ∧ (∀ (h : BitVec 27) e,
      let c := b.setPath { b.path with pc := b.path.pc + 1, limm := some h }
      followerOk w = true → Claims.salui c i = some e →
      ∃ b', exec (.limm h) s = .next (s.setBand b') ∧ (∀ w ∈ e.scalars, b'.sreg w.1 = b.scalarAfter w.1 w.2)
        ∧ Frame c b' (fun r => ∃ w ∈ e.scalars, w.1 = r) (fun _ => False) 0 ∧ GoesOn c b')

/-- R10, R254, R255: exit takes the enabled lanes out of the band and out of their gangs. The path goes on while it has lanes;
else it ends; and a band without threads or results leaves its slot. -/
def Obligations.Exits : Prop :=
  ∀ s b, s.holds b → b.inTrap = false → b.mfaults = [] →
    let x := b.enabled
    (x = 0 → Claims.Completes s b .exit (Claims.ofScalars []))
    ∧ (x ≠ 0 → b.occ &&& ~~~x ≠ 0 → ∃ t gs ts, Claims.GangsBecome s t (Claims.gangLeft s b) ∧ Claims.outOfGangs b x gs
      ∧ (∀ l, Tab.find? ts l = if x.getLsbD l then none else b.tids.find? l)
      ∧ (b.mask &&& ~~~x ≠ 0 → Claims.Ends s t
          { b with occ := b.occ &&& ~~~x, mask := b.mask &&& ~~~x, gang := gs, tids := ts } .exit (Claims.ofScalars []))
      ∧ (b.mask &&& ~~~x = 0 → ∃ c, exec .exit s = .next (t.setBand c) ∧ c.path.v = false ∧ c.occ = b.occ &&& ~~~x
          ∧ c.gang = gs ∧ c.tids = ts ∧ (∀ e ∈ c.results, e.inTrap = false → e.windows.find? b.ix = none)
          ∧ ((∀ e ∈ b.results, e.arrived = false) → c.sregs = b.sregs ∧ c.vregs = b.vregs)))
    ∧ (x ≠ 0 → b.mask &&& ~~~x = 0 → b.occ &&& ~~~x = 0 → b.results = [] → ∃ t, exec .exit s = .next t
      ∧ t.bands.find? s.cur = none ∧ (t.slot s.cur).state = 0
      ∧ ∀ l, s.launches.find? b.lnch.toNat = some l →
          ∃ l', t.launches.find? b.lnch.toNat = some l' ∧ l'.exited = l.exited + 1)

/-- R261, R262, R268, R277: launch makes a child with its frame and writes its number, or waits while the band has its most
children, or atomics that its release has to wait for (R312); lwait writes what became of its children, with an acquire, or waits; qput appends the tasks of its lanes to a queue
with room, after the same release, or waits. -/
def Obligations.LaunchForms : Prop :=
  ∀ s b, s.holds b →
    (∀ (d r : SReg) entry cw, (Instr.launch d r).wf = true →
      let w (k : Nat) : Word := b.sreg (r.val + k)
      launchOk ((List.range 8).map w) = true → (w 0).toNat + 2 ^ 32 * (w 1).toNat = entry → entry < 2 ^ 48 →
      (w 5).toNat + 2 ^ 32 * (w 6).toNat = cw → cw < 2 ^ 48 → cw % 8 = 0 → isSpad cw = false →
      b.level < 7 → b.cls ≤ ((w 3).extractLsb' 16 2).toNat →
      (launchFull s b = true ∨ atomicsPend s b false = true → Claims.Waits s b (.launch d r) .launch)
      ∧ (∀ h n t, launchFull s b = false → atomicsPend s b false = false →
        makeLaunch s (Claims.childLaunch s b w entry cw) ((w 3).extractLsb' 0 11).toNat (b.disp1 b.level).toNat
          (List.replicate (64 * ((w 3).extractLsb' 0 11).toNat) 0) (w 4).toNat (displayOf b.disp (b.level + 1)) = some (h, n, t) →
        Claims.Ends s t { b.needBoundary with children := if h = 0 then b.children else b.children ++ [h] } (.launch d r)
          (Claims.ofScalars [(d, h)])
        ∧ (((w 3).extractLsb' 16 2).toNat ≠ 0 → h = s.lnchNext ∧ ∃ l, t.launches.find? h.toNat = some l
          ∧ l.entry = BitVec.ofNat 48 entry ∧ l.n = (w 2).toNat ∧ l.level = b.level + 1 ∧ l.cw = cw ∧ l.kind = .child s.me
          ∧ l.part = b.part ∧ l.nbound = 0)))
    ∧ (∀ d h : SReg, (Instr.lwait d h).wf = true →
      (b.sreg h = 0 → if b.children = [] then
          Claims.Ends s (acquire s s.myCore .fabric) { b with kills := [], killsExtra := 0 } (.lwait d h)
            (Claims.ofScalars [(d, BitVec.ofNat 32 (b.kills.length + b.killsExtra))])
        else Claims.Waits s b (.lwait d h) .lwait)
      ∧ (b.sreg h ≠ 0 → if b.sreg h ∈ b.children then Claims.Waits s b (.lwait d h) .lwait
        else Claims.Ends s (acquire s s.myCore .fabric) { b with kills := b.kills.erase (b.sreg h) } (.lwait d h)
          (Claims.ofScalars [(d, Claims.truth (b.sreg h ∈ b.kills))])))
    ∧ (∀ (v q : SReg) n x, (Instr.qput v q).wf = true → b.vregs? v.val 2 = true → (b.sreg q).toNat = n → n < 64 →
      (s.part b.part).tasks.find? n = some x →
      (∀ l ∈ laneList b.enabled, ∃ a m, (s.part b.part).templates.find? ((b.vlane v.val l).toNat / 2 ^ 16) = some (a, m)
        ∧ (b.vlane v.val l).toNat % 2 ^ 16 < m) →
      ∀ ws x', appendTasks ((laneList b.enabled).map fun l => (b.vlane v.val l, b.vlane (v.val + 1) l)) x x.wr = (ws, x') →
      if x.wr - x.rd + ws.length ≤ x.words ∧ atomicsPend s b false = false then
        ∃ t, exec (.qput v q) s = .next t ∧ t.bands = s.bands.put s.cur b.needBoundary.advance
          ∧ (t.part b.part).tasks.find? n = some { x' with wr := x.wr + ws.length }
      else Claims.Waits s b (.qput v q) .qput)

/-- R224 to R228, R28, R241: a post whose record passes its checks waits for a place in the queue and for its id, or puts its
command at the end of the queue, after the commands that the orders of R228 put before it. The band goes on, and owns the
accumulators that the command names. R246, R247: mwait goes on when none of the commands that it names is left, and else waits
for them; mquery writes the two words of its id. -/
def Obligations.MatrixPosts : Prop :=
  (∀ s b i fn id ps r, s.holds b → i.wf = true → Claims.posts i = some (fn, id, ps, r) → (b.inTrap = true ∨ b.mfaults = []) →
      let w := (List.range (recordLength fn)).map fun k => b.sreg (r.val + k)
      let q := s.myQuad
      let cb := if fn = 2 then mloopCb w else none
      recordOk fn b.mr w = true → (fn = 1 ∨ fn = 4 ∨ fn = 5 → (w.getD 1 0).toNat < 2 ^ 16) →
      (∀ a ∈ accsOf fn w, ∀ o, (s.quad q).accOwn.find? a = some o → ∃ x, o = .band x ∧ x.lnch = b.lnch ∧ x.bid = b.bid) →
      (∀ n, cb = some n → sliceOwner s s.myCore (n / 8) = b.part ∧ ∃ x, (s.core s.myCore).cbs.find? n = some x ∧
        (x.cons = none ∨ ∃ o, x.cons = some (.band o) ∧ o.lnch = b.lnch ∧ o.bid = b.bid)) →
      let full := 64 ≤ ((s.quad q).queue.filter fun c => c.stage ≠ .suspended).length ∨ Claims.named s q b id ≠ none
      (full → Claims.Waits s b i .mtxPost)
      ∧ (¬ full → (∀ p ∈ ps, p ≠ 63 → Claims.named s q b p = none → ∀ e, b.cmdEnds.find? p = some e → e.failed = false) →
        ∃ t c, exec i s = .next t ∧ (t.quad q).queue = (s.quad q).queue ++ [c] ∧ t.bands = s.bands.put s.cur b.needBoundary.advance
          ∧ c.fn = fn ∧ c.id = id ∧ c.rcd = w ∧ c.mr = b.mr ∧ c.stage = .posted ∧ c.done = 0 ∧ c.ref = s.me ∧ c.u = s.issuer 2
          ∧ c.accs = accsOf fn w ∧ c.cb = cb
          ∧ c.preds = (ps.filter fun p => p ≠ 63).filterMap (fun p => (Claims.named s q b p).map (·.seq))
          ∧ c.after = ((s.quad q).queue.filter fun x => ordered x c).map (·.seq)
          ∧ (∀ a ∈ c.accs, ∃ x, (t.quad q).accOwn.find? a = some (.band x) ∧ x.lnch = b.lnch ∧ x.bid = b.bid)
          ∧ (t.quad q).acc = (s.quad q).acc
          ∧ { t with quads := s.quads, cores := s.cores, bands := s.bands, nextId := s.nextId } = s))
  ∧ (∀ s b, s.holds b → (b.inTrap = true ∨ b.mfaults = []) →
      (∀ i : Fin 64, let cs := (Claims.commands s s.myQuad b).filter fun c => i.val = 63 || c.id = i.val
        (cs = [] → Claims.Completes s b (.mwait i) (Claims.ofScalars []))
        ∧ (cs ≠ [] → ∃ w, exec (.mwait i) s = .next (s.setBand (b.setPath { b.path with wait := some w })) ∧ w.kind = .mwait
            ∧ w.phases.map Prod.fst = cs.map (·.seq)))
      ∧ (∀ (i : Fin 64) (d : SReg), (Instr.mquery i d).wf = true → Claims.Completes s b (.mquery i d)
          (Claims.ofScalars [(d, (Claims.queried s s.myQuad b i.val).1), (d.val + 1, (Claims.queried s s.myQuad b i.val).2)])))

/-- R227, R229, R231, R235, R240, R243, R244: a posted command that nothing holds back issues. mfmt and mzero zero their tiles
at once; the others check their operands and run, and retire later. -/
def Obligations.MatrixIssues : Prop :=
  ∀ s q (k : Nat) c, (s.quad q).queue[k]? = some c → c.stage = .posted → c.preds = [] → c.after = [] → unitTurn s q c = true →
    (c.fn = 0 ∨ c.fn = 3 → matrixBusy (s.quad q) = false → ∃ t, exec (.matrixCommandIssue q k) s = .next t
      ∧ (t.quad q).queue = Claims.replaced s q c { c with stage := .running }
      ∧ (∀ a i j, i < 32 → j < 32 → Claims.element t q a i j = if a ∈ c.accs then 0 else Claims.element s q a i j)
      ∧ (∀ a, (t.quad q).accFmt.find? a = if c.fn = 0 ∧ a ∈ c.accs then (if (c.rcd.getD 0 0).getLsbD 3 then some 1 else none)
          else (s.quad q).accFmt.find? a)
      ∧ { t with quads := s.quads } = s)
    ∧ (∀ fb, c.fn = 1 → transferBusy (s.quad q) = false → writerRuns s (q / 4) c = false →
      readFb s c.u (c.rcd.getD 7 0).toNat = .ok fb →
      (wldAddr c.rcd (kindBytes (half.kind (fbHalf fb 1))) 0 0 0) % kindBytes (half.kind (fbHalf fb 1)) = 0 →
      Claims.Starts s q k c { c with stage := .running, fb := fb })
    ∧ (∀ fb a x, c.fn = 2 → c.cb = none → matrixBusy (s.quad q) = false → writerRuns s (q / 4) c = false →
      ((c.rcd.getD 0 0).extractLsb' 0 10).toNat = a → sliceOwner s (q / 4) (a / 256) = c.u.part → tileAt s (q / 4) a = x →
      x.state = 2 → readFb s c.u (c.rcd.getD 6 0).toNat = .ok fb → ∃ t, exec (.matrixCommandIssue q k) s = .next t
        ∧ (t.quad q).queue = Claims.replaced s q c { c with stage := .running, fb := fb, reads := [a] }
        ∧ tileAt t (q / 4) a = { x with readers := x.readers + 1 } ∧ { t with quads := s.quads, cores := s.cores } = s)
    ∧ (∀ fb n x, c.fn = 2 → c.cb = some n → matrixBusy (s.quad q) = false → writerRuns s (q / 4) c = false →
      readFb s c.u (c.rcd.getD 6 0).toNat = .ok fb → (s.core (q / 4)).cbs.find? n = some x →
      (∀ j, j < x.nslot → sliceOwner s (q / 4) ((x.tile0 + j) / 256) = c.u.part) →
      (half.sc (fbHalf fb 0) = true → 2 ^ half.blk (fbHalf fb 0) ≤ depth (half.kind (fbHalf fb 0))) →
      Claims.Starts s q k c { c with stage := .running, fb := fb })
    ∧ (c.fn = 4 → transferBusy (s.quad q) = false → writerRuns s (q / 4) c = false →
      (let z := if accIs64 (s.quad q) ((c.rcd.getD 3 0).extractLsb' 0 3).toNat then 8 else 4
       (rowAddr c.rcd 0) % z = 0 ∧ (c.rcd.getD 2 0).toNat % z = 0) → Claims.Starts s q k c { c with stage := .running })
    ∧ (c.fn = 5 → transferBusy (s.quad q) = false → (∀ a, mstCompanion c.rcd = some a → accIs64 (s.quad q) a = false) →
      (rowAddr c.rcd 0) % mstBytes c.rcd = 0 → (c.rcd.getD 2 0).toNat % mstBytes c.rcd = 0 →
      Claims.Starts s q k c { c with stage := .running })

/-- R231, R235, R236, R238, R242, R243, R245, R70, R71: the steps of running commands. An image of a WLD takes its place in the
Saggar, and images that it overlaps lose theirs; a step of an MLOOP adds the products of its operands to its accumulator by the
arithmetic of AOR 1; an MLD loads its tile from 32 rows; a row of an MST is stored, and its companion with it. R358, R464: no
poisoned accumulator, and no port that is down, stands in the way. -/
def Obligations.MatrixSteps : Prop :=
  ∀ s q c,
    (List.find? (fun x : Cmd => x.stage = .running && (x.fn = 0 || x.fn = 3)) (s.quad q).queue = some c → ∃ t,
      exec (.mzeroMfmtRetire q) s = .next t ∧ Claims.retired s t q c c.done)
    ∧ (∀ raw bs, Claims.runs s q 1 c → transferBusy (s.quad q) = false → unitTurn s q c = true →
      let h := fbHalf c.fb 1
      let z := depth (half.kind h) * kindBytes (half.kind h)
      portsDown s c.u ((List.range 32).flatMap fun j => lineRuns z (wldAddr c.rcd 1 c.done j 0) z) = false →
      let at_ := (c.rcd.getD 4 0).toNat + c.done * (c.rcd.getD 5 0).toNat
      readBlocksOf s c h c.done (blockLen h) ((List.range 32).flatMap fun j => (List.range (blockCount h)).map fun k => (j, k))
        = .ok raw → compress h raw = some bs →
      imageLength h bs ≤ (c.rcd.getD 5 0).toNat → at_ + imageLength h bs ≤ 2 ^ 18 →
      ∃ t, exec (.wldImage q) s = .next t ∧ Claims.stepped s t q c (c.rcd.getD 6 0).toNat
        ∧ (t.quad q).images.find? at_ = some (makeImage h (imageLength h bs / 64) bs)
        ∧ (∀ e ∈ (t.quad q).images, e.1 ≠ at_ → e ∈ (s.quad q).images
            ∧ (e.1 + 64 * e.2.units ≤ at_ ∨ at_ + imageLength h bs / 64 * 64 ≤ e.1))
        ∧ t.mem = s.mem ∧ t.spad = s.spad)
    ∧ (∀ img a rows, List.find? (stepReady s q) (s.quad q).queue = some c → matrixBusy (s.quad q) = false → unitTurn s q c = true →
      stepFault (s.quad q) c = .ok img → stepInput s (q / 4) c = some a →
      rowsA s (fbHalf c.fb 0) a (c.rcd.getD 1 0).toNat (List.range 32) = .ok rows →
      let x := ((c.rcd.getD 5 0).extractLsb' 16 3).toNat
      let k := half.kind (fbHalf c.fb 0)
      (s.quad q).accBad.has x = false → Claims.ownerAlive s q x → ∃ t, exec (.mloopStep q) s = .next t
        ∧ Claims.stepped s t q c ((c.rcd.getD 5 0).extractLsb' 0 16).toNat
        ∧ (∀ i j, i < 32 → j < 32 → Claims.element t q x i j = BitVec.ofNat 64
            ((if kindBytes k ≤ 2 then stepNarrow else stepWide) (accType (s.quad q) x) (Claims.element s q x i j).toNat
              (rows.getD i []) (columnB img j)))
        ∧ (∀ n y, c.cb = some n → c.done + 1 < ((c.rcd.getD 5 0).extractLsb' 0 16).toNat →
            (s.core (q / 4)).cbs.find? n = some y → (t.core (q / 4)).cbs.find? n = some { y with cp := y.cp + 1 })
        ∧ t.mem = s.mem ∧ t.spad = s.spad)
    ∧ (∀ xs, Claims.runs s q 4 c →
      let a := ((c.rcd.getD 3 0).extractLsb' 0 3).toNat
      let z := if accIs64 (s.quad q) a then 8 else 4
      portsDown s c.u ((List.range 32).flatMap fun i => lineRuns (32 * z) (rowAddr c.rcd i) (32 * z)) = false →
      readAll s c.u z ((List.range 1024).map fun k => (k, (rowAddr c.rcd (k / 32) + k % 32 * z) % 2 ^ 48)) = .ok xs →
      Claims.ownerAlive s q a → ∃ t, exec (.mldTransfer q) s = .next t ∧ Claims.retired s t q c c.done
        ∧ (∀ i j, i < 32 → j < 32 → ∃ p, access s c.u ((rowAddr c.rcd i + j * z) % 2 ^ 48) (.read z) false = .ok p
            ∧ Claims.element t q a i j = BitVec.ofNat 64 (leNat (readAt s c.u p.1 p.2 z)))
        ∧ t.mem = s.mem ∧ t.spad = s.spad)
    ∧ (List.find? (fun x : Cmd => x.stage = .running && x.fn = 5 && x.done = 32 && !owes s x.seq) (s.quad q).queue = some c → ∃ t,
      exec (.mstRow q) s = .next t ∧ Claims.retired s t q c 32 ∧ t.mem = s.mem ∧ t.spad = s.spad)
    ∧ (∀ ls, (∀ x ∈ (s.quad q).queue, x.stage = .running → x.fn = 5 → x.done = 32 → owes s x.seq = true) →
      List.find? (fun x : Cmd => x.stage = .running && x.fn = 5 && x.done < 32) (s.quad q).queue = some c →
      let z := mstBytes c.rcd
      rowPlaces s c.u z (rowAddr c.rcd c.done) 32 = .ok ls → (∀ l ∈ ls, busyLoc s z l.1 = false) →
      (∀ a ∈ accsOf 5 c.rcd, (s.quad q).accBad.has a = false) →
      let ws := (ls.zip (List.range 32)).map fun e => (e.1.1, leBytes z (mstElement (s.quad q) c c.done e.2).1)
      ∃ t, exec (.mstRow q) s = .next t
        ∧ (Claims.posted ws = [] → owes s c.seq = false → Claims.stepped s t q c 32)
        ∧ ((Claims.posted ws ≠ [] ∨ owes s c.seq = true) → ∃ x ∈ (t.quad q).queue, x.seq = c.seq ∧ x.done = c.done + 1)
        ∧ (∀ a, t.mem.byte a = Claims.lastByte Claims.inMem ws a (s.mem.byte a))
        ∧ (∀ a, t.spad.byte a = Claims.lastByte Claims.inSpad ws a (s.spad.byte a))
        ∧ t.remotes.map (fun r => (r.dev, r.pa, r.data)) = s.remotes.map (fun r => (r.dev, r.pa, r.data)) ++ Claims.posted ws
        ∧ (∀ a j, mstCompanion c.rcd = some a → Claims.ownerAlive s q a → j < 32 →
            Claims.element t q a c.done j = BitVec.ofNat 64 (mstElement (s.quad q) c c.done j).2))
    ∧ (∀ k n b t0, (s.quad q).queue[k]? = some c → c.stage = .running → s.slotOf? c.ref = some n → s.bands.find? n = some b →
      b.preAt = some t0 → t0 + 4000 ≤ (s.cluster (clusterOf n)).clk.toNat → ∃ t, exec (.matrixOperandAbandon q k) s = .next t
        ∧ (t.quad q).queue = Claims.replaced s q c { c with stage := .suspended, reads := [] })

/-- R272, R273, R395 to R399: the graph forms. gbind waits for Plumb and then writes a handle, or 0 where admission refuses;
gstart begins a period; gstop lets a period end, waits for the stop, or unbinds; grebind writes 1 where the declaration fits, 0
where admission refuses. The handle is a free value (log 41). -/
def Obligations.GraphForms : Prop :=
  ∀ s b, s.holds b →
    (∀ d g x : SReg, (Instr.gbind d g x).wf = true → ∃ w,
      exec (.gbind d g x) s = .next ({ s with nextId := s.nextId + 1 }.setBand
        (b.needBoundary.setPath { b.path with wait := some w }))
      ∧ w.kind = .gbind ∧ w.phases = [(s.nextId, true)] ∧ w.cap.scalars = [b.sreg g, b.sreg x])
    ∧ (∀ (h : SReg) g, (Instr.gstart h).wf = true → Claims.bound s b.part (b.sreg h) = some g → g.state ≠ 1 → g.state ≠ 2 →
      ∃ t, Claims.Ends s t b.needBoundary (.gstart h) (Claims.ofScalars [])
        ∧ Claims.bound t b.part (b.sreg h) = some (Claims.nextPeriod { g with state := 1 }))
    ∧ (∀ (h m : SReg) g, (Instr.gstop h m).wf = true → Claims.bound s b.part (b.sreg h) = some g →
      ((b.sreg m).toNat ≤ 1 → g.state ≠ 1 → g.state ≠ 2 →
        Claims.Ends s s b.needBoundary (.gstop h m) (Claims.ofScalars []))
      ∧ (b.sreg m = 2 → g.state ≠ 1 → g.state ≠ 2 → ∃ t, Claims.Ends s t b.needBoundary (.gstop h m) (Claims.ofScalars [])
        ∧ Claims.bound t b.part (b.sreg h) = none)
      ∧ (b.sreg m = 0 → g.state = 1 → g.rebind = none → ∃ t g', Claims.Ends s t b.needBoundary (.gstop h m) (Claims.ofScalars [])
        ∧ Claims.bound t b.part (b.sreg h) = some g' ∧ (g'.state = 2 ∨ g'.state = 3)))
    ∧ (∀ (d h x : SReg) g, (Instr.grebind d h x).wf = true → Claims.bound s b.part (b.sreg h) = some g → g.state ≠ 2 →
      (bindGraph (withoutFirings (dropGraph s b.part (b.sreg h) g none) g) b.part (b.sreg h) (b.sreg x) g.budget g.cls = .ok none →
        Claims.Ends s s b.needBoundary (.grebind d h x) (Claims.ofScalars [(d, 0)]))
      ∧ (∀ g' t', bindGraph (withoutFirings (dropGraph s b.part (b.sreg h) g none) g) b.part (b.sreg h) (b.sreg x) g.budget g.cls
          = .ok (some (g', t')) →
        ∃ t, Claims.Ends s t b.needBoundary (.grebind d h x) (Claims.ofScalars [(d, 1)])))

/-- R389, R390, R394, R396, R399, R272: Plumb answers the bind that came first; a graph fires its next stage where the counts
let it; a firing ends with its launch, its command, or its work; one that passes ALLOW is killed. The handle that Plumb writes is
the model's free value (logs 3 and 41). -/
def Obligations.GraphSteps : Prop :=
  (∀ s n b w, Claims.pathWaits s n b.ix b w .gbind → w.cap.la = 0 →
    (∀ m ∈ bindArrivals s b.part, ((w.phases.head?).map Prod.fst).getD 0 ≤ m) →
    let s' := { s with cur := n, fresh := s.fresh + 1, bands := s.bands.put n b }
    let h := freeHandle { s with cur := n, bands := s.bands.put n b } b.part (Config.freeWord s.fresh)
    let answer := bindGraph s' b.part h (w.cap.scalars.getD 0 0) (w.cap.scalars.getD 1 0).toNat (firingClass b.cls)
    (∀ g t', answer = .ok (some (g, t')) → ∃ t c, exec (.gbindAnswer n b.ix) s = .next t ∧ t.bands.find? n = some c
      ∧ c.sreg (destOf w.cap.word).val = b.scalarAfter (destOf w.cap.word).val h ∧ c.path.pc = b.path.next.pc
      ∧ c.path.wait = none ∧ (s.parts.has b.part = true → Claims.bound t b.part h = some g))
    ∧ (answer = .ok none → ∃ c, exec (.gbindAnswer n b.ix) s = .next { s with bands := s.bands.put n c }
      ∧ c.sreg (destOf w.cap.word).val = b.scalarAfter (destOf w.cap.word).val 0 ∧ c.path.pc = b.path.next.pc ∧ c.path.wait = none))
  ∧ (∀ s part h g (k : Nat) x, Claims.bound s part h = some g → (s.part part).state = 1 → g.state = 1 → g.rebind = none →
    g.sequence[g.started]? = some k → g.stages[k]? = some x → x.running = none → countsAllow s g k = true →
    ((g.decl.stage k).kind = 2 → queued (s.quad x.quad) < 64) →
    ∃ t g' x', exec (.graphFiringStart part h) s = .next t ∧ Claims.bound t part h = some g' ∧ g'.stages[k]? = some x'
      ∧ x'.running.isSome = true ∧ g'.pnum = (if g.started + 1 = g.sequence.length then g.pnum + 1 else g.pnum)
      ∧ ((g.decl.stage k).kind = 0 → x'.lnch = some s.lnchNext ∧ ∃ l, t.launches.find? s.lnchNext.toNat = some l
        ∧ l.kind = .firing h k ∧ l.n = 96 ∧ l.entry = BitVec.ofNat 48 (g.decl.stage k).addr ∧ l.rf = (g.decl.stage k).rf)
      ∧ ((g.decl.stage k).kind = 2 → ∃ c, (t.quad x.quad).queue = (s.quad x.quad).queue ++ [c] ∧ c.firing = some (h, k)))
  ∧ (∀ s part h g (k : Nat) x r, Claims.bound s part h = some g → g.rebind = none → g.stages[k]? = some x → x.running = some r →
    ((g.decl.stage k).kind = 0 → x.lnch = none ∧ x.killed = none ∧ badEnd s g k r.2 = none) →
    ((g.decl.stage k).kind = 2 → ∀ c ∈ (s.quad x.quad).queue, c.firing ≠ some (h, k)) →
    ¬ ((g.decl.stage k).kind ≠ 0 ∧ (g.decl.stage k).kind ≠ 2 ∧ Claims.storerWaits s part g k x r.2) →
    ∃ t g' x', exec (.graphFiringEnd part h k) s = .next t ∧ Claims.bound t part h = some g' ∧ g'.stages[k]? = some x'
      ∧ x'.running = none ∧ x'.killed = none)
  ∧ (∀ s part h g (k : Nat) x r l y, Claims.bound s part h = some g → g.budget ≠ 0 → g.stages[k]? = some x → x.running = some r →
    x.lnch = some l → r.1 + g.allow ≤ (s.cluster g.cluster).clk.toNat → s.launches.find? l.toNat = some y → y.killed = none →
    ∃ t g' y', exec (.graphAllowExpiry part h k) s = .next t ∧ Claims.bound t part h = some g' ∧ g'.faulted = true
      ∧ (g.state = 1 → g'.state = 2) ∧ t.launches.find? l.toNat = some y' ∧ y'.killed = some code.deadlineOver)

/-- R326, R346, R354 to R358, R416 to R418, R438: what the device does beside the bands. A walk that is stale starts again,
and another fills its buffer; an error that a retry corrects is counted, and a lasting one, as is a bulk line that Glaze does not find
genuine (R447), poisons its unit, the instruction line for a prefetch (R417), and is reported, by itself or, for a copy line, by the line
(log 37; the address of an error that has none is free, log 3); an error of a cache discards its line; a copy is discarded at its time; a
channel's window starts anew after its last slot, and a slot serves a request of an owner below its floor first, the one with
the least part of it used; engines
change hands only at a lease boundary, where standing leases stay and every partition has its minimum. -/
def Obligations.MemorySteps : Prop :=
  (∀ s c k w, (s.cluster c).walks.find? k = some w → ∃ t, exec (.pageWalkFill c k) s = .next t ∧
    if (∃ d ∈ s.shootdowns, d.part = w.part ∧ d.va < w.page.1 + w.page.2 ∧ w.page.1 < d.va + d.pages * 2 ^ 16
        ∧ w.gen < (d.gens.getD c 0).toNat) then
      t.tlb = s.tlb ∧ ∃ w', (t.cluster c).walks.find? k = some w' ∧ w'.gen = (s.cluster c).gen.toNat ∧ w'.va = w.va
        ∧ w'.unit = w.unit
    else (t.cluster c).walks.find? k = none ∧ match w.got with
      | none => t.tlb = s.tlb
      | some e => e ∈ t.tlb ∧ ∀ x ∈ t.tlb, x ≠ e → x ∈ s.tlb)
  ∧ (∀ s (r : EccRead), s.parts.has r.part = true → ∃ t, exec (.eccReadRetry r) s = .next t
    ∧ (∀ k j, r.unit = .cache k j → t = (s.setCore k { s.core k with cache := (s.core k).cache.eraseIdx j }).modPart r.part
        fun p => { p with corrected := satInc p.corrected })
    ∧ ((∀ k j, r.unit ≠ .cache k j) → r.corrected = true →
        t = s.modPart r.part fun p => { p with corrected := satInc p.corrected })
    ∧ ((∀ k j, r.unit ≠ .cache k j) → r.corrected = false → r.retryOk = true → (∀ a, r.unit = .bulk a → glazeFails s a = false) →
        t = s.modPart r.part fun p => { p with transient := satInc p.transient })
    ∧ ((∀ k j, r.unit ≠ .cache k j) → r.corrected = false →
      (r.retryOk = false ∨ ∃ a, r.unit = .bulk a ∧ glazeFails s a = true) → (∀ n, r.unit ≠ .register n) →
      (∀ k a, r.unit = .accumulator k a → ∃ p h, (s.quad k).accOwn.find? a = some (.graph p h)) → Claims.hasRoom s r.part →
      (r.reader ≠ .copy →
        Claims.reported t r.part (if r.reader = .prefetch then code.codePoison else code.memPoison) (eccDetail s r.unit).1)
      ∧ (r.reader = .copy → (t.part r.part).waiting = (s.part r.part).waiting)
      ∧ (t.part r.part).lasting = satInc (s.part r.part).lasting ∧ t.mem = s.mem ∧ t.spad = s.spad
      ∧ (∀ k a, r.unit = .scratchpad k a → t.spadPoison.has (spadAt k a / 16) = true)
      ∧ (∀ k a, r.unit = .accumulator k a → (t.quad k).accBad.has a = true)
      ∧ (∀ a, (r.unit = .l2 a ∨ r.unit = .hotStore a ∨ r.unit = .bench a) →
          t.poison.has (if r.reader = .prefetch then a / 128 * 128 else a / 8 * 8) = true)
      ∧ (∀ a, r.unit = .bulk a → t.poison.has (a / 128 * 128) = true)
      ∧ (∀ k a x, r.unit = .saggar k a → (s.quad k).images.find? a = some x →
          (t.quad k).images.find? a = some { x with bad := true })))
  ∧ (∀ s core (k : Nat) x, (s.core core).cache[k]? = some x → x.filled + 65536 ≤ (s.cluster (core / 8)).clk.toNat →
    let t := s.setCore core { s.core core with cache := (s.core core).cache.eraseIdx k }
    (x.remote = false → exec (.cacheLineExpiry core k) s = .next t) ∧ (x.remote = true → exec (.remoteLineExpiry core k) s = .next t))
  ∧ (∀ s c x, s.channels.find? c = some x → exec (.bandwidthWindow c) s = .next (if x.moved < 1024 then s
      else { s with channels := s.channels.put c { x with moved := 0, used := [] } }))
  ∧ (∀ (floor : Nat → Nat) (c c' : Channel) x, c.slot floor = (x, c') → c'.moved = c.moved + 1
    ∧ (c.pending = [] → x = none ∧ c'.used = c.used)
    ∧ (∀ r, x = some r → r ∈ c.pending ∧ c'.pending = c.pending.erase r
      ∧ ∀ p, c'.used.getD p 0 = c.used.getD p 0 + if p = r.part then 1 else 0)
    ∧ (∀ y ∈ c.pending, c.used.getD y.part 0 < floor y.part → ∃ r, x = some r ∧ c.used.getD r.part 0 < floor r.part
      ∧ c.used.getD r.part 0 * floor y.part ≤ c.used.getD y.part 0 * floor r.part)
    ∧ (∀ y ∈ c.pending, y.part < 128 → x.isSome = true))
  ∧ (∀ s die, ∃ t, exec (.leaseBoundary die) s = .next t ∧ { t with engines := s.engines, lastServed := s.lastServed } = s
    ∧ ((s.cluster (8 * die)).clk.toNat % 65536 ≠ 0 → t = s)
    ∧ ((s.cluster (8 * die)).clk.toNat % 65536 = 0 → ∀ kind, kind < 3 →
      (∀ k ∈ engineKeys die kind, s.standing.has k = true → s.engines.has k = true → t.engines.find? k = s.engines.find? k)
      ∧ (∀ k ∈ engineKeys die kind, s.standing.has k = false → ∀ p, t.engines.find? k = some p → ∃ e ∈ s.parts, e.1 = p ∧ e.2.state = 1)
      ∧ ((∀ k ∈ engineKeys die kind, s.standing.has k = false) →
        ((s.parts.filter fun e => e.2.state = 1).map fun e => leaseMin s e.1 die kind).sum ≤ Config.poolSize kind →
        ∀ e ∈ s.parts, e.2.state = 1 →
          leaseMin s e.1 die kind ≤ ((engineKeys die kind).filter fun k => t.engines.find? k = some e.1).length)))

/-- R410: a record that waits is written at the tail of the ring where that has room; then the tail counts it, in the partition
object too, and the host is notified; the log entry that it reports knows its number. Without room it waits. R410, R411: the
host's answers. Replay frees the log entry to run again and lets a held path fetch again; delivery gives the record to its band;
kill kills the launch, that of a saved band once the band is resumed; and an answer that is none changes nothing. R88, R408: a logged
instruction that is free to run replays with what it captured; what younger instructions have written since stays, and its entry is
free. R88, R293: inside its window, which the fault has not cancelled, what it writes is held. -/
def Obligations.FaultAnswers : Prop :=
  (∀ s part r rest, s.parts.has part = true → (s.part part).waiting = r :: rest → (s.part part).state ≠ 0 →
      let p := s.part part
      ∃ t, exec (.faultRecordWrite part) s = .next t
        ∧ (if (p.fqtail - p.fqhead).toNat < p.fqsize
              ∨ (p.fqtail - BitVec.ofNat 32 (s.mem.num (p.object + 176) 4)).toNat < p.fqsize then
            (t.part part).waiting = rest ∧ (t.part part).fqtail = p.fqtail + 1 ∧ t.notes = s.notes ++ [4 * part + 1]
            ∧ t.mem.bytes (p.object + 172) 4 = leBytes 4 (p.fqtail + 1).toNat
            ∧ (∀ n b j e, r.rid ≠ 0 → s.bands.find? n = some b → b.olog.find? j = some e → e.wait = true → e.rid = r.rid →
                ∃ b', t.bands.find? n = some b' ∧ b'.olog.find? j = some { e with seq := some (false, p.fqtail), rcd := e.rcd.set 26 p.fqtail })
          else (t.part part).waiting = r :: rest ∧ t.mem = s.mem ∧ t.bands = s.bands ∧ t.notes = s.notes))
  ∧ (∀ s part seq,
      (∃ t, exec (.faultDoorbellReplay part seq) s = .next t ∧ { t with bands := s.bands, saved := s.saved } = s
        ∧ ∀ n b, s.bands.find? n = some b → ∃ b', t.bands.find? n = some b' ∧ { b' with olog := b.olog, prog := b.prog } = b
          ∧ (∀ j e, b.olog.find? j = some e → b'.olog.find? j = some (
              if e.wait = true ∧ e.seq = some (decide (part = 0), seq) ∧ (part = 0 ∨ b.part = part) then { e with wait := false, seq := none }
              else e))
          ∧ (∀ k p w, b.prog.find? k = some p → p.wait = some w → w.kind = .fetch → Claims.asks part seq b w.seq →
              b'.prog.find? k = some { p with wait := none }))
      ∧ (∃ t, exec (.faultDoorbellDeliver part seq) s = .next t ∧ { t with bands := s.bands, saved := s.saved } = s
        ∧ ∀ n b, s.bands.find? n = some b → ∃ b', t.bands.find? n = some b'
          ∧ { b' with olog := b.olog, prog := b.prog, deliveries := b.deliveries } = b
          ∧ (∀ j e, (j, e) ∈ b.olog → e.wait = true → Claims.asks part seq b e.seq →
              ∃ d ∈ b'.deliveries, d.path = e.path ∧ d.rcd = (e.rcd.set 24 0).set 25 0 ∧ d.code = (e.rcd.getD 0 0).toNat % 2 ^ 16)
          ∧ (¬ Claims.asksAny part seq b → b'.deliveries = b.deliveries))
      ∧ (∀ l, (∃ e ∈ s.bands, Claims.asksAny part seq e.2) → (∀ e ∈ s.bands, Claims.asksAny part seq e.2 → e.2.lnch = l) →
        ∃ t, exec (.faultDoorbellKill part seq) s = .next t ∧ (∀ e ∈ t.bands, e.2.lnch ≠ l) ∧ (∀ e ∈ t.saved, e.2.lnch ≠ l)
          ∧ ∀ x, s.launches.find? l.toNat = some x → ∃ y, t.launches.find? l.toNat = some y ∧ y.killed.isSome = true)
      ∧ ((∀ e ∈ s.bands, ¬ Claims.asksAny part seq e.2) → ∃ t, exec (.faultDoorbellKill part seq) s = .next t ∧ { t with saved := s.saved } = s
        ∧ ∀ k b, s.saved.find? k = some b →
          (¬ Claims.asksAny part seq b → t.saved.find? k = some b)
          ∧ (Claims.asksAny part seq b → ∃ b' rcd, t.saved.find? k = some b' ∧ b'.doom = some ((rcd.set 24 0).set 25 0)
            ∧ ((∃ e ∈ b.olog, e.2.wait = true ∧ Claims.asks part seq b e.2.seq ∧ rcd = e.2.rcd)
              ∨ ∃ e ∈ b.prog, ∃ w, e.2.wait = some w ∧ w.kind = .fetch ∧ Claims.asks part seq b w.seq ∧ rcd = w.rcd)
            ∧ { b' with olog := b.olog, prog := b.prog, doom := b.doom } = b))
      ∧ ((∀ e ∈ s.bands ++ s.saved, ¬ Claims.asksAny part seq e.2) → exec (.faultDoorbellKill part seq) s = .next s)
      ∧ exec (.faultDoorbellIgnore part seq) s = .next s)
  ∧ (∀ s n j b e f ws t b', s.bands.find? n = some b → b.inTrap = false → (s.slot n).state = 1 → b.stopped = false →
      b.olog.find? j = some e →
      e.path = b.ix → b.path.v = true → nextReplay b e.path = some (j, e) → wordCore e.cap.word = some f →
      (∀ i, decodePlain e.cap.word.toNat = .ok i →
        accessHeld { s with cur := n, bands := s.bands.put n b } b i { e.cap with la := 0 } = false) →
      f { e.cap with la := 0 } { s with cur := n, bands := s.bands.put n b } = .done ws t → t.cur = n → t.bands.find? n = some b' →
      b'.ix = b.ix → b'.inTrap = false → b'.path.v = true →
      ((∀ x ∈ e.windows, x.2 = 0) → ∃ c, exec (.logReplay n j) s = .next { t with cur := s.cur, bands := t.bands.put n c }
        ∧ c.sregs = ((keepWrites e.drops ws).foldl Band.applyWrite b').sregs
        ∧ c.vregs = ((keepWrites e.drops ws).foldl Band.applyWrite b').vregs
        ∧ c.olog.find? j = none ∧ c.path = b'.path)
      ∧ ((∃ x ∈ e.windows, x.2 ≠ 0) → keepWrites e.drops ws ≠ [] →
        ∃ c r, exec (.logReplay n j) s = .next { t with cur := s.cur, nextId := t.nextId + 1, bands := t.bands.put n c }
          ∧ c.sregs = b'.sregs ∧ c.vregs = b'.vregs ∧ c.olog.find? j = none ∧ c.path = b'.path
          ∧ r ∈ c.results ∧ r.id = t.nextId ∧ r.order = e.order ∧ r.path = e.path ∧ r.windows = e.windows ∧ r.arrived = true
          ∧ r.writes = keepWrites e.drops ws))

/-- R363 to R366, R379: a doorbell sets the tail, and one too far ahead stops the queue and notifies the host. A record is
answered by its kind: it makes a launch, registers a template, or sets up a task queue; and a bad record stops the queue. -/
def Obligations.LaunchQueues : Prop :=
  (∀ s part n q tail, (s.part part).queues.find? n = some q → (s.part part).state = 1 → s.parts.has part = true →
    ∃ t, exec (.launchQueueDoorbell part n tail) s = .next t
      ∧ Claims.queueIs t part n { q with tail := tail, state := if q.size < (tail - q.head).toNat ∧ q.state = 1 then 2 else q.state }
      ∧ t.notes = s.notes ++ if q.size < (tail - q.head).toNat ∧ q.state = 1 then [4 * part + 2] else [])
  ∧ (∀ s part n q a st id bd, s.parts.has part = true → Claims.queueIs (answerRecord s part n q a st id bd) part n
      { q with head := q.head + 1, state := if st = 3 then 2 else q.state })
  ∧ (∀ s part n q a bs, nextRecord s part n = some (q, a, bs) →
    let f := leAt bs
    let good := f 4 4 = q.head.toNat
    (f 0 1 = 0 ∨ 4 ≤ f 0 1 → exec (.queueRecordSkip part n) s
      = .next (answerRecord s part n q a (if f 0 1 = 0 ∧ good then 6 else 3) 0 0))
    ∧ (f 0 1 = 1 → good → launchRecordOk q bs = true → ∀ body,
      (if f 40 8 = 0 then body = List.replicate (64 * f 20 2) 0 else wheelRead s part (f 40 8) (64 * f 20 2) = some body) →
      exec (.queueRecordLaunch part n) s = .next (
        match makeLaunch s { freshLaunch part (.queue n) q.home with
            cls := f 1 1, entry := BitVec.ofNat 48 (f 8 8), n := f 16 4, rf := allocOf (f 2 1), cw := f 32 8, work := f 28 4 }
          (f 20 2) 0 body (f 24 4) (displayOf [] 0) with
        | none => answerRecord s part n q a 4 0 0
        | some (id, bd, t) => answerRecord t part n q a (if id = 0 then 2 else 1) id bd))
    ∧ (f 0 1 = 1 → (¬ good ∨ launchRecordOk q bs = false) →
      exec (.queueRecordLaunch part n) s = .next (answerRecord s part n q a 3 0 0))
    ∧ (f 0 1 = 2 → good → zeroFields bs [(1, 1), (2, 1), (3, 1), (22, 2), (24, 4), (28, 4), (32, 8), (40, 8), (60, 4)] = true →
      f 8 8 < 2 ^ 48 → f 8 8 % 32 = 0 → 1 ≤ f 16 4 → f 16 4 ≤ 65536 → (s.part part).templates.find? (f 20 2) = none →
      exec (.queueRecordTemplate part n) s = .next (answerRecord
        (s.modPart part fun p => { p with templates := p.templates.put (f 20 2) (f 8 8, f 16 4) }) part n q a 5 0 0))
    ∧ (f 0 1 = 3 → good → zeroFields bs [(2, 1), (3, 1), (22, 2), (24, 4), (28, 4), (32, 8), (40, 8), (60, 4)] = true →
      1 ≤ f 1 1 → f 1 1 ≤ 3 → q.cmax ≤ f 1 1 → f 8 8 < 2 ^ 48 → f 8 8 % 4 = 0 → 4 ≤ f 16 4 → f 16 4 ≤ 2 ^ 24 → f 20 2 ≤ 63 →
      let x : TaskQueue := { ring := f 8 8, words := f 16 4, cls := f 1 1, home := q.home, wr := 0, rd := 0, lastW := none
                             lastR := none, stopped := false, read := [] }
      exec (.queueRecordTaskQueue part n) s = .next (answerRecord
        (s.modPart part fun p => { p with tasks := p.tasks.put (f 20 2) x }) part n q a 5 0 0)))

/-- R9, R10, R42, R371, R372, R377: a bind record that names a free slot starts the next band of its launch there, with the
state of a fresh band; a record that is refused leaves only its code, that of the first of what bars it in the order 1, 3, 4, 2, 6, 5
(log 33: R371 numbers the codes and gives no order); and one with V = 0 does nothing. R372, R425: a record that
names a save area brings its band back into a free slot, and is refused with 6 if that area does not hold its band. -/
def Obligations.BandBinds : Prop :=
  (∀ s n r,
      (∀ before code after, r.v = true → r.pre = false → [1, 3, 4, 2, 6, 5] = before ++ code :: after →
        (∀ c ∈ before, ¬ Claims.bindBar s n r c) → Claims.bindBar s n r code →
        exec (if r.save = 0 then .bindStart n r else .bindRestore n r) s = .next (s.setSlot n { s.slot n with refuse := code }))
      ∧ (r.v = true → r.pre = false → r.save ≠ 0 → Claims.bindable s n r →
        (∀ b, s.saved.find? (2 ^ 48 * r.owner + r.save) = some b → b.lnch ≠ r.lnchid ∨ b.bid ≠ r.bid) →
        exec (.bindRestore n r) s = .next (s.setSlot n { s.slot n with refuse := 6 }))
      ∧ (∀ l, r.v = true → r.pre = false → r.save = 0 → Claims.bindable s n r → s.launches.find? r.lnchid.toNat = some l →
        wheelStarts s n r l = true →
        let m := (writeCtx s r.lnchid l r.ctx).mem
        let occ := firstLanes (min 96 (m.num (r.ctx + 72) 4 - 96 * r.bid.toNat))
        ∃ t b, exec (.bindStart n r) s = .next t ∧ t.bands.find? n = some b ∧ (t.slot n).state = 1
          ∧ (l.ctx = 0 → m.bytes r.ctx 128 = ctxBytes r.lnchid l)
          ∧ b.lnch = r.lnchid ∧ b.bid = r.bid ∧ b.part = r.owner ∧ b.cls = r.cls ∧ b.role = r.role ∧ b.rf = allocOf r.rf
          ∧ b.occ = occ ∧ b.mask = occ ∧ b.inTrap = false ∧ b.valid = [0]
          ∧ b.pc = BitVec.ofNat 48 (m.num (r.ctx + 64) 8) &&& 0xFFFFFFFFFFFC ∧ b.mr = 4
          ∧ (∀ x, x < 60 ∨ x = 63 → b.sreg x = 0) ∧ (∀ v lane, b.vlane v lane = 0) ∧ (∀ k, b.fmtReg k = Band.fmtReset)
          ∧ (∀ lane, occ.getLsbD lane = true → lane < 96 → b.tids.getD lane 0 = BitVec.ofNat 32 (96 * r.bid.toNat + lane))
          ∧ (∀ k, k < 8 → b.disp1 k = BitVec.ofNat 48 (m.num (r.ctx + 8 * k) 8))
          ∧ b.thb = (s.part r.owner).thb ∧ b.thl = (s.part r.owner).thl ∧ b.tho = (s.part r.owner).tho
          ∧ b.streams = [] ∧ b.olog = [] ∧ b.results = [] ∧ b.gang = [] ∧ b.energy = 0 ∧ b.boundary = false ∧ b.rwn = 0
          ∧ (∃ l', t.launches.find? r.lnchid.toNat = some l' ∧ l'.nbound = l.nbound + 1)
          ∧ ((t.core (coreOf n)).drain.getD r.lnchid.toNat { count := 0, bands := 0 }).bands
              = ((s.core (coreOf n)).drain.getD r.lnchid.toNat { count := 0, bands := 0 }).bands + 1)
      ∧ exec (.bindInvalid n r) s = .next s)
  ∧ (∀ s n r b l, r.v = true → r.pre = false → r.save ≠ 0 → Claims.bindable s n r →
      s.saved.find? (2 ^ 48 * r.owner + r.save) = some b → s.launches.find? r.lnchid.toNat = some l → b.lnch = r.lnchid → b.bid = r.bid →
      wheelResumes s n r b l = true → leavesPosted s b n = false → ∃ t, exec (.bindRestore n r) s = .next t
        ∧ t.bands.find? n = some { b with slot := n, unit := r.unit, role := r.role } ∧ (t.slot n).state = 3
        ∧ t.saved.find? (2 ^ 48 * r.owner + r.save) = none
        ∧ (∀ a ∈ b.accTiles, ∃ x, (t.quad (quadOf n)).accOwn.find? a = some (.band x) ∧ x.lnch = b.lnch ∧ x.bid = b.bid))

/-- R37, R372, R374, R420, R421, R423 to R425: a pre-emption. The record asks for it, and chooses then between a flashback and a
boundary save; the band stops at a unit boundary, and is moved at once, with its pinned registers, for a flashback, and else whole once
it is quiet; its slot is free when its save area is written, for which the band pays (log 29), and a restore brings it back. That
the area is the lowest that is free, the bytes of regions for which R424 gives no format, and the band kept as a value under the area's
address are log 16; what a flashback keeps beside the rewind state is log 35. -/
def Obligations.Preemption : Prop :=
  ∀ s n b, s.bands.find? n = some b →
    (∀ r a, r.v = true → r.pre = true → (s.slot n).state = 1 → (s.slot n).preq = false → r.lnchid = b.lnch → r.bid = b.bid →
      b.cls ≠ 0 → collecting s b = false → freeArea s b.part = some a → ∃ t b', exec (.bindPreempt n r) s = .next t
        ∧ t.slot n = { s.slot n with preq := true, area := a } ∧ t.bands.find? n = some b'
        ∧ b'.preAt = some (s.cluster (clusterOf n)).clk.toNat
        ∧ (b'.flash = true ↔ b.boundary = false ∧ b.inTrap = false ∧ b.olog = [] ∧ Claims.commands s (quadOf n) b = [])
        ∧ { b' with preAt := b.preAt, preWhy := b.preWhy, preSeq := b.preSeq, flash := b.flash } = b)
    ∧ ((s.slot n).state = 1 → (s.slot n).preq = true → b.stopped = false → b.occ ≠ 0 → b.fusing = none →
      (b.flash = true → saveTurn s n = false → exec (.preemptAtBoundary n) s = .next s)
      ∧ (b.flash = true → saveTurn s n = true → ∃ t b', exec (.preemptAtBoundary n) s = .next t ∧ t.bands.find? n = some b'
        ∧ t.slot n = { s.slot n with state := 2, moving := true } ∧ b'.stopped = true
        ∧ b'.valid = (if b.inTrap then b'.valid else [0]) ∧ (b.inTrap = false → b'.path.pc = b.rwpc.extractLsb' 2 46)
        ∧ b'.mask = b.rwmask &&& b.occ ∧ b'.mr = b.rwmr ∧ b'.results = []
        ∧ (∀ x, x < 60 ∨ x = 63 → b'.sreg x = if b.isPinned false x then b.sreg x else 0)
        ∧ (∀ v lane, lane < 96 → b'.vlane v lane = if b.isPinned true v then b.vlane v lane else 0))
      ∧ (b.flash = false → ∃ t b', exec (.preemptAtBoundary n) s = .next t ∧ t.bands.find? n = some b' ∧ t.slot n = s.slot n
        ∧ b'.stopped = true ∧ { b' with stopped := b.stopped, prog := b.prog, trp := b.trp, suspended := b.suspended } = b))
    ∧ ((s.slot n).state = 1 → b.stopped = true →
      ((∃ e ∈ b.results, e.arrived = false ∧ e.id ∉ b.redirected) → exec (.boundarySave n) s = .next s)
      ∧ ((∀ e ∈ b.results, e.arrived = true ∨ e.id ∈ b.redirected) → b.waitsIn .tileStore = false →
        (∀ c ∈ Claims.commands s (quadOf n) b, c.stage = .suspended) → saveTurn s n = true → ∃ t b', exec (.boundarySave n) s = .next t
          ∧ t.slot n = { s.slot n with state := 2, moving := true } ∧ t.bands.find? n = some b'
          ∧ { b' with accTiles := b.accTiles, accSaved := b.accSaved, accFmts := b.accFmts } = b))
    ∧ (∀ t0, (s.slot n).state = 1 → b.stopped = true → b.preAt = some t0 →
      t0 + 4000 ≤ (s.cluster (clusterOf n)).clk.toNat →
      let c : Band := { b with redirected := (b.results.filter fun e => !e.arrived).map (·.id) }
      exec (.resultRedirect n) s = .next { s with bands := s.bands.put n c })
    ∧ ((s.slot n).state = 2 → (s.slot n).moving = true →
      let rows := b.saveRows s.fresh
      (∃ t b', exec (.saveComplete n) s = .next t ∧ t.bands.find? n = none
        ∧ (t.slot n).state = 0 ∧ t.saved.find? (2 ^ 48 * b.part + (s.slot n).area) = some b'
        ∧ b' = { payMove s b with brackets := b'.brackets, slot := n }
        ∧ (∀ a ∈ b.accTiles, (t.quad (quadOf n)).accOwn.find? a = none)
        ∧ t.mem = (rows.foldl (fun x r => wheelWrite x b.part ((s.slot n).area + r.1) r.2) { s with fresh := s.fresh + 1 }).mem)
      ∧ (∀ x, x < 64 → b.flash = false ∨ b.isPinned false x = true → (2048 + 4 * x, leBytes 4 (b.sreg x).toNat) ∈ rows)
      ∧ (∀ v, v < b.rf → b.flash = false ∨ b.isPinned true v = true →
          (25344 + 384 * v, (List.range 96).flatMap fun l => leBytes 4 (b.vlane v l).toNat) ∈ rows)
      ∧ (∀ (j : Nat) a, b.accTiles[j]? = some a → (25344 + 384 * b.rf + 8192 * j,
          (List.range 1024).flatMap fun k => leBytes 8 (b.accSaved.getD (1024 * a + k) 0).toNat) ∈ rows))
    ∧ ((s.slot n).state = 3 → b.redirected ≠ [] →
      exec (.restoreComplete n) s = .next (s.setSlot n { s.slot n with moving := false }))
    ∧ ((s.slot n).state = 3 → b.redirected = [] →
      (b.doom = none → ∃ t b', exec (.restoreComplete n) s = .next t ∧ t.bands.find? n = some b'
        ∧ (t.slot n).state = 1 ∧ b'.sregs = b.sregs ∧ b'.vregs = b.vregs ∧ b'.prog = b.prog ∧ b'.suspended = [] ∧ b'.preAt = none
        ∧ b'.stopped = false)
      ∧ (∀ r, b.doom = some r → ∃ t, exec (.restoreComplete n) s = .next t ∧ Claims.dead s t b ((r.getD 0 0).toNat % 2 ^ 16)))

/-- R255, R266 to R268, R278, R373, R377, R378: a drained core forgets a launch; a launch whose work is done, with its accesses
performed and acknowledged, first sends the 1 to its completion word, and leaves the table, and its parent's child table, once
that has been performed; a DEADLINE band that has not met WORK, or whose operations are not all performed by then, is killed with its launch;
and the first group of tasks that have been read becomes a launch, of a queue that has stopped too. -/
def Obligations.LaunchEnds : Prop :=
  (∀ s k l, (s.core k).drain.find? l = some { count := 0, bands := 0 } → l < 2 ^ 32 →
    exec (.drainReport k (BitVec.ofNat 32 l)) s = .next (s.setCore k { s.core k with drain := (s.core k).drain.del l }))
  ∧ (∀ s id l, s.launches.find? id.toNat = some l → (∀ e ∈ s.cores, e.2.drain.find? id.toNat = none) → l.exited = l.nbound →
    (l.killed ≠ none ∨ l.nbound = (l.n + 95) / 96) → (∀ e ∈ s.bands, e.2.lnch ≠ id) → (∀ e ∈ s.saved, e.2.lnch ≠ id) →
    launchOwes s id = false → unacknowledged s l.part = false →
    (∀ p, l.cw ≠ 0 → l.counted = false →
      access s { joiner l.part with cls := 5, heap := true, thb := l.thb, thl := l.thl, tho := l.tho } l.cw (.rmw 8) true = .ok p →
      ∃ t, exec (.launchCompletion id) s = .next t ∧ t.launches.find? id.toNat = some { l with counted := true }
        ∧ Claims.additionUnderWay t p 1 ∧ t.mem = s.mem ∧ t.bands = s.bands)
    ∧ (l.cw = 0 ∨ l.counted = true → ∃ t, exec (.launchCompletion id) s = .next t ∧ t.launches.find? id.toNat = none
      ∧ (∀ r n b, l.kind = .child r → s.bands.find? n = some b → b.lnch = r.lnch → b.bid = r.bid → ∃ b', t.bands.find? n = some b'
          ∧ b'.children = b.children.erase id
          ∧ (l.killed = none → b'.kills = b.kills ∧ b'.killsExtra = b.killsExtra)
          ∧ (l.killed ≠ none → if b.kills.length < 64 then b'.kills = b.kills ++ [id] else b'.killsExtra = b.killsExtra + 1))
      ∧ ∀ q, ∀ r ∈ (t.quad q).reserved, r.1 ≠ id))
  ∧ (∀ s n b t0 l, s.bands.find? n = some b → b.cls = 0 → b.first = some t0 → s.launches.find? b.lnch.toNat = some l →
    l.killed = none → (∀ h k, l.kind ≠ .firing h k) → t0 + l.work ≤ (s.cluster (clusterOf n)).clk.toNat →
    ∃ t l', exec (.deadlineWorkExpiry n) s = .next t ∧ (∀ e ∈ t.bands, e.2.lnch ≠ b.lnch)
      ∧ t.launches.find? b.lnch.toNat = some l' ∧ l'.killed = some code.deadlineOver)
  ∧ (∀ s n id l x, s.launches.find? id.toNat = some l → x ∈ l.left → x.1.slot = n → x.1.lnch = id → owesWork s x.1 = true → l.killed = none →
    (∀ h k, l.kind ≠ .firing h k) → x.2 + l.work ≤ (s.cluster (clusterOf n)).clk.toNat → (∀ b, s.bands.find? n = some b → b.cls ≠ 0) →
    ∃ t l', exec (.deadlineWorkExpiry n) s = .next t ∧ t.launches.find? id.toNat = some l' ∧ l'.killed = some code.deadlineOver)
  ∧ (∀ s part n q r ts x, (s.part part).tasks.find? n = some q → s.parts.has part = true → (s.part part).state = 1 →
    (q.stopped = true ∨ q.rd = q.wr) → q.read = r :: ts → readNode s part r.1 = some x →
    (∀ y ∈ ts, sameGroup s part x y.1 = true) → sameGroup s part x r.1 = true → ts.length < 96 →
    ∀ id m t', makeLaunch s { freshLaunch part (.task n) q.home with
        cls := q.cls, entry := BitVec.ofNat 48 x.entry, n := ts.length + 1, rf := allocOf x.rf } (24 + x.units) 0
      (taskBody s part x.units (r :: ts)) 0 (displayOf [] 0) = some (id, m, t') →
    (s.part part).tasks.put n q = (s.part part).tasks → s.parts.put part (s.part part) = s.parts →
    ∃ t, exec (.taskDispatch part n) s = .next t ∧ (t.part part).tasks.find? n = some { q with read := [] }
      ∧ t.launches = t'.launches)

/-- R432, R433: Kiln's answers to what a page may not ask, and to what it may not have. R430, R431, R434 to R436, R344, R348,
R446: the making, the change and the end of a partition. CREATE grants free units, wiped, to the partition that its object
describes, with a bandwidth floor that leaves the sum of all floors at most 921 lines (R354), and answers once it is initialised; UPDATE reads the
object again; DESTROY first retires the partition and kills its launches, and then takes its units back, wiped, with ENERGY left in the
object. The model's own: which statuses answer for a partition or an identity that is absent (log 47), where bench units and bulk
channels lie (log 6), the floor (log 4), and the tables, which are Kiln's choice (log 7). -/
def Obligations.KilnPartitions : Prop :=
  (∀ s page op, Claims.takesUp s page op →
      (¬ Claims.mayAsk page op → ∃ t, exec (.kilnBadOp page) s = .next t ∧ Claims.Answers s t page 1 []
        ∧ { t with mail := s.mail, doorbells := s.doorbells, notes := s.notes } = s)
      ∧ (op = 1 → page = 0 → argAt s page 0 8 % 4096 ≠ 0 → ∀ c, ∃ t, exec (.create page c) s = .next t ∧ Claims.Answers s t page 2 [])
      ∧ (op = 2 → page = 0 → s.parts.find? (targetOf s page) = none → ∃ t, exec (.destroy page) s = .next t ∧ Claims.Answers s t page 4 [])
      ∧ (op = 3 → s.parts.find? (targetOf s page) = none → ∃ t, exec (.update page) s = .next t ∧ Claims.Answers s t page 2 [])
      ∧ (op = 5 → page ≠ 0 → (s.part page).state = 1 → argAt s page 8 8 = 0 →
          ∃ t, exec (.propose page) s = .next t ∧ Claims.Answers s t page 2 [])
      ∧ (op = 6 → page ≠ 0 → (s.part page).state = 1 → (s.part (argAt s page 0 8)).proposals = [] → ∀ c,
          ∃ t, exec (.accept page c) s = .next t ∧ Claims.Answers s t page 2 [])
      ∧ (op = 8 → s.fuses.identity = none → ∃ t, exec (.attest page) s = .next t ∧ Claims.Answers s t page 5 [])
      ∧ (op = 9 → page = 0 → s.fuses.life = 3 → ∃ t, exec (.life page) s = .next t ∧ Claims.Answers s t page 5 []))
  ∧ ((∀ s page c, Claims.takesUp s page 1 → page = 0 →
      let n := targetOf s page
      let at_ := argAt s page 0 8
      let bs := s.mem.bytes at_ 4096
      let p : Partition := { objectPartition s at_ bs c with initTag := tagOf s page, initPage := page }
      let t := writeTables (grantUnits s n p) c.entries
      at_ % 4096 = 0 → managed s at_ = true → objectOk bs n = true → s.parts.has n = false → unitsFree s p = true →
      minimumsFit s p = true → (∀ e ∈ c.entries, e.1 % 8 = 0 ∧ managed (grantUnits s n p) e.1 = true) → areasOk t n = true →
      exec (.create page c) s = .next t ∧ t.parts.find? n = some { p with floor := grantFloor s n } ∧ p.initialising = true ∧ p.state ≠ 1 ∧ t.doorbells = s.doorbells
        ∧ p.serial = s.serial + 1 ∧ t.serial = s.serial + 1 ∧ t.keys.has n = true
        ∧ ((s.parts.map (·.2.floor)).sum ≤ 921 → (t.parts.map (·.2.floor)).sum ≤ 921)
        ∧ (∀ q ∈ p.quads, (t.quad q).owner = n ∧ (t.quad q).acc = [] ∧ (t.quad q).queue = [] ∧ (t.quad q).images = [])
        ∧ (∀ u ∈ p.bench, Claims.zeroed t (u * Config.benchUnitBytes) ((u + 1) * Config.benchUnitBytes))
        ∧ ∀ g ∈ p.groups, ∀ k, k < 8 → Claims.zeroed t (Config.bulkBase + (8 * g + k) * Config.bulkChannelBytes)
            (Config.bulkBase + (8 * g + k + 1) * Config.bulkChannelBytes))
    ∧ (∀ s n p, s.parts.find? n = some p → p.initialising = true → ∃ t, exec (.createInitDone n) s = .next t
      ∧ Claims.Answers s t p.initPage 0 [] ∧ (t.part n).state = 1 ∧ (t.part n).initialising = false
      ∧ t.mem.byte (p.object + 2) = 1 ∧ t.mem.bytes (p.object + 4) 4 = leBytes 4 p.serial.toNat)
    ∧ (∀ s page p, Claims.takesUp s page 3 → s.parts.find? (targetOf s page) = some p → p.state = 1 →
      let bs := s.mem.bytes p.object 4096
      refreshOk bs = true → areasOk (s.modPart (targetOf s page) fun p => refreshObject p bs) (targetOf s page) = true →
      ∃ t, exec (.update page) s = .next t ∧ Claims.Answers s t page 0 []
        ∧ (t.part (targetOf s page)).handler = BitVec.ofNat 48 (leAt bs 184 8) ∧ (t.part (targetOf s page)).root1 = leAt bs 192 8
        ∧ (t.part (targetOf s page)).fqring = leAt bs 160 8 ∧ (t.part (targetOf s page)).fqsize = leAt bs 168 4
        ∧ (t.part (targetOf s page)).thb = leAt bs 416 8 ∧ (t.part (targetOf s page)).thl = leAt bs 424 8)
    ∧ (∀ s page p, Claims.takesUp s page 2 → page = 0 → s.parts.find? (targetOf s page) = some p →
      (p.state = 1 → ∃ t, exec (.destroy page) s = .next t ∧ (t.part (targetOf s page)).state = 2 ∧ t.doorbells = s.doorbells
        ∧ ∀ id l, id < 2 ^ 32 → s.launches.find? id = some l → l.part = targetOf s page →
            (∃ l', t.launches.find? id = some l' ∧ l'.killed.isSome = true) ∧ ∀ e ∈ t.bands, e.2.lnch ≠ BitVec.ofNat 32 id)
      ∧ (p.state ≠ 1 → partIdle s (targetOf s page) = true →
        (∀ e ∈ windowsOf s (targetOf s page), pagesIdle s (e.2.working ++ e.2.published) = true) →
        ∃ t, exec (.destroy page) s = .next t ∧ Claims.Answers s t page 0 [] ∧ t.parts.find? (targetOf s page) = none
          ∧ t.keys.has (targetOf s page) = false ∧ (∀ e ∈ t.tlb, e.part ≠ targetOf s page)
          ∧ (∀ q ∈ p.quads, (t.quad q).owner = 0 ∧ (t.quad q).acc = [])
          ∧ (p.graphs = [] → t.mem.bytes (p.object + 200) 8 = leBytes 8 (p.energy / 1024))
          ∧ ((∀ u ∈ p.bench, p.object + 208 ≤ u * Config.benchUnitBytes ∨ (u + 1) * Config.benchUnitBytes ≤ p.object + 200) →
            ∀ u ∈ p.bench, Claims.zeroed t (u * Config.benchUnitBytes) ((u + 1) * Config.benchUnitBytes)))))

/-- R416: a shoot-down advances every cluster's generation and clears the entries of its range; it is answered when no older
walk of the range is in flight and every access translated before has been performed. R448 to R450: PROPOSE is kept and answered
as pending; ACCEPT makes the window, zeroed and with a handle for each tenant, and A's backing range is mapped no more; CLOSE ends it, with
its pages zeroed and mapped again at their owner by the leaves that they had. That A hears of the acceptance in a second response, to
the TAG of its PROPOSE and with its own handle, and that the pages wait for the requests under way, is log 48. -/
def Obligations.KilnMappings : Prop :=
  ((∀ s page, Claims.takesUp s page 4 → s.parts.has (targetOf s page) = true →
      let va := argAt s page 0 8
      let n := argAt s page 8 8
      ∃ t d, exec (.shootdown page) s = .next t ∧ t.shootdowns = s.shootdowns ++ [d] ∧ t.doorbells = s.doorbells ∧ t.mail = s.mail
        ∧ d.part = targetOf s page ∧ d.va = va ∧ d.pages = n ∧ d.mailPage = page
        ∧ (∀ c, c < Config.clusters → (t.cluster c).gen = (s.cluster c).gen + 1 ∧ d.gens.getD c 0 = (t.cluster c).gen)
        ∧ ∀ e, e ∈ t.tlb ↔ e ∈ s.tlb ∧ ¬ (e.part = targetOf s page ∧ e.va < va + n * 2 ^ 16 ∧ va < e.va + e.size))
    ∧ (∀ s (k : Nat) d, s.shootdowns[k]? = some d →
      (∀ c ∈ s.clusters, ∀ w ∈ c.2.walks, w.2.part = d.part → d.va < w.2.page.1 + w.2.page.2 → w.2.page.1 < d.va + d.pages * 2 ^ 16 →
        (d.gens.getD c.1 0).toNat ≤ w.2.gen) →
      (∀ r ∈ allRequests s, r.part = d.part → d.seq ≤ r.seq) → (∀ r ∈ s.remotes, r.part = d.part → d.seq ≤ r.seq) →
      ∃ t, exec (.shootdownAck k) s = .next t ∧ t.shootdowns = s.shootdowns.eraseIdx k ∧ Claims.Answers s t d.mailPage 0 []))
  ∧ ((∀ s page, Claims.takesUp s page 5 → page ≠ 0 → (s.part page).state = 1 → s.parts.has page = true →
      let peer := argAt s page 0 8
      let l := argAt s page 8 8
      let backing := argAt s page 16 8
      let map := argAt s page 24 8
      (s.part peer).state = 1 → peer ≠ page → 1 ≤ l → l ≤ 512 → backing % 2 ^ 21 = 0 → map % 2 ^ 21 = 0 →
      backing + l * 2 ^ 22 ≤ 2 ^ 48 → map + l * 2 ^ 21 ≤ 2 ^ 48 → (backingPages s page backing l).isSome = true →
      (s.part page).proposals.length < 4 → ∃ t, exec (.propose page) s = .next t ∧ Claims.Answers s t page 6 (leBytes 8 s.proposalNext)
        ∧ (t.part page).proposals = (s.part page).proposals
            ++ [{ id := s.proposalNext, tag := tagOf s page, peer := peer, len := l, backing := backing, map := map }])
    ∧ (∀ s page c a x pages t, Claims.takesUp s page 6 → page ≠ 0 → (s.part page).state = 1 → argAt s page 0 8 = a → a ≠ page →
      (s.part a).proposals.find? (fun x => x.id = argAt s page 8 8 && x.peer = page && x.len = argAt s page 16 8) = some x →
      backingPages s a x.backing x.len = some pages → argAt s page 24 8 % 2 ^ 21 = 0 →
      argAt s page 24 8 + x.len * 2 ^ 21 ≤ 2 ^ 48 → s.windows.length < 128 → (windowsOf s a).length < 16 →
      (windowsOf s page).length < 16 → c.window < 128 → s.windows.has c.window = false →
      makeWindow s page c a x (argAt s page 24 8) pages = t → t ≠ s → exec (.accept page c) s = .next t ∧ ∃ w,
        t.windows.find? c.window = some w ∧ w.a = a ∧ w.b = page ∧ w.gen = 0 ∧ w.dirtyA = [] ∧ w.dirtyB = []
        ∧ w.working = pages.take (32 * x.len) ∧ w.published = pages.drop (32 * x.len)
        ∧ windowOf t a w.keyA (BitVec.ofNat 32 c.window) = some (c.window, w)
        ∧ windowOf t page w.keyB (BitVec.ofNat 32 c.window) = some (c.window, w)
        ∧ (∀ p ∈ pages, Claims.zeroed t p (p + 2 ^ 16)) ∧ t.keys.has (128 + c.window) = true
        ∧ (∀ k, k < 64 * x.len → ¬ (x.map ≤ x.backing + 2 ^ 16 * k ∧ x.backing + 2 ^ 16 * k < x.map + x.len * 2 ^ 21) →
            ∃ f, stage2 t a (x.backing + 2 ^ 16 * k) = .error f)
        ∧ t.doorbells = s.doorbells.drop 1 ∧ Claims.respondedTo t a x.tag (leBytes 4 w.keyA.toNat ++ leBytes 4 c.window)
        ∧ Claims.respondedTo t page (tagOf s page) (leBytes 4 w.keyB.toNat ++ leBytes 4 c.window))
    ∧ (∀ s page n w, Claims.takesUp s page 7 → page ≠ 0 →
      windowOf s page (BitVec.ofNat 32 (argAt s page 0 4)) (BitVec.ofNat 32 (argAt s page 4 4)) = some (n, w) →
      pagesIdle s (w.working ++ w.published) = true → (∀ p ∈ w.working ++ w.published, ∀ e ∈ w.leaves, e.1 + 8 ≤ p ∨ p + 2 ^ 16 ≤ e.1) →
      (w.leaves.Pairwise fun x y => x.1 + 8 ≤ y.1 ∨ y.1 + 8 ≤ x.1) →
      ∃ t, exec (.close page) s = .next t ∧ Claims.Answers s t page 0 [] ∧ t.windows.find? n = none ∧ t.keys.has (128 + n) = false
        ∧ (∀ p ∈ w.working ++ w.published, Claims.zeroed t p (p + 2 ^ 16))
        ∧ ∀ e ∈ w.leaves, t.mem.bytes e.1 8 = leBytes 8 e.2.toNat)
    ∧ (∀ s page, Claims.takesUp s page 7 → page ≠ 0 →
      windowOf s page (BitVec.ofNat 32 (argAt s page 0 4)) (BitVec.ofNat 32 (argAt s page 4 4)) = none →
      (∃ e ∈ s.parts, ∃ x ∈ e.2.proposals, x.id = argAt s page 0 8 ∧ (e.1 = page ∨ x.peer = page)) →
      ∃ t, exec (.close page) s = .next t ∧ Claims.Answers s t page 0 []
        ∧ ∀ e ∈ t.parts, ∀ x ∈ e.2.proposals, ¬ (x.id = argAt s page 0 8 ∧ (e.1 = page ∨ x.peer = page))))

/-- R451, R453 to R456: ATTEST writes the report of a partition where its asker may write, and answers; LIFE advances the life
cycle with an authorisation that holds, and wipes the device. R114 to R119: the loader makes its ten checks in order, reports the first
that fails, and places nothing; an object that passes is placed and reported as loaded, where the pages that the request gives it have
the rights of its sections. What R119 leaves open of its checks 6, 7 and 9 is log 53: contents against the header, an entry's offset that
is no multiple of 4, and an undefined symbol. -/
def Obligations.AttestationAndLoading : Prop :=
  ((∀ s page, Claims.takesUp s page 8 → s.fuses.identity.isSome = true → (s.part (targetOf s page)).state = 1 →
      let r := report s (targetOf s page) (((s.mail.bytes (128 * page) 64).drop 16).take 32)
      (∀ k ∈ lineChunks 512 (argAt s page 0 8) r, (hostPlace s page k.1 true).isSome = true) →
      ∃ t, exec (.attest page) s = .next t ∧ Claims.Answers s t page 0 []
        ∧ t.mem = (hostWrite s page (argAt s page 0 8) r).mem)
    ∧ (∀ s next, Claims.takesUp s 0 9 →
      let bs := s.mem.bytes (argAt s 0 0 8) 128
      leAt bs 0 4 = next → lifeStep s.fuses.life next = true → authorised s bs next = true →
      (∀ k ∈ lineChunks 128 (argAt s 0 0 8) bs, managed s k.1 = true) →
      ∃ t, exec (.life 0) s = .next t ∧ t.fuses.life = next ∧ t.mem = [] ∧ t.spad = [] ∧ t.bands = [] ∧ t.parts = [] ∧ t.keys = []
        ∧ t.windows = [] ∧ (next = 3 → t.held = true ∧ t.fuses.identity = none)
        ∧ (next ≠ 3 → t.held = false ∧ Claims.respondedTo t 0 (tagOf s 0) [])
        ∧ (next = 2 → t.fuses.identity = s.fuses.identity)))
  ∧ (∀ s r, (s.part r.part).state = 1 →
      let bs := objectBytes s r
      let e := enterGraphs bs r (graphRecords bs.length (contentsOf bs 7)) (s.part r.part).graphTable
      let bad := Claims.loadBar (s.part r.part) bs r e.2
      (∀ before code after, [1, 2, 3, 4, 5, 6, 7, 8, 9, 10] = before ++ code :: after → (∀ c ∈ before, ¬ bad c) → bad code →
        exec (.loadCodeObject r) s = .next { s with loads := s.loads ++ [code] })
      ∧ ((∀ c, ¬ bad c) → aligned bs r = true → pagesFit s bs r = true → s.parts.has r.part = true →
        let placedSections := (sectionsOf bs).filter fun x => x.typ = 1 || x.typ = 3 || x.typ = 4
        ∃ t, exec (.loadCodeObject r) s = .next t
          ∧ t.loads = s.loads ++ [0] ∧ (t.part r.part).graphTable = e.1 ∧ t.bands = s.bands ∧ t.spad = s.spad
          ∧ t.mem = ((natives bs r).foldl (fun u n => placeBytes u r.part n.2.1 (n.2.2.flatMap fun w => leBytes 4 w.toNat))
              (placedSections.foldl (fun u x => placeBytes u r.part (baseAddr r x.typ) (patched bs r e.2 x)) s)).mem))
  ∧ (∀ kind old z p, (patchValue kind old z p).isSome = true ↔ Claims.patchFits kind z p)

/-- R460 to R463, R469: the host's reads and writes of memory, and its registers. R452, R456, R471: a reset, warm or cold, wipes the
device but for what it keeps, and checks the images of Kiln and of Wheel that are there. A device that fails a check, or is scrapped,
stays in reset. The model's own: the offsets within a mailbox page (log 9), the rights that the host's window asks (log 50), what a
device that is held still does (log 52), and the images, which are free values (log 4). -/
def Obligations.HostAndResets : Prop :=
  (∀ s,
      (∀ part a n, ∃ bs, exec (.hostMemoryRead part a n) s = .next { s with hostReads := s.hostReads ++ [bs] } ∧ bs.length = n
        ∧ (s.held = true → ∀ k, k < n → bs.getD k 0 = 0)
        ∧ (s.held = false → part ≠ 0 → ∀ k, k < n → bs.getD k 0 = match hostPlace s part (a + k) false with
            | none => 0
            | some pa => (readMem s part pa 1).getD 0 0)
        ∧ (s.held = false → part = 0 → ∀ k, k < n → if managed s (a + k) = false then bs.getD k 0 = 0 else
            ((∀ e ∈ s.parts, ¬ Claims.inEnergy e (a + k)) → bs.getD k 0 = (readMem s 0 (a + k) 1).getD 0 0)
            ∧ ((∃ e ∈ s.parts, Claims.inEnergy e (a + k)) → ∃ e ∈ s.parts, Claims.inEnergy e (a + k)
              ∧ bs.getD k 0 = (leBytes 8 (e.2.energy / 1024)).getD (a + k - (e.2.object + 200)) 0)))
      ∧ (∀ off n ts, s.agenda = .registerRead off n :: ts → s.held = false → ∃ t bs, step s = .next t
        ∧ { t with fresh := s.fresh } = { s with agenda := ts, hostReads := s.hostReads ++ [bs] } ∧ bs.length = n
        ∧ ∀ k, k < n → (off + k < 0x1000 → bs.getD k 0 = (infoBlock s).getD (off + k) 0)
          ∧ (0x1000 ≤ off + k → off + k < 0x2000 → bs.getD k 0 = (controlPage s).getD (off + k - 0x1000) 0)
          ∧ (∀ q o, q < 128 → o < 128 → off + k = 0x10000 + 0x1000 * q + o → bs.getD k 0 = s.mail.byte (128 * q + o))
          ∧ (0x2000 ≤ off + k → off + k < 0x10000 ∨ 0x180000 ≤ off + k → bs.getD k 0 = 0))
      ∧ (∀ part a bs, (s.held = true ∨ hostPlace s part a true = none) → a % 128 + bs.length ≤ 128 →
        exec (.hostMemoryWrite part a bs) s = .next s)
      ∧ (∀ part a bs pa, s.held = false → bs ≠ [] → a % 128 + bs.length ≤ 128 → hostPlace s part a true = some pa →
        ∃ t, exec (.hostMemoryWrite part a bs) s = .next t ∧ t.spad = s.spad ∧ t.rmem = s.rmem ∧ t.bands = s.bands
          ∧ ∀ x, t.mem.byte x = if pa ≤ x ∧ x < pa + bs.length then bs.getD (x - pa) 0 else s.mem.byte x)
      ∧ (∀ q off bs, s.held = false → q < 128 → off + bs.length ≤ 64 →
        exec (.registerWrite (0x10000 + 0x1000 * q + off) bs) s = .next { s with mail := s.mail.setBytes (128 * q + off) bs })
      ∧ (∀ q bs, s.held = false → q < 128 →
        exec (.registerWrite (0x10000 + 0x1000 * q + mailDoorbell) bs) s = .next { s with doorbells := s.doorbells ++ [q] })
      ∧ (∀ v : Word, v.getLsbD 31 = false → exec (.registerWrite 0x1008 (leBytes 4 v.toNat)) s
        = .next (if s.locked then s else { s with devid := (v.extractLsb' 0 21).toNat }))
      ∧ (∀ v : Word, exec (.devsetLock v) s = .next (
          if v.getLsbD 31 then { s with locked := true, devid := if s.locked then s.devid else (v.extractLsb' 0 21).toNat } else s))
      ∧ (∀ v : Word, exec (.powerLimitSet v) s = .next { s with
          limit := if 1200 ≤ (v.extractLsb' 8 12).toNat ∧ (v.extractLsb' 8 12).toNat ≤ 2400 then (v.extractLsb' 8 12).toNat else s.limit
          capOn := v.getLsbD 0 })
      ∧ (∀ (n : Nat) (v : Word), (n < 64 → s.iso.getD n 0 < 2 ^ 31 → ∃ t, exec (.isoWrite n v) s = .next t
          ∧ (∀ k, t.iso.getD k 0 = if k = n then (v.extractLsb' 0 21).toNat + (if v.getLsbD 31 then 2 ^ 31 else 0) else s.iso.getD k 0)
          ∧ ((∀ c ∈ s.collectives, c.stage = 0 → ∀ d ∈ c.members, isolated t d = false) → { t with iso := s.iso } = s))
        ∧ ((64 ≤ n ∨ 2 ^ 31 ≤ s.iso.getD n 0) → exec (.isoWrite n v) s = .next s)))
  ∧ (∀ s, ∃ t, exec .warmReset s = .next t ∧ exec .coldReset s = .next t
      ∧ t.mem = [] ∧ t.spad = [] ∧ t.mail = [] ∧ t.bands = [] ∧ t.saved = [] ∧ t.parts = [] ∧ t.launches = [] ∧ t.quads = [] ∧ t.cores = []
      ∧ t.clusters = [] ∧ t.keys = [] ∧ t.windows = [] ∧ t.poison = [] ∧ t.glaze = [] ∧ t.tlb = [] ∧ t.ports = [] ∧ t.iso = []
      ∧ t.locked = false ∧ t.rmem = s.rmem ∧ t.fuses.life = s.fuses.life ∧ t.fuses.identity = s.fuses.identity
      ∧ t.fuses.minKiln = max s.fuses.minKiln s.kilnRollback ∧ t.fuses.minWheel = max s.fuses.minWheel s.wheelRollback
      ∧ (let k := Config.firmware 1 s.fresh
        let w := Config.firmware 2 s.fresh
        (t.booterr = if Config.wipeFails s.fresh = true then 2 else if imageOk k 1 t.fuses.minKiln = true then 0 else 1)
        ∧ t.held = decide (s.fuses.life = 3 ∨ t.booterr ≠ 0 ∨ imageOk w 2 t.fuses.minWheel = false) ∧ t.ready = !t.held
        ∧ (t.held = false → t.kilnVersion = BitVec.ofNat 32 (leAt k 8 4) ∧ t.kilnRollback = leAt k 12 4
          ∧ t.wheelVersion = BitVec.ofNat 32 (leAt w 8 4) ∧ t.wheelRollback = leAt w 12 4)))
  ∧ (∀ bs kind least, imageOk bs kind least = true ↔ Claims.imageGood bs kind least)

/-- R324, R325, R338, R469: a remote operation is performed at its home device once a port is up and what came before it
on its line has been performed, or discarded where that device is isolated; its acknowledgement ends it. R462, R464: a port
comes up once, after the lock. Its receptions are counted; the seventeenth bad one in a row, or 10 ms of silence, takes it down
for good; an idle port sends a flit after 1 ms. R465 to R468: a record of the ring is taken when its TICK stands there and the
partition holds an engine; a
collective whose members have all contributed writes its result and then sends the 1 to its counter, once other devices have
acknowledged what they got of it (R336), and it leaves when that addition is performed; one whose time is over, that another member
aborts, or that has a member which becomes isolated, aborts: its addition is sent, and COLLECTIVE_ABORT is reported. That it is the
seventeenth bad reception which takes a port down is log 54, and where a byte of another device is kept is log 6. -/
def Obligations.FabricSteps : Prop :=
  (∀ s (k : Nat) o, s.remotes[k]? = some o →
      (o.performed = false → (∀ x ∈ s.remotes.take k, x.performed = false → x.dev = o.dev → x.pa / 128 ≠ o.pa / 128) →
        let marked := s.remotes.map fun x => if x.seq = o.seq then { x with performed := true } else x
        (o.req = none → (isolated s o.dev = true ∨ fabricUp s o.part = true) → ∃ t, exec (.remoteRequest k) s = .next t
          ∧ t.remotes = marked
          ∧ t.rmem = (if isolated s o.dev then s.rmem else s.rmem.setBytes (2 ^ 43 * o.dev + o.pa) o.data)
          ∧ { t with rmem := s.rmem, remotes := s.remotes, clusters := s.clusters, cores := s.cores } = s
          ∧ ∀ j, { t.core j with cache := [] } = { s.core j with cache := [] })
        ∧ (∀ r, isolated s o.dev = false → fabricUp s o.part = true → o.req = some r →
          ∃ t, exec (.remoteRequest k) s = .next t ∧ t.mem = s.mem ∧ t.spad = s.spad ∧ t.remotes = marked
            ∧ t.rmem = r.lanes.foldl (Claims.performLaneAt (2 ^ 43 * o.dev) r.op) s.rmem ∧ Claims.keepsBands s t))
      ∧ (o.performed = true → o.count = none → ∃ t, exec (.remoteAck k) s = .next t
        ∧ t.remotes = s.remotes.filter (fun x => x.seq ≠ o.seq) ∧ t.mem = s.mem ∧ t.rmem = s.rmem ∧ t.bands = s.bands
        ∧ ∀ d, (s.core o.core).drain.find? o.ref.lnch.toNat = some d →
            (t.core o.core).drain.find? o.ref.lnch.toNat = some { d with count := d.count - 1 }))
  ∧ (∀ s n,
      (exec (.portUp n) s = .next (if s.locked ∧ n < 24 ∧ s.ports.find? n = none then
        { s with ports := s.ports.put n { up := true, failed := 0, silent := 0, idle := 0 }, notes := s.notes ++ [2] } else s))
      ∧ (∀ p, s.ports.find? n = some p → p.up = true →
        (∃ t, exec (.flitReceive n true) s = .next t ∧ t.ports = s.ports.put n { p with failed := 0, silent := 0 }
          ∧ ∀ k x, s.parts.find? k = some x → t.parts.find? k = some (
              if p.failed ≠ 0 ∧ x.ports.testBit n then { x with transient := satInc x.transient } else x))
        ∧ (p.failed < 16 → exec (.flitReceive n false) s
            = .next { s with ports := s.ports.put n { p with failed := p.failed + 1, silent := 0 } })
        ∧ (16 ≤ p.failed → ∃ t, exec (.flitReceive n false) s = .next t ∧ (∃ x, t.ports.find? n = some x ∧ x.up = false)
          ∧ ∀ k x, s.parts.find? k = some x → ∃ y, t.parts.find? k = some y
              ∧ y.lasting = if x.ports.testBit n then satInc x.lasting else x.lasting)
        ∧ (36000000 ≤ p.silent → ∃ t, exec (.portSilenceTimeout n) s = .next t ∧ ∃ x, t.ports.find? n = some x ∧ x.up = false)
        ∧ (3600000 ≤ p.idle → exec (.idleFlitTimer n) s = .next { s with ports := s.ports.put n { p with idle := 0 } })))
  ∧ ((∀ s part bs, (s.part part).state ≠ 0 → (s.part part).csize ≠ 0 →
      let taken := readNum s part ((s.part part).cdoor + 8) 4
      wheelRead s part ((s.part part).cring + 64 * (taken % (s.part part).csize)) 64 = some bs →
      (leAt bs 60 4 ≠ (taken + 1) % 2 ^ 32 → exec (.collectiveSlotConsume part) s = .next s)
      ∧ (leAt bs 60 4 = (taken + 1) % 2 ^ 32 → holdsCollective s part = true →
        let t := wheelWrite s part ((s.part part).cdoor + 8) (leBytes 4 (taken + 1))
        let tick := (s.part part).ticks.find? (taken % (s.part part).csize)
        let c := takeRecord { t with nextId := t.nextId + 1 } part (tick.map Prod.fst) ((tick.map Prod.snd).getD t.nextId) bs
        recordGood { t with nextId := t.nextId + 1 } c bs = true → ∃ u, exec (.collectiveSlotConsume part) s = .next u
          ∧ u.collectives.map (·.seq) = s.collectives.map (·.seq) ++ [c.seq]
          ∧ (u.part part).ticks.find? (taken % (s.part part).csize) = none))
    ∧ (∀ s (k : Nat) c, s.collectives[k]? = some c →
      let u := collectiveIssuer c.part c.ref
      let stage (n : Nat) : List Collective := s.collectives.map fun x => if x.seq = c.seq then { c with stage := n } else x
      (∀ ws, c.stage = 0 → running s c = true → c.arrived.length = c.members.length →
        holdsCollective s c.part = true → (∀ d ∈ c.members, isolated s d = false) →
        placesOf s u true (lineChunks (collectiveOutput s c).length c.dst (collectiveOutput s c)) = .ok ws →
        ∃ t, exec (.collectiveComplete k) s = .next t
          ∧ (∀ a, t.mem.byte a = Claims.lastByte Claims.inMem (ws.map fun w => (w.1, w.2.1)) a (s.mem.byte a))
          ∧ (∀ a, t.spad.byte a = Claims.lastByte Claims.inSpad (ws.map fun w => (w.1, w.2.1)) a (s.spad.byte a))
          ∧ Claims.remoteWrites t = Claims.remoteWrites s ++ Claims.posted (ws.map fun w => (w.1, w.2.1))
          ∧ (Claims.posted (ws.map fun w => (w.1, w.2.1)) ≠ [] → t.collectives = stage 1)
          ∧ (∀ t' p, Claims.posted (ws.map fun w => (w.1, w.2.1)) = [] → owes s c.seq = false →
              writeVirtual s u (c.ref.getD nobody) true c.dst (collectiveOutput s c) = .ok t' →
              access t' { u with cls := 5 } c.cnt (.rmw 8) true = .ok p → t.collectives = stage 2 ∧ Claims.additionUnderWay t p 1))
      ∧ (c.stage ≠ 0 → owes s c.seq = true → exec (.collectiveComplete k) s = .next s)
      ∧ (∀ p, c.stage = 1 → owes s c.seq = false → access s { u with cls := 5 } c.cnt (.rmw 8) true = .ok p →
        ∃ t, exec (.collectiveComplete k) s = .next t ∧ t.collectives = stage 2 ∧ Claims.additionUnderWay t p 1 ∧ t.mem = s.mem)
      ∧ (c.stage = 2 → owes s c.seq = false → ∃ t, exec (.collectiveComplete k) s = .next t ∧ t.mem = s.mem
        ∧ t.collectives.map (·.seq) = (s.collectives.filter fun x => x.seq ≠ c.seq).map (·.seq))
      ∧ (c.stage = 0 → s.parts.has c.part = true → (((s.part c.part).waiting.filter fun r => !r.kept).length < 255) →
        let late := c.arrived ≠ [] ∧ c.arrived.length ≠ c.members.length ∧ c.since + 7200000000 ≤ collectiveClock s c.part
        (late → ∃ t, exec (.collectiveTimeout k) s = .next t ∧ Claims.aborted t c 1)
        ∧ (∀ reason ts, s.agenda = .abort k reason :: ts → s.held = false → linked s = true → 1 ≤ reason → reason ≤ 3 →
          ∃ t, step s = .next t ∧ Claims.aborted t c reason)
        ∧ (∀ rank bs ts, s.agenda = .contribution k rank bs :: ts → s.held = false → late → step s = .next { s with agenda := ts })
        ∧ (∀ n v, n < 64 → s.iso.getD n 0 < 2 ^ 31 → (s.collectives.map (·.seq)).Nodup →
          let s' := { s with iso := s.iso.setD n ((v.extractLsb' 0 21).toNat + (if v.getLsbD 31 then 2 ^ 31 else 0)) 0 }
          (∃ d ∈ c.members, isolated s' d = true) →
          (∀ x ∈ s.collectives, x.stage = 0 → (∃ d ∈ x.members, isolated s' d = true) → x = c) →
          ∃ t, exec (.isoWrite n v) s = .next t ∧ Claims.aborted t c 2))))

/-- R472: power and cooling. R34, R153, R285, R287, R289, R343, R353: one clock. Every cluster counts one cycle more, and what
is held for a number of clocks is held for one less; a slot that has a selected path and has not issued counts one wait more, up
to 255, and another counts none; the slices serve words of their pending beats; registers and memory do not change. -/
def Obligations.PowerAndClock : Prop :=
  (∀ s,
      let goTo (v : Nat) : State := if s.power = v then s else { s with power := v, notes := s.notes ++ [1] }
      (∀ w, exec (.powerEstimateWindow w) s = .next (if s.power = 3 then s else if s.capOn ∧ s.limit < w then goTo 1
          else if s.power = 1 then goTo 0 else s))
      ∧ (exec .idleTimeout s = .next (if s.power = 0 ∧ s.bands = [] ∧ 36000 ≤ s.idle then goTo 2 else s))
      ∧ exec .thermalAlarm s = .next (goTo 3) ∧ exec .thermalStateEnd s = .next (if s.power = 3 then goTo 0 else s)
      ∧ exec .thermalTrip s = .next { s with held := true, ready := false, ports := [] })
  ∧ (∀ s, ∃ t, exec .arithmeticClock s = .next t
      ∧ (∀ c, c < Config.clusters → t.cluster c = { s.cluster c with clk := (s.cluster c).clk + 1, busy := (s.cluster c).busy - 1 })
      ∧ (∀ n x, s.slots.find? n = some x → s.bands.has n = true → t.slots.find? n = some { x with
          count := if (selected s n).isNone ∨ (s.quad (quadOf n)).pipes.has (8 + n % 8) = true then 0 else if x.count = 255 then 255 else x.count + 1 })
      ∧ (∀ k, ∀ y ∈ (t.core k).beats, ∃ x ∈ (s.core k).beats, x.arrival ≤ y.arrival ∧ y.arrival ≤ x.arrival + 1 ∧ x.slice = y.slice ∧ x.quad = y.quad
        ∧ ∀ w ∈ y.words, w ∈ x.words)
      ∧ (∀ q k n, ((s.quad q).pipes.map Prod.fst).Nodup → (s.quad q).pipes.find? k = some n → k ≠ 0 → (t.quad q).pipes.find? k = if n ≤ 1 then none else some (n - 1))
      ∧ (∀ n b, s.bands.find? n = some b → ∃ c, t.bands.find? n = some c
        ∧ { c with board := b.board, prog := b.prog, energy := b.energy } = b
        ∧ ((b.board.map Prod.fst).Nodup → ∀ k x, b.board.find? k = some x → c.board.find? k = if x ≤ 1 then none else some (x - 1))
        ∧ (∀ k p, b.prog.find? k = some p → ∃ p', c.prog.find? k = some p' ∧ p'.pc = p.pc ∧ p'.v = p.v ∧ p'.mask = p.mask
          ∧ ((s.slot n).state = 1 → b.stopped = false → ∀ w, p.wait = some w → w.kind = .regroup → ∃ w', p'.wait = some w' ∧ w'.left = w.left - 1)
          ∧ (∀ w, p.wait = some w → w.kind ≠ .regroup → p'.wait = p.wait)))
      ∧ t.mem = s.mem ∧ t.spad = s.spad ∧ t.rmem = s.rmem ∧ t.copies = s.copies ∧ t.remotes = s.remotes ∧ t.launches = s.launches)

/-- R74 to R83, R95 to R101: words written out from the encoding of their forms decode to them. -/
def Obligations.DecodedWords : Prop :=
  decode? 0x00000000 = some .nop ∧ decode? 0x001C40C3 = some (.mfsr 4 195) ∧ decode? 0x0E310594 = some (.pbr true 4 66964)
    ∧ decode? 0x18106BDF = some (.addi 4 6 3039) ∧ decode? 0x30045144 = some (.vadd 17 34 68)
    ∧ decode? 0x4A811440 = some (.vrcp 5 34 68) ∧ decode? 0x59011100 = some (.vredadd 4 34)
    ∧ decode? 0x6050AD11 = some (.vcmp .lt 4 .or 90 17) ∧ decode? 0x6AA22217 = some (.ldw 5 34 8 23)
    ∧ decode? 0x76A22233 = some (.stw (some .device) 34 8 51) ∧ decode? 0x92822217 = some (.aadd 5 34 8 23)
    ∧ decode? 0x98004188 = some (.cpy4 4 6 8) ∧ decode? 0xA0040100 = some (.tfill 4)
    ∧ decode? 0xA800010E = some (.fence .cluster 14) ∧ decode? 0xB2C2AF0C = some (.mloop 48 42 60 12)
    ∧ decode? 0xB8004180 = some (.launch 4 6) ∧ decode? 0xC4440000 = some (.rep 34 1)
    ∧ decode? 0xCEB90870 = some (.limm 112789616) ∧ decode? 0xFFFFFFFF = none

/-- R74 to R83: every well-formed instruction that has a word has one of 32 bits, which decodes to it. -/
def Obligations.DecodeOfEncode : Prop :=
  ∀ i w, i.wf = true → encode i = some w → w < 2 ^ 32 ∧ decode w = .ok i

/-- R36, R74, R285, R287, R289, R291, R410, and the turns of log 2: a step takes the oldest turn that the environment has chosen.
A turn of a slot first takes a fault record that an answer delivers; else it runs the decoded word at the PC of the path that is
to issue, with the results that this path sees, and then counts the issue; a turn of an event runs its step. Without a turn the
quadrant issues that is to issue in this clock, or where none is, the clock passes. -/
def Obligations.StepRunsDecoded : Prop :=
  ∀ s, s.held = false →
    (s.agenda = [] → (nextIssue s = none → step s = exec .arithmeticClock s)
      ∧ ∀ n, nextIssue s = some n → step s = step { s with agenda := [.band n] })
    ∧ (∀ i ts, s.agenda = .event i :: ts → isEvent i = true → (i = .arithmeticClock → nextIssue { s with agenda := ts } = none) →
      step s = exec i { s with agenda := ts })
    ∧ (∀ n b ts, s.agenda = .band n :: ts → s.bands.find? n = some b →
      let s' := { s with agenda := ts }
      (delivers s' n = true → step s = .next (if b.unretired then s' else takeDelivery { s' with cur := n }))
      ∧ (∀ k w i u, delivers s' n = false →
        let r := (settleFences { s' with cur := n }).modBand (·.switchTo k)
        let ids := r.band.seenBy k
        let x := exchangeHeld ids r r
        candidate s' n = some k → x.band.path.rep = none → fetchWord x x.band.pc = .ok w → decode w.toNat = .ok i →
        fetches r r.band = true → exec i x = .next u →
        let t := exchangeHeld ids r u
        stuck r t (upcoming r r.band) = false → trapHeld n r t = false → (∀ j, j < 8 → precedes s' n (8 * quadOf n + j) = false) →
        step s = .next (endUnit r t k (upcoming r r.band))))

/-- R456, R461, R462, R471: what reset leaves: zero in every memory, no partition, no band, no key, every port down, and a
device that is ready. The values of the counters that the spec does not give are named in log 8. -/
def Obligations.ResetState : Prop :=
  (∀ a, State.reset.mem.byte a = 0 ∧ State.reset.spad.byte a = 0) ∧ State.reset.parts = [] ∧ State.reset.bands = []
    ∧ State.reset.launches = [] ∧ State.reset.keys = [] ∧ State.reset.ports = [] ∧ State.reset.iso = [] ∧ State.reset.locked = false
    ∧ State.reset.limit = 2400 ∧ State.reset.capOn = false ∧ State.reset.power = 0 ∧ State.reset.held = false
    ∧ State.reset.ready = true

/-- The memories have that form after reset. -/
def Obligations.ResetMemoryCanonical : Prop :=
  MemoryWf State.reset

/-- The memories keep their canonical form in every step (the model's own invariant: equal memories are equal data). -/
def Obligations.MemoryKeptCanonical : Prop :=
  ∀ s t, MemoryWf s → step s = .next t → MemoryWf t
end

