-- ==== Sys2Proof/Laws/Tables.lean ====
section
/-!
SUPPORT. What the tables of `Word.lean` do: an entry read after a write, and the canonical form.
-/
namespace Sys2Proof.Tab

variable {α : Type}

/-! ## Reading after a write -/

@[simp] theorem find?_nil (i : Nat) : find? ([] : Tab α) i = none := rfl

theorem find?_cons (k : Nat) (v : α) (t : Tab α) (i : Nat) :
    find? ((k, v) :: t) i = if k = i then some v else find? t i := rfl

@[simp] theorem find?_put_same (t : Tab α) (i : Nat) (v : α) : (t.put i v).find? i = some v := by
  induction t with
  | nil => simp [put, find?]
  | cons e t ih =>
    obtain ⟨k, w⟩ := e
    simp only [put]
    split
    · simp [find?]
    · split
      · simp [find?]
      · rw [find?_cons, if_neg (by omega), ih]

theorem find?_put_ne (t : Tab α) {i j : Nat} (v : α) (h : j ≠ i) : (t.put i v).find? j = t.find? j := by
  induction t with
  | nil => simp [put, find?, Ne.symm h]
  | cons e t ih =>
    obtain ⟨k, w⟩ := e
    simp only [put]
    split
    · rw [find?_cons, if_neg (Ne.symm h)]
    · split
      · next hik => subst hik; simp [find?_cons, Ne.symm h]
      · rw [find?_cons, find?_cons, ih]

theorem find?_put (t : Tab α) (i j : Nat) (v : α) : (t.put i v).find? j = if j = i then some v else t.find? j := by
  split
  · next h => rw [h, find?_put_same]
  · next h => exact find?_put_ne t v h

@[simp] theorem find?_del_same (t : Tab α) (i : Nat) : (t.del i).find? i = none := by
  induction t with
  | nil => rfl
  | cons e t ih =>
    obtain ⟨k, w⟩ := e
    simp only [del]
    split
    · exact ih
    · next h => rw [find?_cons, if_neg h, ih]

theorem find?_del_ne (t : Tab α) {i j : Nat} (h : j ≠ i) : (t.del i).find? j = t.find? j := by
  induction t with
  | nil => rfl
  | cons e t ih =>
    obtain ⟨k, w⟩ := e
    simp only [del]
    split
    · next hk => rw [ih, find?_cons, if_neg (by omega)]
    · rw [find?_cons, find?_cons, ih]

theorem find?_del (t : Tab α) (i j : Nat) : (t.del i).find? j = if j = i then none else t.find? j := by
  split
  · next h => rw [h, find?_del_same]
  · next h => exact find?_del_ne t h

@[simp] theorem getD_put_same (t : Tab α) (i : Nat) (v d : α) : (t.put i v).getD i d = v := by simp [getD]

theorem getD_put_ne (t : Tab α) {i j : Nat} (v d : α) (h : j ≠ i) : (t.put i v).getD j d = t.getD j d := by
  simp [getD, find?_put_ne t v h]

@[simp] theorem getD_setD_same [DecidableEq α] (t : Tab α) (i : Nat) (v d : α) : (t.setD i v d).getD i d = v := by
  unfold setD
  split
  · next h => simp [getD, h]
  · simp

theorem getD_setD_ne [DecidableEq α] (t : Tab α) {i j : Nat} (v d : α) (h : j ≠ i) :
    (t.setD i v d).getD j d = t.getD j d := by
  unfold setD
  split
  · simp [getD, find?_del_ne t h]
  · exact getD_put_ne t v d h

theorem getD_setD [DecidableEq α] (t : Tab α) (i j : Nat) (v d : α) :
    (t.setD i v d).getD j d = if j = i then v else t.getD j d := by
  split
  · next h => rw [h, getD_setD_same]
  · next h => exact getD_setD_ne t v d h

/-! ## The canonical form -/

theorem wfFrom_mono [DecidableEq α] {d : α} {lo lo' : Nat} {t : Tab α} (h : wfFrom d lo t = true) (hlo : lo' ≤ lo) :
    wfFrom d lo' t = true := by
  cases t with
  | nil => rfl
  | cons e t =>
    obtain ⟨k, v⟩ := e
    simp only [wfFrom, Bool.and_eq_true, decide_eq_true_eq] at h ⊢
    exact ⟨⟨by omega, h.1.2⟩, h.2⟩

theorem wfFrom_put [DecidableEq α] {d : α} {lo : Nat} {t : Tab α} (h : wfFrom d lo t = true) {i : Nat} {v : α}
    (hi : lo ≤ i) (hv : v ≠ d) : wfFrom d lo (t.put i v) = true := by
  induction t generalizing lo with
  | nil => simp [put, wfFrom, hi, hv]
  | cons e t ih =>
    obtain ⟨k, w⟩ := e
    simp only [wfFrom, Bool.and_eq_true, decide_eq_true_eq] at h
    obtain ⟨⟨hk, hw⟩, ht⟩ := h
    simp only [put]
    split
    · simp only [wfFrom, Bool.and_eq_true, decide_eq_true_eq]
      exact ⟨⟨hi, by simpa using hv⟩, ⟨by omega, hw⟩, ht⟩
    · split
      · next hik => subst hik; simp only [wfFrom, Bool.and_eq_true, decide_eq_true_eq]; exact ⟨⟨hi, by simpa using hv⟩, ht⟩
      · simp only [wfFrom, Bool.and_eq_true, decide_eq_true_eq]
        exact ⟨⟨hk, hw⟩, ih ht (by omega)⟩

theorem wfFrom_del [DecidableEq α] {d : α} {lo : Nat} {t : Tab α} (h : wfFrom d lo t = true) (i : Nat) :
    wfFrom d lo (t.del i) = true := by
  induction t generalizing lo with
  | nil => rfl
  | cons e t ih =>
    obtain ⟨k, w⟩ := e
    simp only [wfFrom, Bool.and_eq_true, decide_eq_true_eq] at h
    simp only [del]
    split
    · exact ih (wfFrom_mono h.2 (by omega))
    · simp only [wfFrom, Bool.and_eq_true, decide_eq_true_eq]; exact ⟨h.1, ih h.2⟩

theorem wfFrom_filter [DecidableEq α] {d : α} {lo : Nat} {t : Tab α} (h : wfFrom d lo t = true) (p : Nat × α → Bool) :
    wfFrom d lo (t.filter p) = true := by
  induction t generalizing lo with
  | nil => rfl
  | cons e t ih =>
    obtain ⟨k, w⟩ := e
    simp only [wfFrom, Bool.and_eq_true, decide_eq_true_eq] at h
    rw [List.filter_cons]
    split
    · simp only [wfFrom, Bool.and_eq_true, decide_eq_true_eq]; exact ⟨h.1, ih h.2⟩
    · exact ih (wfFrom_mono h.2 (by omega))

theorem wf_setD [DecidableEq α] {d : α} {t : Tab α} (h : t.wf d = true) (i : Nat) (v : α) : (t.setD i v d).wf d = true := by
  unfold setD
  split
  · exact wfFrom_del h i
  · next hv => exact wfFrom_put h (Nat.zero_le i) hv

theorem wf_filter [DecidableEq α] {d : α} {t : Tab α} (h : t.wf d = true) (p : Nat × α → Bool) :
    Tab.wf d (t.filter p) = true := wfFrom_filter h p

theorem find?_of_wfFrom_lt [DecidableEq α] {d : α} {lo : Nat} {t : Tab α} (h : wfFrom d lo t = true) {i : Nat} (hi : i < lo) :
    t.find? i = none := by
  induction t generalizing lo with
  | nil => rfl
  | cons e t ih =>
    obtain ⟨k, w⟩ := e
    simp only [wfFrom, Bool.and_eq_true, decide_eq_true_eq] at h
    rw [find?_cons, if_neg (by omega)]
    exact ih h.2 (by omega)

/-- Two canonical tables that read the same are the same data. -/
theorem wfFrom_ext [DecidableEq α] {d : α} {lo lo' : Nat} {t u : Tab α} (ht : wfFrom d lo t = true) (hu : wfFrom d lo' u = true)
    (h : ∀ i, t.getD i d = u.getD i d) : t = u := by
  induction t generalizing lo lo' u with
  | nil =>
    cases u with
    | nil => rfl
    | cons e u =>
      obtain ⟨k, w⟩ := e
      simp only [wfFrom, Bool.and_eq_true] at hu
      have := h k
      simp [getD, find?] at this
      simp [this] at hu
  | cons e t ih =>
    obtain ⟨k, v⟩ := e
    have ht' := ht
    simp only [wfFrom, Bool.and_eq_true, decide_eq_true_eq, Bool.not_eq_true', decide_eq_false_iff_not] at ht
    cases u with
    | nil =>
      have := h k
      simp [getD, find?] at this
      exact absurd this ht.1.2
    | cons e' u =>
      obtain ⟨j, w⟩ := e'
      have hu' := hu
      simp only [wfFrom, Bool.and_eq_true, decide_eq_true_eq, Bool.not_eq_true', decide_eq_false_iff_not] at hu
      have hjk : j = k := by
        rcases Nat.lt_trichotomy j k with hlt | heq | hgt
        · have h1 := h j
          have h2 := find?_of_wfFrom_lt (lo := j + 1) (t := (k, v) :: t)
            (by simp only [wfFrom, Bool.and_eq_true, decide_eq_true_eq, Bool.not_eq_true', decide_eq_false_iff_not]
                exact ⟨⟨by omega, ht.1.2⟩, ht.2⟩) (Nat.lt_succ_self j)
          simp only [getD, h2, find?_cons, if_true, Option.getD_none, Option.getD_some] at h1
          exact absurd h1.symm hu.1.2
        · exact heq
        · have h1 := h k
          have h2 := find?_of_wfFrom_lt (lo := k + 1) (t := (j, w) :: u)
            (by simp only [wfFrom, Bool.and_eq_true, decide_eq_true_eq, Bool.not_eq_true', decide_eq_false_iff_not]
                exact ⟨⟨by omega, hu.1.2⟩, hu.2⟩) (Nat.lt_succ_self k)
          simp only [getD, h2, find?_cons, if_true, Option.getD_none, Option.getD_some] at h1
          exact absurd h1 ht.1.2
      subst hjk
      have hv : v = w := by have := h j; simpa [getD, find?] using this
      subst hv
      have : t = u := ih ht.2 hu.2 fun i => by
        by_cases hi : i = j
        · subst hi
          simp [getD, find?_of_wfFrom_lt ht.2 (Nat.lt_succ_self i), find?_of_wfFrom_lt hu.2 (Nat.lt_succ_self i)]
        · have := h i
          simpa [getD, find?_cons, Ne.symm hi] using this
      rw [this]

end Sys2Proof.Tab
end

