-- ==== Sys2Proof/Laws/Band.lean ====
section
/-!
SUPPORT. What the operations on a band do: registers read after a write, the path table, and what each leaves unchanged.
-/
namespace Sys2Proof.Machine

/-! ## Beats of a mask -/

theorem getLsbD_beat (m : Lanes) (k j : Nat) : (beat m k).getLsbD j = (decide (j < 32) && m.getLsbD (32 * k + j)) := by
  rw [beat, BitVec.getLsbD_ofNat, BitVec.getLsbD, Nat.testBit_div_two_pow, Nat.add_comm]

theorem getLsbD_setBeat (m : Lanes) (k : Nat) (v : Word) {l : Nat} (hl : l < 96) :
    (setBeat m k v).getLsbD l = if 32 * k ≤ l ∧ l < 32 * k + 32 then v.getLsbD (l - 32 * k) else m.getLsbD l := by
  have h1 : ∀ j, (BitVec.ofNat 96 (2 ^ 32 - 1)).getLsbD j = decide (j < 32) := by
    intro j
    rw [BitVec.getLsbD_ofNat, Nat.testBit_two_pow_sub_one]
    by_cases hj : j < 32 <;> simp [hj]; omega
  simp only [setBeat, BitVec.getLsbD_or, BitVec.getLsbD_and, BitVec.getLsbD_not, BitVec.getLsbD_shiftLeft, h1,
    BitVec.getLsbD_setWidth]
  by_cases h : l < 32 * k
  · simp [h, hl, show ¬ (32 * k ≤ l ∧ l < 32 * k + 32) by omega]
  · by_cases h' : l < 32 * k + 32
    · simp [h, hl, show 32 * k ≤ l ∧ l < 32 * k + 32 by omega, show l - 32 * k < 32 by omega,
        show l - 32 * k < 96 by omega]
    · have hv : v.getLsbD (l - 32 * k) = false := BitVec.getLsbD_of_ge v _ (by omega)
      simp [h, hl, hv, show ¬ (32 * k ≤ l ∧ l < 32 * k + 32) by omega, show ¬ (l - 32 * k < 32) by omega]

theorem beat_setBeat_same (m : Lanes) {k : Nat} (hk : k < 3) (v : Word) : beat (setBeat m k v) k = v := by
  apply BitVec.eq_of_getLsbD_eq
  intro j hj
  rw [getLsbD_beat, getLsbD_setBeat m k v (by omega)]
  simp [hj, show 32 * k ≤ 32 * k + j ∧ 32 * k + j < 32 * k + 32 by omega]

theorem beat_setBeat_ne (m : Lanes) {j k : Nat} (hj : j < 3) (v : Word) (h : j ≠ k) :
    beat (setBeat m k v) j = beat m j := by
  apply BitVec.eq_of_getLsbD_eq
  intro i hi
  rw [getLsbD_beat, getLsbD_beat, getLsbD_setBeat m k v (by omega)]
  simp [show ¬ (32 * k ≤ 32 * j + i ∧ 32 * j + i < 32 * k + 32) by omega]

namespace Band

/-! ## Scalar registers -/

@[simp] theorem sreg_zero (b : Band) : b.sreg 0 = 0 := rfl

theorem sreg_setSreg_same (b : Band) (r : Nat) (v : Word) : (b.setSreg r v).sreg r = b.scalarAfter r v := by
  unfold setSreg sreg scalarAfter
  split
  · simp
  · split
    · next h => exact beat_setBeat_same _ (by omega) _
    · simp

theorem sreg_setSreg_ne (b : Band) {r x : Nat} (v : Word) (h : x ≠ r) : (b.setSreg r v).sreg x = b.sreg x := by
  unfold setSreg sreg
  split
  · rfl
  · split
    · next hr =>
      split
      · rfl
      · split
        · next hx => exact beat_setBeat_ne _ (by omega) _ (by omega)
        · rfl
    · split
      · rfl
      · split
        · rfl
        · exact Tab.getD_setD_ne _ _ _ h

/-! ## Vector registers -/

theorem vlane_setVlane (b : Band) (r l v k : Nat) (x : Word) (hl : l < 96) (hk : k < 96) :
    (b.setVlane r l x).vlane v k = if v = r ∧ k = l then x else b.vlane v k := by
  unfold setVlane vlane
  simp only [Tab.getD_setD]
  by_cases h : v = r ∧ k = l
  · simp [h]
  · rw [if_neg h, if_neg (by omega)]

end Band

theorem mem_laneList {m : Lanes} {l : Nat} : l ∈ laneList m ↔ l < 96 ∧ m.getLsbD l = true := by
  simp [laneList]

theorem nodup_laneList (m : Lanes) : (laneList m).Nodup := List.nodup_range.sublist List.filter_sublist

namespace Band

theorem vlane_foldl_setVlane (b : Band) (r : Nat) (f : Nat → Word) (ls : List Nat) (h : ∀ l ∈ ls, l < 96) (v k : Nat) (hk : k < 96) :
    (ls.foldl (fun b l => b.setVlane r l (f l)) b).vlane v k = if v = r ∧ k ∈ ls then f k else b.vlane v k := by
  induction ls generalizing b with
  | nil => simp
  | cons l ls ih =>
    rw [List.foldl_cons, ih _ (fun x hx => h x (List.mem_cons_of_mem _ hx)), vlane_setVlane _ _ _ _ _ _ (h l (by simp)) hk]
    by_cases h1 : v = r
    · by_cases h2 : k ∈ ls
      · simp [h1, h2]
      · by_cases h3 : k = l
        · simp [h1, h3]
        · simp [h1, h2, h3]
    · simp [h1]

theorem vlane_setVreg (b : Band) (r : Nat) (m : Lanes) (vals : Tab Word) (v k : Nat) (hk : k < 96) :
    (b.setVreg r m vals).vlane v k = if v = r ∧ m.getLsbD k = true then vals.getD k 0 else b.vlane v k := by
  rw [setVreg, vlane_foldl_setVlane _ _ (fun l => vals.getD l 0) _ (fun l hl => (mem_laneList.mp hl).1) _ _ hk]
  simp [mem_laneList, hk]

/-! ## What a write of a register leaves unchanged -/

/-- Registers apart, all the fields that a write of a vector register leaves. -/
theorem setVlane_eq (b : Band) (r l : Nat) (x : Word) : b.setVlane r l x = { b with vregs := (b.setVlane r l x).vregs } := rfl

theorem setVreg_eq (b : Band) (r : Nat) (m : Lanes) (vals : Tab Word) :
    b.setVreg r m vals = { b with vregs := (b.setVreg r m vals).vregs } := by
  unfold setVreg
  generalize laneList m = ls
  induction ls generalizing b with
  | nil => rfl
  | cons l ls ih => rw [List.foldl_cons, ih]; rfl

theorem setSreg_eq (b : Band) (r : Nat) (v : Word) :
    b.setSreg r v = { b with sregs := (b.setSreg r v).sregs, mask := (b.setSreg r v).mask } := by
  unfold setSreg
  split
  · rfl
  · split <;> rfl

/-! ## The path table -/

theorem entry_setEntry_same (b : Band) (k : Nat) (p : PathEntry) : (b.setEntry k p).entry k = p := by
  unfold setEntry entry table
  split <;> simp [*]

theorem entry_setEntry_ne (b : Band) {j k : Nat} (p : PathEntry) (h : j ≠ k) : (b.setEntry k p).entry j = b.entry j := by
  unfold setEntry entry table
  split <;> simp [*, Tab.getD_setD_ne _ _ _ h]

theorem ix_setEntry (b : Band) (k : Nat) (p : PathEntry) : (b.setEntry k p).ix = b.ix := by
  unfold setEntry ix
  split <;> simp [*]

theorem inTrap_setEntry (b : Band) (k : Nat) (p : PathEntry) : (b.setEntry k p).inTrap = b.inTrap := by
  unfold setEntry; split <;> rfl

theorem path_setPath (b : Band) (p : PathEntry) : (b.setPath p).path = p := by
  unfold path setPath
  rw [ix_setEntry, entry_setEntry_same]

theorem setEntry_eq (b : Band) (k : Nat) (p : PathEntry) :
    b.setEntry k p = { b with prog := (b.setEntry k p).prog, trp := (b.setEntry k p).trp } := by
  unfold setEntry; split <;> rfl

theorem others_setEntry (b : Band) (k : Nat) (p : PathEntry) :
    if b.inTrap then (b.setEntry k p).prog = b.prog else (b.setEntry k p).trp = b.trp := by
  unfold setEntry; split <;> simp_all

/-- An advance puts the next entry in place. -/
theorem advance_eq (b : Band) : b.advance = b.setPath b.path.next := by
  simp only [advance, PathEntry.next]
  cases h : b.path.rep with
  | none => rfl
  | some r => simp only; split <;> rfl

theorem path_advance (b : Band) : b.advance.path = b.path.next := by rw [advance_eq, path_setPath]

end Band

/-! ## Frames -/

/-- Nothing written. -/
def noReg (_ : Nat) : Prop := False

namespace Frame

theorem refl (b : Band) (S R : Nat → Prop) (m : Lanes) : Frame b b S R m :=
  ⟨fun _ _ => rfl, fun _ _ _ _ => rfl, rfl, fun _ _ => rfl, by split <;> rfl, fun _ _ => rfl, rfl, rfl⟩

theorem setPath (b : Band) (p : PathEntry) (S R : Nat → Prop) (m : Lanes) : Frame b (b.setPath p) S R m := by
  have h := Band.setEntry_eq b b.ix p
  refine ⟨?_, ?_, ?_, fun k hk => Band.entry_setEntry_ne b p hk, Band.others_setEntry b b.ix p, ?_, ?_, ?_⟩ <;>
    unfold Band.setPath <;> rw [h] <;> intros <;> rfl

theorem advance (b : Band) (S R : Nat → Prop) (m : Lanes) : Frame b b.advance S R m := by
  rw [Band.advance_eq]; exact setPath b _ S R m

theorem inTrap_eq {b b' : Band} {S R : Nat → Prop} {m : Lanes} (h : Frame b b' S R m) : b'.inTrap = b.inTrap := by
  have := congrArg Band.inTrap h.rest; exact this

theorem ix_eq {b b' : Band} {S R : Nat → Prop} {m : Lanes} (h : Frame b b' S R m) : b'.ix = b.ix := by
  have ht : b'.tcur = b.tcur := by have := congrArg Band.tcur h.rest; exact this
  have hp : b'.pcur = b.pcur := by have := congrArg Band.pcur h.rest; exact this
  unfold Band.ix
  rw [h.inTrap_eq, ht, hp]

theorem isPinned_eq {b b' : Band} {S R : Nat → Prop} {m : Lanes} (h : Frame b b' S R m) : b'.isPinned = b.isPinned := by
  have hn : b'.rwn = b.rwn := by have := congrArg Band.rwn h.rest; exact this
  have hs : b'.rwset = b.rwset := by have := congrArg Band.rwset h.rest; exact this
  funext v r
  unfold Band.isPinned Band.pinned
  rw [hn, hs]

theorem trans {b c d : Band} {S R : Nat → Prop} {m : Lanes} (h : Frame b c S R m) (k : Frame c d S R m) : Frame b d S R m where
  scalars r hr := (k.scalars r hr).trans (h.scalars r hr)
  vectors v l hl hv := (k.vectors v l hl hv).trans (h.vectors v l hl hv)
  rest := (congrArg (fun x : Band => { x with
    sregs := b.sregs, vregs := b.vregs, mask := b.mask, prog := b.prog, trp := b.trp, boundary := b.boundary,
    results := b.results, olog := b.olog }) k.rest).trans h.rest
  paths j hj := (k.paths j (by rw [h.ix_eq]; exact hj)).trans (h.paths j hj)
  others := by
    have h1 := h.others
    have h2 := k.others
    rw [h.inTrap_eq] at h2
    split at h1 <;> simp_all
  boundary hs hv := (k.boundary (by rw [h.isPinned_eq]; exact hs) (by rw [h.isPinned_eq]; exact hv)).trans (h.boundary hs hv)
  results := k.results.trans h.results
  olog := k.olog.trans h.olog

theorem mono {b c : Band} {S S' R R' : Nat → Prop} {m : Lanes} (h : Frame b c S R m) (hs : ∀ r, S r → S' r)
    (hv : ∀ v, R v → R' v) : Frame b c S' R' m where
  scalars r hr := h.scalars r fun x => hr (hs r x)
  vectors v l hl hn := h.vectors v l hl fun x => hn ⟨hv v x.1, x.2⟩
  rest := h.rest
  paths := h.paths
  others := h.others
  boundary h1 h2 := h.boundary (fun r x => h1 r (hs r x)) fun v x => h2 v (hv v x)
  results := h.results
  olog := h.olog

/-- A write discards what older results have still to write there (R86, R88). -/
theorem dropWrite (b : Band) (vec : Bool) (r : Nat) (m : Lanes) {S R : Nat → Prop} {n : Lanes} : Frame b (b.dropWrite vec r m) S R n where
  scalars _ _ := rfl
  vectors _ _ _ _ := rfl
  rest := rfl
  paths _ _ := rfl
  others := by split <;> rfl
  boundary _ _ := rfl
  results := by
    simp only [Band.dropWrite, List.map_map]
    apply List.map_congr_left
    intro e _
    simp only [Function.comp_apply]
    split <;> rfl
  olog := by
    simp only [Band.dropWrite]
    split
    · rfl
    · rw [List.map_map]
      apply List.map_congr_left
      intro e _
      simp only [Function.comp_apply]
      split <;> rfl

/-- The note on a write (R37, R86, R88). -/
theorem noteWrite (b : Band) (vec : Bool) (r : Nat) (m : Lanes) {S R : Nat → Prop} {n : Lanes}
    (h : if vec then R r else S r) : Frame b (b.noteWrite vec r m) S R n where
  scalars _ _ := rfl
  vectors _ _ _ _ := rfl
  rest := rfl
  paths _ _ := rfl
  others := by split <;> rfl
  boundary hs hv := by
    have : b.isPinned vec r = false := by cases vec <;> simp_all
    simp [Band.noteWrite, this]
  results := (dropWrite b vec r m (S := S) (R := R) (n := n)).results
  olog := (dropWrite b vec r m (S := S) (R := R) (n := n)).olog

theorem setSreg (b : Band) (r : Nat) (v : Word) {S R : Nat → Prop} {m : Lanes} (h : S r) : Frame b (b.setSreg r v) S R m := by
  refine ⟨fun x hx => Band.sreg_setSreg_ne b v fun e => hx (e ▸ h), ?_, ?_, ?_, ?_, ?_, ?_, ?_⟩ <;>
    rw [Band.setSreg_eq] <;> intros <;> (try split) <;> rfl

theorem setVreg (b : Band) (r : Nat) (m : Lanes) (vals : Tab Word) {S R : Nat → Prop} (h : R r) :
    Frame b (b.setVreg r m vals) S R m := by
  refine ⟨?_, fun v l hl hn => ?_, ?_, ?_, ?_, ?_, ?_, ?_⟩
  case refine_2 =>
    rw [Band.vlane_setVreg _ _ _ _ _ _ hl, if_neg]
    rintro ⟨rfl, hm⟩
    exact hn ⟨h, hm⟩
  all_goals rw [Band.setVreg_eq] <;> intros <;> (try split) <;> rfl

theorem writeS (b : Band) (r : Nat) (v : Word) {S R : Nat → Prop} {m : Lanes} (h : S r) : Frame b (b.writeS r v) S R m :=
  (setSreg b r v h).trans (noteWrite _ false r _ (by simpa using h))

theorem writeV (b : Band) (r : Nat) (m : Lanes) (vals : Tab Word) {S R : Nat → Prop} (h : R r) :
    Frame b (b.writeV r m vals) S R m :=
  (setVreg b r m vals h).trans (noteWrite _ true r m (by simpa using h))

end Frame

namespace Band

@[simp] theorem sreg_noteWrite (b : Band) (vec : Bool) (r : Nat) (m : Lanes) : (b.noteWrite vec r m).sreg = b.sreg := rfl
@[simp] theorem vlane_noteWrite (b : Band) (vec : Bool) (r : Nat) (m : Lanes) : (b.noteWrite vec r m).vlane = b.vlane := rfl
@[simp] theorem path_noteWrite (b : Band) (vec : Bool) (r : Nat) (m : Lanes) : (b.noteWrite vec r m).path = b.path := rfl

theorem sreg_writeS_same (b : Band) (r : Nat) (v : Word) : (b.writeS r v).sreg r = b.scalarAfter r v :=
  sreg_setSreg_same b r v

theorem sreg_writeS_ne (b : Band) {r x : Nat} (v : Word) (h : x ≠ r) : (b.writeS r v).sreg x = b.sreg x :=
  sreg_setSreg_ne b v h

theorem vlane_writeV (b : Band) (r : Nat) (m : Lanes) (vals : Tab Word) (v k : Nat) (hk : k < 96) :
    (b.writeV r m vals).vlane v k = if v = r ∧ m.getLsbD k = true then vals.getD k 0 else b.vlane v k :=
  vlane_setVreg b r m vals v k hk

/-- A write of registers leaves the path where it is. -/
theorem path_writeS (b : Band) (r : Nat) (v : Word) : (b.writeS r v).path = b.path := by
  unfold writeS; rw [setSreg_eq]; rfl

theorem path_writeV (b : Band) (r : Nat) (m : Lanes) (vals : Tab Word) : (b.writeV r m vals).path = b.path := by
  unfold writeV; rw [setVreg_eq]; rfl

theorem sreg_advance (b : Band) : b.advance.sreg = b.sreg := by
  funext r; exact (Frame.advance b noReg noReg 0).scalars r id

theorem vlane_advance (b : Band) (v l : Nat) (hl : l < 96) : b.advance.vlane v l = b.vlane v l :=
  (Frame.advance b noReg noReg 0).vectors v l hl fun h => h.1

end Band

/-- A unit that ends after register writes goes on. -/
theorem GoesOn.advance {b c : Band} (h : c.path = b.path) : GoesOn b c.advance := by
  rw [GoesOn, Band.path_advance, h]

end Sys2Proof.Machine
end

