-- ==== Sys2Proof/Laws/State.lean ====
section
/-!
SUPPORT. One lemma per field of the state and per update of `Machine/Regs.lean`: what the update leaves there.
-/
namespace Sys2Proof.Machine.State


/-! ## setBand -/

section
variable (s : State) (b : Band)

@[simp] theorem setBand_agenda : (s.setBand b).agenda = s.agenda := rfl
@[simp] theorem setBand_cur : (s.setBand b).cur = s.cur := rfl
@[simp] theorem setBand_fresh : (s.setBand b).fresh = s.fresh := rfl
@[simp] theorem setBand_nextId : (s.setBand b).nextId = s.nextId := rfl
@[simp] theorem setBand_slots : (s.setBand b).slots = s.slots := rfl
@[simp] theorem setBand_bands : (s.setBand b).bands = s.bands.put s.cur b := rfl
@[simp] theorem setBand_saved : (s.setBand b).saved = s.saved := rfl
@[simp] theorem setBand_quads : (s.setBand b).quads = s.quads := rfl
@[simp] theorem setBand_cores : (s.setBand b).cores = s.cores := rfl
@[simp] theorem setBand_clusters : (s.setBand b).clusters = s.clusters := rfl
@[simp] theorem setBand_tlb : (s.setBand b).tlb = s.tlb := rfl
@[simp] theorem setBand_spad : (s.setBand b).spad = s.spad := rfl
@[simp] theorem setBand_mem : (s.setBand b).mem = s.mem := rfl
@[simp] theorem setBand_rmem : (s.setBand b).rmem = s.rmem := rfl
@[simp] theorem setBand_poison : (s.setBand b).poison = s.poison := rfl
@[simp] theorem setBand_tampered : (s.setBand b).tampered = s.tampered := rfl
@[simp] theorem setBand_kilnRun : (s.setBand b).kilnRun = s.kilnRun := rfl
@[simp] theorem setBand_wheelRun : (s.setBand b).wheelRun = s.wheelRun := rfl
@[simp] theorem setBand_spadPoison : (s.setBand b).spadPoison = s.spadPoison := rfl
@[simp] theorem setBand_glaze : (s.setBand b).glaze = s.glaze := rfl
@[simp] theorem setBand_glazeTree : (s.setBand b).glazeTree = s.glazeTree := rfl
@[simp] theorem setBand_keys : (s.setBand b).keys = s.keys := rfl
@[simp] theorem setBand_headers : (s.setBand b).headers = s.headers := rfl
@[simp] theorem setBand_launches : (s.setBand b).launches = s.launches := rfl
@[simp] theorem setBand_lnchNext : (s.setBand b).lnchNext = s.lnchNext := rfl
@[simp] theorem setBand_parts : (s.setBand b).parts = s.parts := rfl
@[simp] theorem setBand_copies : (s.setBand b).copies = s.copies := rfl
@[simp] theorem setBand_czs : (s.setBand b).czs = s.czs := rfl
@[simp] theorem setBand_remotes : (s.setBand b).remotes = s.remotes := rfl
@[simp] theorem setBand_collectives : (s.setBand b).collectives = s.collectives := rfl
@[simp] theorem setBand_engines : (s.setBand b).engines = s.engines := rfl
@[simp] theorem setBand_standing : (s.setBand b).standing = s.standing := rfl
@[simp] theorem setBand_lastServed : (s.setBand b).lastServed = s.lastServed := rfl
@[simp] theorem setBand_mail : (s.setBand b).mail = s.mail := rfl
@[simp] theorem setBand_doorbells : (s.setBand b).doorbells = s.doorbells := rfl
@[simp] theorem setBand_windows : (s.setBand b).windows = s.windows := rfl
@[simp] theorem setBand_shootdowns : (s.setBand b).shootdowns = s.shootdowns := rfl
@[simp] theorem setBand_kilnSeq : (s.setBand b).kilnSeq = s.kilnSeq := rfl
@[simp] theorem setBand_kilnRecords : (s.setBand b).kilnRecords = s.kilnRecords := rfl
@[simp] theorem setBand_wheelRecords : (s.setBand b).wheelRecords = s.wheelRecords := rfl
@[simp] theorem setBand_serial : (s.setBand b).serial = s.serial := rfl
@[simp] theorem setBand_proposalNext : (s.setBand b).proposalNext = s.proposalNext := rfl
@[simp] theorem setBand_channels : (s.setBand b).channels = s.channels := rfl
@[simp] theorem setBand_limit : (s.setBand b).limit = s.limit := rfl
@[simp] theorem setBand_capOn : (s.setBand b).capOn = s.capOn := rfl
@[simp] theorem setBand_power : (s.setBand b).power = s.power := rfl
@[simp] theorem setBand_locked : (s.setBand b).locked = s.locked := rfl
@[simp] theorem setBand_devid : (s.setBand b).devid = s.devid := rfl
@[simp] theorem setBand_ports : (s.setBand b).ports = s.ports := rfl
@[simp] theorem setBand_iso : (s.setBand b).iso = s.iso := rfl
@[simp] theorem setBand_idle : (s.setBand b).idle = s.idle := rfl
@[simp] theorem setBand_ready : (s.setBand b).ready = s.ready := rfl
@[simp] theorem setBand_booterr : (s.setBand b).booterr = s.booterr := rfl
@[simp] theorem setBand_held : (s.setBand b).held = s.held := rfl
@[simp] theorem setBand_kilnVersion : (s.setBand b).kilnVersion = s.kilnVersion := rfl
@[simp] theorem setBand_wheelVersion : (s.setBand b).wheelVersion = s.wheelVersion := rfl
@[simp] theorem setBand_kilnRollback : (s.setBand b).kilnRollback = s.kilnRollback := rfl
@[simp] theorem setBand_wheelRollback : (s.setBand b).wheelRollback = s.wheelRollback := rfl
@[simp] theorem setBand_fuses : (s.setBand b).fuses = s.fuses := rfl
@[simp] theorem setBand_notes : (s.setBand b).notes = s.notes := rfl
@[simp] theorem setBand_hostReads : (s.setBand b).hostReads = s.hostReads := rfl
@[simp] theorem setBand_loads : (s.setBand b).loads = s.loads := rfl
end

/-! ## setQuad -/

section
variable (s : State) (q : Nat) (v : Quad)

@[simp] theorem setQuad_agenda : (s.setQuad q v).agenda = s.agenda := rfl
@[simp] theorem setQuad_cur : (s.setQuad q v).cur = s.cur := rfl
@[simp] theorem setQuad_fresh : (s.setQuad q v).fresh = s.fresh := rfl
@[simp] theorem setQuad_nextId : (s.setQuad q v).nextId = s.nextId := rfl
@[simp] theorem setQuad_slots : (s.setQuad q v).slots = s.slots := rfl
@[simp] theorem setQuad_bands : (s.setQuad q v).bands = s.bands := rfl
@[simp] theorem setQuad_saved : (s.setQuad q v).saved = s.saved := rfl
@[simp] theorem setQuad_quads : (s.setQuad q v).quads = s.quads.put q v := rfl
@[simp] theorem setQuad_cores : (s.setQuad q v).cores = s.cores := rfl
@[simp] theorem setQuad_clusters : (s.setQuad q v).clusters = s.clusters := rfl
@[simp] theorem setQuad_tlb : (s.setQuad q v).tlb = s.tlb := rfl
@[simp] theorem setQuad_spad : (s.setQuad q v).spad = s.spad := rfl
@[simp] theorem setQuad_mem : (s.setQuad q v).mem = s.mem := rfl
@[simp] theorem setQuad_rmem : (s.setQuad q v).rmem = s.rmem := rfl
@[simp] theorem setQuad_poison : (s.setQuad q v).poison = s.poison := rfl
@[simp] theorem setQuad_tampered : (s.setQuad q v).tampered = s.tampered := rfl
@[simp] theorem setQuad_kilnRun : (s.setQuad q v).kilnRun = s.kilnRun := rfl
@[simp] theorem setQuad_wheelRun : (s.setQuad q v).wheelRun = s.wheelRun := rfl
@[simp] theorem setQuad_spadPoison : (s.setQuad q v).spadPoison = s.spadPoison := rfl
@[simp] theorem setQuad_glaze : (s.setQuad q v).glaze = s.glaze := rfl
@[simp] theorem setQuad_glazeTree : (s.setQuad q v).glazeTree = s.glazeTree := rfl
@[simp] theorem setQuad_keys : (s.setQuad q v).keys = s.keys := rfl
@[simp] theorem setQuad_headers : (s.setQuad q v).headers = s.headers := rfl
@[simp] theorem setQuad_launches : (s.setQuad q v).launches = s.launches := rfl
@[simp] theorem setQuad_lnchNext : (s.setQuad q v).lnchNext = s.lnchNext := rfl
@[simp] theorem setQuad_parts : (s.setQuad q v).parts = s.parts := rfl
@[simp] theorem setQuad_copies : (s.setQuad q v).copies = s.copies := rfl
@[simp] theorem setQuad_czs : (s.setQuad q v).czs = s.czs := rfl
@[simp] theorem setQuad_remotes : (s.setQuad q v).remotes = s.remotes := rfl
@[simp] theorem setQuad_collectives : (s.setQuad q v).collectives = s.collectives := rfl
@[simp] theorem setQuad_engines : (s.setQuad q v).engines = s.engines := rfl
@[simp] theorem setQuad_standing : (s.setQuad q v).standing = s.standing := rfl
@[simp] theorem setQuad_lastServed : (s.setQuad q v).lastServed = s.lastServed := rfl
@[simp] theorem setQuad_mail : (s.setQuad q v).mail = s.mail := rfl
@[simp] theorem setQuad_doorbells : (s.setQuad q v).doorbells = s.doorbells := rfl
@[simp] theorem setQuad_windows : (s.setQuad q v).windows = s.windows := rfl
@[simp] theorem setQuad_shootdowns : (s.setQuad q v).shootdowns = s.shootdowns := rfl
@[simp] theorem setQuad_kilnSeq : (s.setQuad q v).kilnSeq = s.kilnSeq := rfl
@[simp] theorem setQuad_kilnRecords : (s.setQuad q v).kilnRecords = s.kilnRecords := rfl
@[simp] theorem setQuad_wheelRecords : (s.setQuad q v).wheelRecords = s.wheelRecords := rfl
@[simp] theorem setQuad_serial : (s.setQuad q v).serial = s.serial := rfl
@[simp] theorem setQuad_proposalNext : (s.setQuad q v).proposalNext = s.proposalNext := rfl
@[simp] theorem setQuad_channels : (s.setQuad q v).channels = s.channels := rfl
@[simp] theorem setQuad_limit : (s.setQuad q v).limit = s.limit := rfl
@[simp] theorem setQuad_capOn : (s.setQuad q v).capOn = s.capOn := rfl
@[simp] theorem setQuad_power : (s.setQuad q v).power = s.power := rfl
@[simp] theorem setQuad_locked : (s.setQuad q v).locked = s.locked := rfl
@[simp] theorem setQuad_devid : (s.setQuad q v).devid = s.devid := rfl
@[simp] theorem setQuad_ports : (s.setQuad q v).ports = s.ports := rfl
@[simp] theorem setQuad_iso : (s.setQuad q v).iso = s.iso := rfl
@[simp] theorem setQuad_idle : (s.setQuad q v).idle = s.idle := rfl
@[simp] theorem setQuad_ready : (s.setQuad q v).ready = s.ready := rfl
@[simp] theorem setQuad_booterr : (s.setQuad q v).booterr = s.booterr := rfl
@[simp] theorem setQuad_held : (s.setQuad q v).held = s.held := rfl
@[simp] theorem setQuad_kilnVersion : (s.setQuad q v).kilnVersion = s.kilnVersion := rfl
@[simp] theorem setQuad_wheelVersion : (s.setQuad q v).wheelVersion = s.wheelVersion := rfl
@[simp] theorem setQuad_kilnRollback : (s.setQuad q v).kilnRollback = s.kilnRollback := rfl
@[simp] theorem setQuad_wheelRollback : (s.setQuad q v).wheelRollback = s.wheelRollback := rfl
@[simp] theorem setQuad_fuses : (s.setQuad q v).fuses = s.fuses := rfl
@[simp] theorem setQuad_notes : (s.setQuad q v).notes = s.notes := rfl
@[simp] theorem setQuad_hostReads : (s.setQuad q v).hostReads = s.hostReads := rfl
@[simp] theorem setQuad_loads : (s.setQuad q v).loads = s.loads := rfl
end

/-! ## setCore -/

section
variable (s : State) (k : Nat) (v : CoreState)

@[simp] theorem setCore_agenda : (s.setCore k v).agenda = s.agenda := rfl
@[simp] theorem setCore_cur : (s.setCore k v).cur = s.cur := rfl
@[simp] theorem setCore_fresh : (s.setCore k v).fresh = s.fresh := rfl
@[simp] theorem setCore_nextId : (s.setCore k v).nextId = s.nextId := rfl
@[simp] theorem setCore_slots : (s.setCore k v).slots = s.slots := rfl
@[simp] theorem setCore_bands : (s.setCore k v).bands = s.bands := rfl
@[simp] theorem setCore_saved : (s.setCore k v).saved = s.saved := rfl
@[simp] theorem setCore_quads : (s.setCore k v).quads = s.quads := rfl
@[simp] theorem setCore_cores : (s.setCore k v).cores = s.cores.put k v := rfl
@[simp] theorem setCore_clusters : (s.setCore k v).clusters = s.clusters := rfl
@[simp] theorem setCore_tlb : (s.setCore k v).tlb = s.tlb := rfl
@[simp] theorem setCore_spad : (s.setCore k v).spad = s.spad := rfl
@[simp] theorem setCore_mem : (s.setCore k v).mem = s.mem := rfl
@[simp] theorem setCore_rmem : (s.setCore k v).rmem = s.rmem := rfl
@[simp] theorem setCore_poison : (s.setCore k v).poison = s.poison := rfl
@[simp] theorem setCore_tampered : (s.setCore k v).tampered = s.tampered := rfl
@[simp] theorem setCore_kilnRun : (s.setCore k v).kilnRun = s.kilnRun := rfl
@[simp] theorem setCore_wheelRun : (s.setCore k v).wheelRun = s.wheelRun := rfl
@[simp] theorem setCore_spadPoison : (s.setCore k v).spadPoison = s.spadPoison := rfl
@[simp] theorem setCore_glaze : (s.setCore k v).glaze = s.glaze := rfl
@[simp] theorem setCore_glazeTree : (s.setCore k v).glazeTree = s.glazeTree := rfl
@[simp] theorem setCore_keys : (s.setCore k v).keys = s.keys := rfl
@[simp] theorem setCore_headers : (s.setCore k v).headers = s.headers := rfl
@[simp] theorem setCore_launches : (s.setCore k v).launches = s.launches := rfl
@[simp] theorem setCore_lnchNext : (s.setCore k v).lnchNext = s.lnchNext := rfl
@[simp] theorem setCore_parts : (s.setCore k v).parts = s.parts := rfl
@[simp] theorem setCore_copies : (s.setCore k v).copies = s.copies := rfl
@[simp] theorem setCore_czs : (s.setCore k v).czs = s.czs := rfl
@[simp] theorem setCore_remotes : (s.setCore k v).remotes = s.remotes := rfl
@[simp] theorem setCore_collectives : (s.setCore k v).collectives = s.collectives := rfl
@[simp] theorem setCore_engines : (s.setCore k v).engines = s.engines := rfl
@[simp] theorem setCore_standing : (s.setCore k v).standing = s.standing := rfl
@[simp] theorem setCore_lastServed : (s.setCore k v).lastServed = s.lastServed := rfl
@[simp] theorem setCore_mail : (s.setCore k v).mail = s.mail := rfl
@[simp] theorem setCore_doorbells : (s.setCore k v).doorbells = s.doorbells := rfl
@[simp] theorem setCore_windows : (s.setCore k v).windows = s.windows := rfl
@[simp] theorem setCore_shootdowns : (s.setCore k v).shootdowns = s.shootdowns := rfl
@[simp] theorem setCore_kilnSeq : (s.setCore k v).kilnSeq = s.kilnSeq := rfl
@[simp] theorem setCore_kilnRecords : (s.setCore k v).kilnRecords = s.kilnRecords := rfl
@[simp] theorem setCore_wheelRecords : (s.setCore k v).wheelRecords = s.wheelRecords := rfl
@[simp] theorem setCore_serial : (s.setCore k v).serial = s.serial := rfl
@[simp] theorem setCore_proposalNext : (s.setCore k v).proposalNext = s.proposalNext := rfl
@[simp] theorem setCore_channels : (s.setCore k v).channels = s.channels := rfl
@[simp] theorem setCore_limit : (s.setCore k v).limit = s.limit := rfl
@[simp] theorem setCore_capOn : (s.setCore k v).capOn = s.capOn := rfl
@[simp] theorem setCore_power : (s.setCore k v).power = s.power := rfl
@[simp] theorem setCore_locked : (s.setCore k v).locked = s.locked := rfl
@[simp] theorem setCore_devid : (s.setCore k v).devid = s.devid := rfl
@[simp] theorem setCore_ports : (s.setCore k v).ports = s.ports := rfl
@[simp] theorem setCore_iso : (s.setCore k v).iso = s.iso := rfl
@[simp] theorem setCore_idle : (s.setCore k v).idle = s.idle := rfl
@[simp] theorem setCore_ready : (s.setCore k v).ready = s.ready := rfl
@[simp] theorem setCore_booterr : (s.setCore k v).booterr = s.booterr := rfl
@[simp] theorem setCore_held : (s.setCore k v).held = s.held := rfl
@[simp] theorem setCore_kilnVersion : (s.setCore k v).kilnVersion = s.kilnVersion := rfl
@[simp] theorem setCore_wheelVersion : (s.setCore k v).wheelVersion = s.wheelVersion := rfl
@[simp] theorem setCore_kilnRollback : (s.setCore k v).kilnRollback = s.kilnRollback := rfl
@[simp] theorem setCore_wheelRollback : (s.setCore k v).wheelRollback = s.wheelRollback := rfl
@[simp] theorem setCore_fuses : (s.setCore k v).fuses = s.fuses := rfl
@[simp] theorem setCore_notes : (s.setCore k v).notes = s.notes := rfl
@[simp] theorem setCore_hostReads : (s.setCore k v).hostReads = s.hostReads := rfl
@[simp] theorem setCore_loads : (s.setCore k v).loads = s.loads := rfl
end

/-! ## setCluster -/

section
variable (s : State) (c : Nat) (v : ClusterState)

@[simp] theorem setCluster_agenda : (s.setCluster c v).agenda = s.agenda := rfl
@[simp] theorem setCluster_cur : (s.setCluster c v).cur = s.cur := rfl
@[simp] theorem setCluster_fresh : (s.setCluster c v).fresh = s.fresh := rfl
@[simp] theorem setCluster_nextId : (s.setCluster c v).nextId = s.nextId := rfl
@[simp] theorem setCluster_slots : (s.setCluster c v).slots = s.slots := rfl
@[simp] theorem setCluster_bands : (s.setCluster c v).bands = s.bands := rfl
@[simp] theorem setCluster_saved : (s.setCluster c v).saved = s.saved := rfl
@[simp] theorem setCluster_quads : (s.setCluster c v).quads = s.quads := rfl
@[simp] theorem setCluster_cores : (s.setCluster c v).cores = s.cores := rfl
@[simp] theorem setCluster_clusters : (s.setCluster c v).clusters = s.clusters.put c v := rfl
@[simp] theorem setCluster_tlb : (s.setCluster c v).tlb = s.tlb := rfl
@[simp] theorem setCluster_spad : (s.setCluster c v).spad = s.spad := rfl
@[simp] theorem setCluster_mem : (s.setCluster c v).mem = s.mem := rfl
@[simp] theorem setCluster_rmem : (s.setCluster c v).rmem = s.rmem := rfl
@[simp] theorem setCluster_poison : (s.setCluster c v).poison = s.poison := rfl
@[simp] theorem setCluster_tampered : (s.setCluster c v).tampered = s.tampered := rfl
@[simp] theorem setCluster_kilnRun : (s.setCluster c v).kilnRun = s.kilnRun := rfl
@[simp] theorem setCluster_wheelRun : (s.setCluster c v).wheelRun = s.wheelRun := rfl
@[simp] theorem setCluster_spadPoison : (s.setCluster c v).spadPoison = s.spadPoison := rfl
@[simp] theorem setCluster_glaze : (s.setCluster c v).glaze = s.glaze := rfl
@[simp] theorem setCluster_glazeTree : (s.setCluster c v).glazeTree = s.glazeTree := rfl
@[simp] theorem setCluster_keys : (s.setCluster c v).keys = s.keys := rfl
@[simp] theorem setCluster_headers : (s.setCluster c v).headers = s.headers := rfl
@[simp] theorem setCluster_launches : (s.setCluster c v).launches = s.launches := rfl
@[simp] theorem setCluster_lnchNext : (s.setCluster c v).lnchNext = s.lnchNext := rfl
@[simp] theorem setCluster_parts : (s.setCluster c v).parts = s.parts := rfl
@[simp] theorem setCluster_copies : (s.setCluster c v).copies = s.copies := rfl
@[simp] theorem setCluster_czs : (s.setCluster c v).czs = s.czs := rfl
@[simp] theorem setCluster_remotes : (s.setCluster c v).remotes = s.remotes := rfl
@[simp] theorem setCluster_collectives : (s.setCluster c v).collectives = s.collectives := rfl
@[simp] theorem setCluster_engines : (s.setCluster c v).engines = s.engines := rfl
@[simp] theorem setCluster_standing : (s.setCluster c v).standing = s.standing := rfl
@[simp] theorem setCluster_lastServed : (s.setCluster c v).lastServed = s.lastServed := rfl
@[simp] theorem setCluster_mail : (s.setCluster c v).mail = s.mail := rfl
@[simp] theorem setCluster_doorbells : (s.setCluster c v).doorbells = s.doorbells := rfl
@[simp] theorem setCluster_windows : (s.setCluster c v).windows = s.windows := rfl
@[simp] theorem setCluster_shootdowns : (s.setCluster c v).shootdowns = s.shootdowns := rfl
@[simp] theorem setCluster_kilnSeq : (s.setCluster c v).kilnSeq = s.kilnSeq := rfl
@[simp] theorem setCluster_kilnRecords : (s.setCluster c v).kilnRecords = s.kilnRecords := rfl
@[simp] theorem setCluster_wheelRecords : (s.setCluster c v).wheelRecords = s.wheelRecords := rfl
@[simp] theorem setCluster_serial : (s.setCluster c v).serial = s.serial := rfl
@[simp] theorem setCluster_proposalNext : (s.setCluster c v).proposalNext = s.proposalNext := rfl
@[simp] theorem setCluster_channels : (s.setCluster c v).channels = s.channels := rfl
@[simp] theorem setCluster_limit : (s.setCluster c v).limit = s.limit := rfl
@[simp] theorem setCluster_capOn : (s.setCluster c v).capOn = s.capOn := rfl
@[simp] theorem setCluster_power : (s.setCluster c v).power = s.power := rfl
@[simp] theorem setCluster_locked : (s.setCluster c v).locked = s.locked := rfl
@[simp] theorem setCluster_devid : (s.setCluster c v).devid = s.devid := rfl
@[simp] theorem setCluster_ports : (s.setCluster c v).ports = s.ports := rfl
@[simp] theorem setCluster_iso : (s.setCluster c v).iso = s.iso := rfl
@[simp] theorem setCluster_idle : (s.setCluster c v).idle = s.idle := rfl
@[simp] theorem setCluster_ready : (s.setCluster c v).ready = s.ready := rfl
@[simp] theorem setCluster_booterr : (s.setCluster c v).booterr = s.booterr := rfl
@[simp] theorem setCluster_held : (s.setCluster c v).held = s.held := rfl
@[simp] theorem setCluster_kilnVersion : (s.setCluster c v).kilnVersion = s.kilnVersion := rfl
@[simp] theorem setCluster_wheelVersion : (s.setCluster c v).wheelVersion = s.wheelVersion := rfl
@[simp] theorem setCluster_kilnRollback : (s.setCluster c v).kilnRollback = s.kilnRollback := rfl
@[simp] theorem setCluster_wheelRollback : (s.setCluster c v).wheelRollback = s.wheelRollback := rfl
@[simp] theorem setCluster_fuses : (s.setCluster c v).fuses = s.fuses := rfl
@[simp] theorem setCluster_notes : (s.setCluster c v).notes = s.notes := rfl
@[simp] theorem setCluster_hostReads : (s.setCluster c v).hostReads = s.hostReads := rfl
@[simp] theorem setCluster_loads : (s.setCluster c v).loads = s.loads := rfl
end

/-! ## setSlot -/

section
variable (s : State) (n : Nat) (v : SlotState)

@[simp] theorem setSlot_agenda : (s.setSlot n v).agenda = s.agenda := rfl
@[simp] theorem setSlot_cur : (s.setSlot n v).cur = s.cur := rfl
@[simp] theorem setSlot_fresh : (s.setSlot n v).fresh = s.fresh := rfl
@[simp] theorem setSlot_nextId : (s.setSlot n v).nextId = s.nextId := rfl
@[simp] theorem setSlot_slots : (s.setSlot n v).slots = s.slots.put n v := rfl
@[simp] theorem setSlot_bands : (s.setSlot n v).bands = s.bands := rfl
@[simp] theorem setSlot_saved : (s.setSlot n v).saved = s.saved := rfl
@[simp] theorem setSlot_quads : (s.setSlot n v).quads = s.quads := rfl
@[simp] theorem setSlot_cores : (s.setSlot n v).cores = s.cores := rfl
@[simp] theorem setSlot_clusters : (s.setSlot n v).clusters = s.clusters := rfl
@[simp] theorem setSlot_tlb : (s.setSlot n v).tlb = s.tlb := rfl
@[simp] theorem setSlot_spad : (s.setSlot n v).spad = s.spad := rfl
@[simp] theorem setSlot_mem : (s.setSlot n v).mem = s.mem := rfl
@[simp] theorem setSlot_rmem : (s.setSlot n v).rmem = s.rmem := rfl
@[simp] theorem setSlot_poison : (s.setSlot n v).poison = s.poison := rfl
@[simp] theorem setSlot_tampered : (s.setSlot n v).tampered = s.tampered := rfl
@[simp] theorem setSlot_kilnRun : (s.setSlot n v).kilnRun = s.kilnRun := rfl
@[simp] theorem setSlot_wheelRun : (s.setSlot n v).wheelRun = s.wheelRun := rfl
@[simp] theorem setSlot_spadPoison : (s.setSlot n v).spadPoison = s.spadPoison := rfl
@[simp] theorem setSlot_glaze : (s.setSlot n v).glaze = s.glaze := rfl
@[simp] theorem setSlot_glazeTree : (s.setSlot n v).glazeTree = s.glazeTree := rfl
@[simp] theorem setSlot_keys : (s.setSlot n v).keys = s.keys := rfl
@[simp] theorem setSlot_headers : (s.setSlot n v).headers = s.headers := rfl
@[simp] theorem setSlot_launches : (s.setSlot n v).launches = s.launches := rfl
@[simp] theorem setSlot_lnchNext : (s.setSlot n v).lnchNext = s.lnchNext := rfl
@[simp] theorem setSlot_parts : (s.setSlot n v).parts = s.parts := rfl
@[simp] theorem setSlot_copies : (s.setSlot n v).copies = s.copies := rfl
@[simp] theorem setSlot_czs : (s.setSlot n v).czs = s.czs := rfl
@[simp] theorem setSlot_remotes : (s.setSlot n v).remotes = s.remotes := rfl
@[simp] theorem setSlot_collectives : (s.setSlot n v).collectives = s.collectives := rfl
@[simp] theorem setSlot_engines : (s.setSlot n v).engines = s.engines := rfl
@[simp] theorem setSlot_standing : (s.setSlot n v).standing = s.standing := rfl
@[simp] theorem setSlot_lastServed : (s.setSlot n v).lastServed = s.lastServed := rfl
@[simp] theorem setSlot_mail : (s.setSlot n v).mail = s.mail := rfl
@[simp] theorem setSlot_doorbells : (s.setSlot n v).doorbells = s.doorbells := rfl
@[simp] theorem setSlot_windows : (s.setSlot n v).windows = s.windows := rfl
@[simp] theorem setSlot_shootdowns : (s.setSlot n v).shootdowns = s.shootdowns := rfl
@[simp] theorem setSlot_kilnSeq : (s.setSlot n v).kilnSeq = s.kilnSeq := rfl
@[simp] theorem setSlot_kilnRecords : (s.setSlot n v).kilnRecords = s.kilnRecords := rfl
@[simp] theorem setSlot_wheelRecords : (s.setSlot n v).wheelRecords = s.wheelRecords := rfl
@[simp] theorem setSlot_serial : (s.setSlot n v).serial = s.serial := rfl
@[simp] theorem setSlot_proposalNext : (s.setSlot n v).proposalNext = s.proposalNext := rfl
@[simp] theorem setSlot_channels : (s.setSlot n v).channels = s.channels := rfl
@[simp] theorem setSlot_limit : (s.setSlot n v).limit = s.limit := rfl
@[simp] theorem setSlot_capOn : (s.setSlot n v).capOn = s.capOn := rfl
@[simp] theorem setSlot_power : (s.setSlot n v).power = s.power := rfl
@[simp] theorem setSlot_locked : (s.setSlot n v).locked = s.locked := rfl
@[simp] theorem setSlot_devid : (s.setSlot n v).devid = s.devid := rfl
@[simp] theorem setSlot_ports : (s.setSlot n v).ports = s.ports := rfl
@[simp] theorem setSlot_iso : (s.setSlot n v).iso = s.iso := rfl
@[simp] theorem setSlot_idle : (s.setSlot n v).idle = s.idle := rfl
@[simp] theorem setSlot_ready : (s.setSlot n v).ready = s.ready := rfl
@[simp] theorem setSlot_booterr : (s.setSlot n v).booterr = s.booterr := rfl
@[simp] theorem setSlot_held : (s.setSlot n v).held = s.held := rfl
@[simp] theorem setSlot_kilnVersion : (s.setSlot n v).kilnVersion = s.kilnVersion := rfl
@[simp] theorem setSlot_wheelVersion : (s.setSlot n v).wheelVersion = s.wheelVersion := rfl
@[simp] theorem setSlot_kilnRollback : (s.setSlot n v).kilnRollback = s.kilnRollback := rfl
@[simp] theorem setSlot_wheelRollback : (s.setSlot n v).wheelRollback = s.wheelRollback := rfl
@[simp] theorem setSlot_fuses : (s.setSlot n v).fuses = s.fuses := rfl
@[simp] theorem setSlot_notes : (s.setSlot n v).notes = s.notes := rfl
@[simp] theorem setSlot_hostReads : (s.setSlot n v).hostReads = s.hostReads := rfl
@[simp] theorem setSlot_loads : (s.setSlot n v).loads = s.loads := rfl
end

/-! ## setPart -/

section
variable (s : State) (p : Nat) (v : Partition)

@[simp] theorem setPart_agenda : (s.setPart p v).agenda = s.agenda := rfl
@[simp] theorem setPart_cur : (s.setPart p v).cur = s.cur := rfl
@[simp] theorem setPart_fresh : (s.setPart p v).fresh = s.fresh := rfl
@[simp] theorem setPart_nextId : (s.setPart p v).nextId = s.nextId := rfl
@[simp] theorem setPart_slots : (s.setPart p v).slots = s.slots := rfl
@[simp] theorem setPart_bands : (s.setPart p v).bands = s.bands := rfl
@[simp] theorem setPart_saved : (s.setPart p v).saved = s.saved := rfl
@[simp] theorem setPart_quads : (s.setPart p v).quads = s.quads := rfl
@[simp] theorem setPart_cores : (s.setPart p v).cores = s.cores := rfl
@[simp] theorem setPart_clusters : (s.setPart p v).clusters = s.clusters := rfl
@[simp] theorem setPart_tlb : (s.setPart p v).tlb = s.tlb := rfl
@[simp] theorem setPart_spad : (s.setPart p v).spad = s.spad := rfl
@[simp] theorem setPart_mem : (s.setPart p v).mem = s.mem := rfl
@[simp] theorem setPart_rmem : (s.setPart p v).rmem = s.rmem := rfl
@[simp] theorem setPart_poison : (s.setPart p v).poison = s.poison := rfl
@[simp] theorem setPart_tampered : (s.setPart p v).tampered = s.tampered := rfl
@[simp] theorem setPart_kilnRun : (s.setPart p v).kilnRun = s.kilnRun := rfl
@[simp] theorem setPart_wheelRun : (s.setPart p v).wheelRun = s.wheelRun := rfl
@[simp] theorem setPart_spadPoison : (s.setPart p v).spadPoison = s.spadPoison := rfl
@[simp] theorem setPart_glaze : (s.setPart p v).glaze = s.glaze := rfl
@[simp] theorem setPart_glazeTree : (s.setPart p v).glazeTree = s.glazeTree := rfl
@[simp] theorem setPart_keys : (s.setPart p v).keys = s.keys := rfl
@[simp] theorem setPart_headers : (s.setPart p v).headers = s.headers := rfl
@[simp] theorem setPart_launches : (s.setPart p v).launches = s.launches := rfl
@[simp] theorem setPart_lnchNext : (s.setPart p v).lnchNext = s.lnchNext := rfl
@[simp] theorem setPart_parts : (s.setPart p v).parts = s.parts.put p v := rfl
@[simp] theorem setPart_copies : (s.setPart p v).copies = s.copies := rfl
@[simp] theorem setPart_czs : (s.setPart p v).czs = s.czs := rfl
@[simp] theorem setPart_remotes : (s.setPart p v).remotes = s.remotes := rfl
@[simp] theorem setPart_collectives : (s.setPart p v).collectives = s.collectives := rfl
@[simp] theorem setPart_engines : (s.setPart p v).engines = s.engines := rfl
@[simp] theorem setPart_standing : (s.setPart p v).standing = s.standing := rfl
@[simp] theorem setPart_lastServed : (s.setPart p v).lastServed = s.lastServed := rfl
@[simp] theorem setPart_mail : (s.setPart p v).mail = s.mail := rfl
@[simp] theorem setPart_doorbells : (s.setPart p v).doorbells = s.doorbells := rfl
@[simp] theorem setPart_windows : (s.setPart p v).windows = s.windows := rfl
@[simp] theorem setPart_shootdowns : (s.setPart p v).shootdowns = s.shootdowns := rfl
@[simp] theorem setPart_kilnSeq : (s.setPart p v).kilnSeq = s.kilnSeq := rfl
@[simp] theorem setPart_kilnRecords : (s.setPart p v).kilnRecords = s.kilnRecords := rfl
@[simp] theorem setPart_wheelRecords : (s.setPart p v).wheelRecords = s.wheelRecords := rfl
@[simp] theorem setPart_serial : (s.setPart p v).serial = s.serial := rfl
@[simp] theorem setPart_proposalNext : (s.setPart p v).proposalNext = s.proposalNext := rfl
@[simp] theorem setPart_channels : (s.setPart p v).channels = s.channels := rfl
@[simp] theorem setPart_limit : (s.setPart p v).limit = s.limit := rfl
@[simp] theorem setPart_capOn : (s.setPart p v).capOn = s.capOn := rfl
@[simp] theorem setPart_power : (s.setPart p v).power = s.power := rfl
@[simp] theorem setPart_locked : (s.setPart p v).locked = s.locked := rfl
@[simp] theorem setPart_devid : (s.setPart p v).devid = s.devid := rfl
@[simp] theorem setPart_ports : (s.setPart p v).ports = s.ports := rfl
@[simp] theorem setPart_iso : (s.setPart p v).iso = s.iso := rfl
@[simp] theorem setPart_idle : (s.setPart p v).idle = s.idle := rfl
@[simp] theorem setPart_ready : (s.setPart p v).ready = s.ready := rfl
@[simp] theorem setPart_booterr : (s.setPart p v).booterr = s.booterr := rfl
@[simp] theorem setPart_held : (s.setPart p v).held = s.held := rfl
@[simp] theorem setPart_kilnVersion : (s.setPart p v).kilnVersion = s.kilnVersion := rfl
@[simp] theorem setPart_wheelVersion : (s.setPart p v).wheelVersion = s.wheelVersion := rfl
@[simp] theorem setPart_kilnRollback : (s.setPart p v).kilnRollback = s.kilnRollback := rfl
@[simp] theorem setPart_wheelRollback : (s.setPart p v).wheelRollback = s.wheelRollback := rfl
@[simp] theorem setPart_fuses : (s.setPart p v).fuses = s.fuses := rfl
@[simp] theorem setPart_notes : (s.setPart p v).notes = s.notes := rfl
@[simp] theorem setPart_hostReads : (s.setPart p v).hostReads = s.hostReads := rfl
@[simp] theorem setPart_loads : (s.setPart p v).loads = s.loads := rfl
end

/-! ## modPart -/

section
variable (s : State) (p : Nat) (f : Partition → Partition)

@[simp] theorem modPart_agenda : (s.modPart p f).agenda = s.agenda := rfl
@[simp] theorem modPart_cur : (s.modPart p f).cur = s.cur := rfl
@[simp] theorem modPart_fresh : (s.modPart p f).fresh = s.fresh := rfl
@[simp] theorem modPart_nextId : (s.modPart p f).nextId = s.nextId := rfl
@[simp] theorem modPart_slots : (s.modPart p f).slots = s.slots := rfl
@[simp] theorem modPart_bands : (s.modPart p f).bands = s.bands := rfl
@[simp] theorem modPart_saved : (s.modPart p f).saved = s.saved := rfl
@[simp] theorem modPart_quads : (s.modPart p f).quads = s.quads := rfl
@[simp] theorem modPart_cores : (s.modPart p f).cores = s.cores := rfl
@[simp] theorem modPart_clusters : (s.modPart p f).clusters = s.clusters := rfl
@[simp] theorem modPart_tlb : (s.modPart p f).tlb = s.tlb := rfl
@[simp] theorem modPart_spad : (s.modPart p f).spad = s.spad := rfl
@[simp] theorem modPart_mem : (s.modPart p f).mem = s.mem := rfl
@[simp] theorem modPart_rmem : (s.modPart p f).rmem = s.rmem := rfl
@[simp] theorem modPart_poison : (s.modPart p f).poison = s.poison := rfl
@[simp] theorem modPart_tampered : (s.modPart p f).tampered = s.tampered := rfl
@[simp] theorem modPart_kilnRun : (s.modPart p f).kilnRun = s.kilnRun := rfl
@[simp] theorem modPart_wheelRun : (s.modPart p f).wheelRun = s.wheelRun := rfl
@[simp] theorem modPart_spadPoison : (s.modPart p f).spadPoison = s.spadPoison := rfl
@[simp] theorem modPart_glaze : (s.modPart p f).glaze = s.glaze := rfl
@[simp] theorem modPart_glazeTree : (s.modPart p f).glazeTree = s.glazeTree := rfl
@[simp] theorem modPart_keys : (s.modPart p f).keys = s.keys := rfl
@[simp] theorem modPart_headers : (s.modPart p f).headers = s.headers := rfl
@[simp] theorem modPart_launches : (s.modPart p f).launches = s.launches := rfl
@[simp] theorem modPart_lnchNext : (s.modPart p f).lnchNext = s.lnchNext := rfl
@[simp] theorem modPart_parts : (s.modPart p f).parts = s.parts.adjust p f := rfl
@[simp] theorem modPart_copies : (s.modPart p f).copies = s.copies := rfl
@[simp] theorem modPart_czs : (s.modPart p f).czs = s.czs := rfl
@[simp] theorem modPart_remotes : (s.modPart p f).remotes = s.remotes := rfl
@[simp] theorem modPart_collectives : (s.modPart p f).collectives = s.collectives := rfl
@[simp] theorem modPart_engines : (s.modPart p f).engines = s.engines := rfl
@[simp] theorem modPart_standing : (s.modPart p f).standing = s.standing := rfl
@[simp] theorem modPart_lastServed : (s.modPart p f).lastServed = s.lastServed := rfl
@[simp] theorem modPart_mail : (s.modPart p f).mail = s.mail := rfl
@[simp] theorem modPart_doorbells : (s.modPart p f).doorbells = s.doorbells := rfl
@[simp] theorem modPart_windows : (s.modPart p f).windows = s.windows := rfl
@[simp] theorem modPart_shootdowns : (s.modPart p f).shootdowns = s.shootdowns := rfl
@[simp] theorem modPart_kilnSeq : (s.modPart p f).kilnSeq = s.kilnSeq := rfl
@[simp] theorem modPart_kilnRecords : (s.modPart p f).kilnRecords = s.kilnRecords := rfl
@[simp] theorem modPart_wheelRecords : (s.modPart p f).wheelRecords = s.wheelRecords := rfl
@[simp] theorem modPart_serial : (s.modPart p f).serial = s.serial := rfl
@[simp] theorem modPart_proposalNext : (s.modPart p f).proposalNext = s.proposalNext := rfl
@[simp] theorem modPart_channels : (s.modPart p f).channels = s.channels := rfl
@[simp] theorem modPart_limit : (s.modPart p f).limit = s.limit := rfl
@[simp] theorem modPart_capOn : (s.modPart p f).capOn = s.capOn := rfl
@[simp] theorem modPart_power : (s.modPart p f).power = s.power := rfl
@[simp] theorem modPart_locked : (s.modPart p f).locked = s.locked := rfl
@[simp] theorem modPart_devid : (s.modPart p f).devid = s.devid := rfl
@[simp] theorem modPart_ports : (s.modPart p f).ports = s.ports := rfl
@[simp] theorem modPart_iso : (s.modPart p f).iso = s.iso := rfl
@[simp] theorem modPart_idle : (s.modPart p f).idle = s.idle := rfl
@[simp] theorem modPart_ready : (s.modPart p f).ready = s.ready := rfl
@[simp] theorem modPart_booterr : (s.modPart p f).booterr = s.booterr := rfl
@[simp] theorem modPart_held : (s.modPart p f).held = s.held := rfl
@[simp] theorem modPart_kilnVersion : (s.modPart p f).kilnVersion = s.kilnVersion := rfl
@[simp] theorem modPart_wheelVersion : (s.modPart p f).wheelVersion = s.wheelVersion := rfl
@[simp] theorem modPart_kilnRollback : (s.modPart p f).kilnRollback = s.kilnRollback := rfl
@[simp] theorem modPart_wheelRollback : (s.modPart p f).wheelRollback = s.wheelRollback := rfl
@[simp] theorem modPart_fuses : (s.modPart p f).fuses = s.fuses := rfl
@[simp] theorem modPart_notes : (s.modPart p f).notes = s.notes := rfl
@[simp] theorem modPart_hostReads : (s.modPart p f).hostReads = s.hostReads := rfl
@[simp] theorem modPart_loads : (s.modPart p f).loads = s.loads := rfl
end

/-! ## modLaunch -/

section
variable (s : State) (l : Word) (f : Launch → Launch)

@[simp] theorem modLaunch_agenda : (s.modLaunch l f).agenda = s.agenda := rfl
@[simp] theorem modLaunch_cur : (s.modLaunch l f).cur = s.cur := rfl
@[simp] theorem modLaunch_fresh : (s.modLaunch l f).fresh = s.fresh := rfl
@[simp] theorem modLaunch_nextId : (s.modLaunch l f).nextId = s.nextId := rfl
@[simp] theorem modLaunch_slots : (s.modLaunch l f).slots = s.slots := rfl
@[simp] theorem modLaunch_bands : (s.modLaunch l f).bands = s.bands := rfl
@[simp] theorem modLaunch_saved : (s.modLaunch l f).saved = s.saved := rfl
@[simp] theorem modLaunch_quads : (s.modLaunch l f).quads = s.quads := rfl
@[simp] theorem modLaunch_cores : (s.modLaunch l f).cores = s.cores := rfl
@[simp] theorem modLaunch_clusters : (s.modLaunch l f).clusters = s.clusters := rfl
@[simp] theorem modLaunch_tlb : (s.modLaunch l f).tlb = s.tlb := rfl
@[simp] theorem modLaunch_spad : (s.modLaunch l f).spad = s.spad := rfl
@[simp] theorem modLaunch_mem : (s.modLaunch l f).mem = s.mem := rfl
@[simp] theorem modLaunch_rmem : (s.modLaunch l f).rmem = s.rmem := rfl
@[simp] theorem modLaunch_poison : (s.modLaunch l f).poison = s.poison := rfl
@[simp] theorem modLaunch_tampered : (s.modLaunch l f).tampered = s.tampered := rfl
@[simp] theorem modLaunch_kilnRun : (s.modLaunch l f).kilnRun = s.kilnRun := rfl
@[simp] theorem modLaunch_wheelRun : (s.modLaunch l f).wheelRun = s.wheelRun := rfl
@[simp] theorem modLaunch_spadPoison : (s.modLaunch l f).spadPoison = s.spadPoison := rfl
@[simp] theorem modLaunch_glaze : (s.modLaunch l f).glaze = s.glaze := rfl
@[simp] theorem modLaunch_glazeTree : (s.modLaunch l f).glazeTree = s.glazeTree := rfl
@[simp] theorem modLaunch_keys : (s.modLaunch l f).keys = s.keys := rfl
@[simp] theorem modLaunch_headers : (s.modLaunch l f).headers = s.headers := rfl
@[simp] theorem modLaunch_launches : (s.modLaunch l f).launches = s.launches.adjust l.toNat f := rfl
@[simp] theorem modLaunch_lnchNext : (s.modLaunch l f).lnchNext = s.lnchNext := rfl
@[simp] theorem modLaunch_parts : (s.modLaunch l f).parts = s.parts := rfl
@[simp] theorem modLaunch_copies : (s.modLaunch l f).copies = s.copies := rfl
@[simp] theorem modLaunch_czs : (s.modLaunch l f).czs = s.czs := rfl
@[simp] theorem modLaunch_remotes : (s.modLaunch l f).remotes = s.remotes := rfl
@[simp] theorem modLaunch_collectives : (s.modLaunch l f).collectives = s.collectives := rfl
@[simp] theorem modLaunch_engines : (s.modLaunch l f).engines = s.engines := rfl
@[simp] theorem modLaunch_standing : (s.modLaunch l f).standing = s.standing := rfl
@[simp] theorem modLaunch_lastServed : (s.modLaunch l f).lastServed = s.lastServed := rfl
@[simp] theorem modLaunch_mail : (s.modLaunch l f).mail = s.mail := rfl
@[simp] theorem modLaunch_doorbells : (s.modLaunch l f).doorbells = s.doorbells := rfl
@[simp] theorem modLaunch_windows : (s.modLaunch l f).windows = s.windows := rfl
@[simp] theorem modLaunch_shootdowns : (s.modLaunch l f).shootdowns = s.shootdowns := rfl
@[simp] theorem modLaunch_kilnSeq : (s.modLaunch l f).kilnSeq = s.kilnSeq := rfl
@[simp] theorem modLaunch_kilnRecords : (s.modLaunch l f).kilnRecords = s.kilnRecords := rfl
@[simp] theorem modLaunch_wheelRecords : (s.modLaunch l f).wheelRecords = s.wheelRecords := rfl
@[simp] theorem modLaunch_serial : (s.modLaunch l f).serial = s.serial := rfl
@[simp] theorem modLaunch_proposalNext : (s.modLaunch l f).proposalNext = s.proposalNext := rfl
@[simp] theorem modLaunch_channels : (s.modLaunch l f).channels = s.channels := rfl
@[simp] theorem modLaunch_limit : (s.modLaunch l f).limit = s.limit := rfl
@[simp] theorem modLaunch_capOn : (s.modLaunch l f).capOn = s.capOn := rfl
@[simp] theorem modLaunch_power : (s.modLaunch l f).power = s.power := rfl
@[simp] theorem modLaunch_locked : (s.modLaunch l f).locked = s.locked := rfl
@[simp] theorem modLaunch_devid : (s.modLaunch l f).devid = s.devid := rfl
@[simp] theorem modLaunch_ports : (s.modLaunch l f).ports = s.ports := rfl
@[simp] theorem modLaunch_iso : (s.modLaunch l f).iso = s.iso := rfl
@[simp] theorem modLaunch_idle : (s.modLaunch l f).idle = s.idle := rfl
@[simp] theorem modLaunch_ready : (s.modLaunch l f).ready = s.ready := rfl
@[simp] theorem modLaunch_booterr : (s.modLaunch l f).booterr = s.booterr := rfl
@[simp] theorem modLaunch_held : (s.modLaunch l f).held = s.held := rfl
@[simp] theorem modLaunch_kilnVersion : (s.modLaunch l f).kilnVersion = s.kilnVersion := rfl
@[simp] theorem modLaunch_wheelVersion : (s.modLaunch l f).wheelVersion = s.wheelVersion := rfl
@[simp] theorem modLaunch_kilnRollback : (s.modLaunch l f).kilnRollback = s.kilnRollback := rfl
@[simp] theorem modLaunch_wheelRollback : (s.modLaunch l f).wheelRollback = s.wheelRollback := rfl
@[simp] theorem modLaunch_fuses : (s.modLaunch l f).fuses = s.fuses := rfl
@[simp] theorem modLaunch_notes : (s.modLaunch l f).notes = s.notes := rfl
@[simp] theorem modLaunch_hostReads : (s.modLaunch l f).hostReads = s.hostReads := rfl
@[simp] theorem modLaunch_loads : (s.modLaunch l f).loads = s.loads := rfl
end

/-! ## Reading back -/

@[simp] theorem band_setBand (s : State) (b : Band) : (s.setBand b).band = b := by simp [band]

@[simp] theorem setBand_setBand_cur (s : State) (b : Band) : (s.setBand b).bands.find? s.cur = some b := by simp

@[simp] theorem quad_setQuad (s : State) (q : Nat) (v : Quad) : (s.setQuad q v).quad q = v := by simp [quad]

theorem quad_setQuad_ne (s : State) {p q : Nat} (v : Quad) (h : p ≠ q) : (s.setQuad q v).quad p = s.quad p := by
  simp [quad, Tab.getD_put_ne _ _ _ h]

@[simp] theorem core_setCore (s : State) (k : Nat) (v : CoreState) : (s.setCore k v).core k = v := by simp [core]

theorem core_setCore_ne (s : State) {j k : Nat} (v : CoreState) (h : j ≠ k) : (s.setCore k v).core j = s.core j := by
  simp [core, Tab.getD_put_ne _ _ _ h]

@[simp] theorem cluster_setCluster (s : State) (k : Nat) (v : ClusterState) : (s.setCluster k v).cluster k = v := by
  simp [cluster]

theorem cluster_setCluster_ne (s : State) {j k : Nat} (v : ClusterState) (h : j ≠ k) :
    (s.setCluster k v).cluster j = s.cluster j := by simp [cluster, Tab.getD_put_ne _ _ _ h]

@[simp] theorem slot_setSlot (s : State) (n : Nat) (v : SlotState) : (s.setSlot n v).slot n = v := by simp [slot]

theorem slot_setSlot_ne (s : State) {m n : Nat} (v : SlotState) (h : m ≠ n) : (s.setSlot n v).slot m = s.slot m := by
  simp [slot, Tab.getD_put_ne _ _ _ h]

/-- What the band of `cur` is, where the slot holds one. -/
theorem band_of_find? {s : State} {b : Band} (h : s.bands.find? s.cur = some b) : s.band = b := by simp [band, h]

end Sys2Proof.Machine.State
end

