-- ==== Sys2Proof/Laws/Issue.lean ====
section
/-!
SUPPORT. What the shared shapes of a meaning can do: `issue`, `unit`, `form`, `finish`, the delivery of results, and the taking
of an exception.
-/
namespace Sys2Proof.Machine

/-! ## Issuing -/

theorem issue_noBand {i : Instr} {s : State} {legal : Band → Bool} {k : Band → State} (h : s.bands.find? s.cur = none) :
    issue i s legal k = .refused .noBand := by simp [issue, h]

theorem issue_legal {i : Instr} {s : State} {b : Band} {legal : Band → Bool} {k : Band → State} (h : s.holds b)
    (hw : i.wf = true) (hl : legal b = true) : issue i s legal k = .next (k b) := by
  simp [issue, show s.bands.find? s.cur = some b from h, hw, hl]

theorem issue_illegal {i : Instr} {s : State} {b : Band} {legal : Band → Bool} {k : Band → State} (h : s.holds b)
    (hl : (i.wf && legal b) = false) : issue i s legal k = .next (trapIllegal s (wordOf i)) := by
  simp [issue, show s.bands.find? s.cur = some b from h, hl]

/-- All that an issue can answer. -/
theorem issue_cases {i : Instr} {s : State} {legal : Band → Bool} {k : Band → State} {o : Out} (h : issue i s legal k = o) :
    (s.bands.find? s.cur = none ∧ o = .refused .noBand)
    ∨ ∃ b, s.holds b ∧ ((i.wf = true ∧ legal b = true ∧ o = .next (k b))
        ∨ ((i.wf && legal b) = false ∧ o = .next (trapIllegal s (wordOf i)))) := by
  subst h
  cases hb : s.bands.find? s.cur with
  | none => exact .inl ⟨rfl, issue_noBand hb⟩
  | some b =>
    refine .inr ⟨b, hb, ?_⟩
    by_cases hw : i.wf = true
    · by_cases hl : legal b = true
      · exact .inl ⟨hw, hl, issue_legal hb hw hl⟩
      · have : (i.wf && legal b) = false := by simp [hl]
        exact .inr ⟨this, issue_illegal hb this⟩
    · have : (i.wf && legal b) = false := by simp [hw]
      exact .inr ⟨this, issue_illegal hb this⟩

theorem unit_next {i : Instr} {s : State} {b : Band} {legal : Band → Bool} {f : Band → Band} (h : s.holds b)
    (hw : i.wf = true) (hl : legal b = true) : unit i s legal f = .next (s.setBand (f b).advance) := issue_legal h hw hl

theorem form_next {i : Instr} {s : State} {b : Band} {legal : Band → Bool} {cap : Band → Captured} {k : Captured → State → Ans}
    (h : s.holds b) (hw : i.wf = true) (hl : legal b = true) : form i s legal cap k = .next (finish (cap b) (k (cap b) s) s) :=
  issue_legal h hw hl

@[simp] theorem always_eq (b : Band) : always b = true := rfl

theorem State.holds.band {s : State} {b : Band} (h : s.holds b) : s.band = b := State.band_of_find? h

/-! ## How a form ends -/

theorem finish_done (c : Captured) (ws : List RegWrite) (s s0 : State) :
    finish c (.done ws s) s0 = (deliver s c.la ws).modBand Band.advance := rfl

theorem finish_early (c : Captured) (f : FaultAt) (s0 : State) : finish c (.early f) s0 = trapEarly s0 c.word f := rfl

theorem finish_wait (c : Captured) (k : WaitKind) (ph : List (Nat × Bool)) (s s0 : State) :
    finish c (.wait k ph s) s0 = s.setBand (s.band.setPath { s.band.path with
      wait := some { order := s.nextId, kind := k, cap := c, phases := ph, left := 0, rid := 0, seq := none, rcd := [] } }) := rfl

theorem deliver_zero (s : State) (ws : List RegWrite) : deliver s 0 ws = s.setBand (s.band.writeAll ws) := rfl

theorem deliver_nil_zero (s : State) : deliver s 0 [] = s.setBand s.band := rfl

/-- A setBand that follows another one replaces it. -/
theorem put_put {α : Type} (t : Tab α) (i : Nat) (v w : α) : (t.put i v).put i w = t.put i w := by
  induction t with
  | nil => simp [Tab.put]
  | cons e t ih =>
    obtain ⟨k, x⟩ := e
    simp only [Tab.put]
    by_cases h1 : i < k
    · simp [h1, Tab.put]
    · by_cases h2 : i = k
      · simp [h2, Tab.put]
      · simp [h1, h2, Tab.put, ih]

theorem setBand_setBand (s : State) (b c : Band) : (s.setBand b).setBand c = s.setBand c := by
  simp only [State.setBand, put_put]

/-- A form that is done at once, with no window. -/
theorem finish_done_zero {c : Captured} {ws : List RegWrite} {s s0 : State} (h : c.la = 0) :
    finish c (.done ws s) s0 = s.setBand (s.band.writeAll ws).advance := by
  rw [finish_done, h, deliver_zero, State.modBand, State.band_setBand, setBand_setBand]

/-! ## Results -/

namespace Band

@[simp] theorem writeAll_nil (b : Band) : b.writeAll [] = b := rfl

theorem writeAll_cons (b : Band) (w : RegWrite) (ws : List RegWrite) :
    b.writeAll (w :: ws) = (if w.vec then b.writeV w.reg w.mask w.vals else b.writeS w.reg (w.vals.getD 0 0)).writeAll ws := rfl

/-- What a list of writes leaves unchanged. -/
theorem frame_writeAll (b : Band) (ws : List RegWrite) {S R : Nat → Prop} {m : Lanes}
    (h : ∀ w ∈ ws, if w.vec then R w.reg ∧ w.mask = m else S w.reg) : Frame b (b.writeAll ws) S R m := by
  induction ws generalizing b with
  | nil => exact Frame.refl b S R m
  | cons w ws ih =>
    rw [writeAll_cons]
    have hw := h w (by simp)
    refine Frame.trans ?_ (ih _ fun x hx => h x (List.mem_cons_of_mem _ hx))
    cases hv : w.vec with
    | true => simp only [hv, if_true] at hw ⊢; rw [hw.2]; exact Frame.writeV b _ _ _ hw.1
    | false => simp [hv] at hw ⊢; exact Frame.writeS b _ _ hw

theorem path_writeAll (b : Band) (ws : List RegWrite) : (b.writeAll ws).path = b.path := by
  induction ws generalizing b with
  | nil => rfl
  | cons w ws ih =>
    rw [writeAll_cons, ih]
    split
    · exact path_writeV b _ _ _
    · exact path_writeS b _ _

/-- One vector register written in the lanes m. -/
theorem vlane_writeAll_v (b : Band) (r : Nat) (m : Lanes) (vals : Tab Word) (v k : Nat) (hk : k < 96) :
    (b.writeAll [vWrite r m vals]).vlane v k = if v = r ∧ m.getLsbD k = true then vals.getD k 0 else b.vlane v k :=
  vlane_writeV b r m vals v k hk

end Band

theorem getD_map_laneList {α : Type} (m : Lanes) (f : Nat → α) (d : α) {l : Nat} (hl : l < 96) (hm : m.getLsbD l = true) :
    Tab.getD ((laneList m).map fun l => (l, f l)) l d = f l := by
  have hmem : l ∈ laneList m := mem_laneList.mpr ⟨hl, hm⟩
  generalize laneList m = ls at hmem
  induction ls with
  | nil => simp at hmem
  | cons a ls ih =>
    rw [List.map_cons, Tab.getD, Tab.find?_cons]
    by_cases h : a = l
    · simp [h]
    · rw [if_neg h]
      exact ih (by simpa [Ne.symm h] using hmem)

/-- The register value that a code of a type leaves in a lane of its register, and in the next one for a pair (R46, R157). -/
theorem vlane_writeAll_wr (b x : Band) (t : Ty) (d : Nat) (m : Lanes) (f : Nat → Nat) {l : Nat} (hl : l < 96)
    (hm : m.getLsbD l = true) :
    if t.is64 then (b.writeAll (x.wr t d m f)).vlane d l = w32 (f l) ∧ (b.writeAll (x.wr t d m f)).vlane (d + 1) l = w32 (f l / 2 ^ 32)
    else (b.writeAll (x.wr t d m f)).vlane d l = wrWord t (f l) := by
  unfold Band.wr
  have e1 : ((laneList m).map fun l => (l, f l)).map (fun e : Nat × Nat => (e.1, w32 e.2)) = (laneList m).map fun l => (l, w32 (f l)) := by
    rw [List.map_map]; rfl
  have e2 : ((laneList m).map fun l => (l, f l)).map (fun e : Nat × Nat => (e.1, w32 (e.2 / 2 ^ 32))) = (laneList m).map fun l => (l, w32 (f l / 2 ^ 32)) := by
    rw [List.map_map]; rfl
  have e3 : ((laneList m).map fun l => (l, f l)).map (fun e : Nat × Nat => (e.1, wrWord t e.2)) = (laneList m).map fun l => (l, wrWord t (f l)) := by
    rw [List.map_map]; rfl
  cases h : t.is64 with
  | true =>
    simp only [if_true, e1, e2, Band.writeAll_cons, Band.writeAll_nil, vWrite]
    constructor
    · rw [Band.vlane_writeV _ _ _ _ _ _ hl, if_neg (by omega), Band.vlane_writeV _ _ _ _ _ _ hl, if_pos ⟨rfl, hm⟩,
        getD_map_laneList m (fun l => w32 (f l)) 0 hl hm]
    · rw [Band.vlane_writeV _ _ _ _ _ _ hl, if_pos ⟨rfl, hm⟩, getD_map_laneList m (fun l => w32 (f l / 2 ^ 32)) 0 hl hm]
  | false =>
    simp only [Bool.false_eq_true, if_false, e3]
    rw [Band.vlane_writeAll_v _ _ _ _ _ _ hl, if_pos ⟨rfl, hm⟩, getD_map_laneList m (fun l => wrWord t (f l)) 0 hl hm]

/-- The registers that a result of a type names. -/
def wrRegs (t : Ty) (d v : Nat) : Prop := v = d ∨ (t.is64 = true ∧ v = d + 1)

theorem frame_writeAll_wr (b x : Band) (t : Ty) (d : Nat) (m : Lanes) (f : Nat → Nat) :
    Frame b (b.writeAll (x.wr t d m f)) noReg (wrRegs t d) m := by
  apply Band.frame_writeAll
  intro w hw
  unfold Band.wr at hw
  split at hw
  · next h =>
    simp only [List.mem_cons, List.not_mem_nil, or_false] at hw
    rcases hw with rfl | rfl
    · exact ⟨Or.inl rfl, rfl⟩
    · exact ⟨Or.inr ⟨h, rfl⟩, rfl⟩
  · simp only [List.mem_cons, List.not_mem_nil, or_false] at hw
    subst hw
    exact ⟨Or.inl rfl, rfl⟩

/-! ## Exceptions -/

/-- Where a trap goes (R403, R411, R412). -/
theorem takeTrap_program {s : State} {b : Band} (h : s.holds b) (ht : b.inTrap = false) (hh : (s.part b.part).handler ≠ 0)
    (cause : Word) (f : FaultAt) (dl : Nat) (log : Option Nat) (pc tpc : Addr) (word : Word) (mask : Lanes) :
    takeTrap s cause f dl log pc tpc word mask
      = s.setBand (b.enterTrap (s.part b.part).handler cause tpc (faultRecord b s.cur f dl log pc tpc word mask 0)) := by
  simp only [takeTrap, h.band, ht, Bool.false_eq_true, if_false, if_neg hh]

theorem takeTrap_noHandler {s : State} {b : Band} (h : s.holds b) (ht : b.inTrap = false) (hh : (s.part b.part).handler = 0)
    (cause : Word) (f : FaultAt) (dl : Nat) (log : Option Nat) (pc tpc : Addr) (word : Word) (mask : Lanes) :
    takeTrap s cause f dl log pc tpc word mask
      = killLaunch s b.lnch f.code (some (b.bid, faultRecord b s.cur f dl log pc tpc word mask 0)) := by
  simp [takeTrap, h.band, ht, hh]

theorem takeTrap_nested {s : State} {b : Band} (h : s.holds b) (ht : b.inTrap = true)
    (cause : Word) (f : FaultAt) (dl : Nat) (log : Option Nat) (pc tpc : Addr) (word : Word) (mask : Lanes) :
    takeTrap s cause f dl log pc tpc word mask = doubleFault s cause f pc tpc word mask := by
  simp [takeTrap, h.band, ht]

end Sys2Proof.Machine
end

