-- ==== Sys2Proof/Laws/Deliver.lean ====
section
/-!
SUPPORT. The delivery of results, at once or in a result entry: what any form that ends with register writes does to its band.
-/
namespace Sys2Proof.Machine

/-! ## Writes at once and writes in an entry leave the same registers -/

/-- Two bands with the same registers. -/
structure SameRegs (b c : Band) : Prop where
  sregs : b.sregs = c.sregs
  vregs : b.vregs = c.vregs
  mask  : b.mask = c.mask
  occ   : b.occ = c.occ

namespace SameRegs

theorem refl (b : Band) : SameRegs b b := ⟨rfl, rfl, rfl, rfl⟩
theorem symm {b c : Band} (h : SameRegs b c) : SameRegs c b := ⟨h.sregs.symm, h.vregs.symm, h.mask.symm, h.occ.symm⟩
theorem trans {b c d : Band} (h : SameRegs b c) (k : SameRegs c d) : SameRegs b d :=
  ⟨h.sregs.trans k.sregs, h.vregs.trans k.vregs, h.mask.trans k.mask, h.occ.trans k.occ⟩

theorem sreg {b c : Band} (h : SameRegs b c) : b.sreg = c.sreg := by
  funext r; simp only [Band.sreg, h.sregs, h.mask]

theorem vlane {b c : Band} (h : SameRegs b c) : b.vlane = c.vlane := by
  funext r l; simp only [Band.vlane, h.vregs]

theorem setSreg {b c : Band} (h : SameRegs b c) (r : Nat) (v : Word) : SameRegs (b.setSreg r v) (c.setSreg r v) := by
  simp only [Band.setSreg]
  split
  · exact h
  · split
    · exact ⟨h.sregs, h.vregs, by simp only [h.mask, h.occ], h.occ⟩
    · exact ⟨by simp only [h.sregs], h.vregs, h.mask, h.occ⟩

theorem setVreg {b c : Band} (h : SameRegs b c) (r : Nat) (m : Lanes) (vals : Tab Word) :
    SameRegs (b.setVreg r m vals) (c.setVreg r m vals) := by
  simp only [Band.setVreg]
  generalize laneList m = ls
  induction ls generalizing b c with
  | nil => exact h
  | cons l ls ih => exact ih ⟨h.sregs, by simp only [Band.setVlane, h.vregs], h.mask, h.occ⟩

theorem noteWrite (b : Band) (vec : Bool) (r : Nat) (m : Lanes) : SameRegs (b.noteWrite vec r m) b := ⟨rfl, rfl, rfl, rfl⟩

theorem foldl_dropWrite (b : Band) (ws : List RegWrite) :
    SameRegs (ws.foldl (fun b w => b.dropWrite w.vec w.reg w.mask) b) b := by
  induction ws generalizing b with
  | nil => exact refl b
  | cons w ws ih => exact (ih _).trans ⟨rfl, rfl, rfl, rfl⟩

/-- A write that an entry holds leaves the registers that the same write leaves at once. -/
theorem applyWrite {b c : Band} (h : SameRegs b c) (w : RegWrite) (hw : w.vec = false → w.mask ≠ 0) :
    SameRegs (b.applyWrite w) (if w.vec then c.writeV w.reg w.mask w.vals else c.writeS w.reg (w.vals.getD 0 0)) := by
  simp only [Band.applyWrite]
  cases hv : w.vec with
  | true => exact (h.setVreg _ _ _).trans (noteWrite _ _ _ _).symm
  | false => rw [if_neg (by simp), if_neg (hw hv), if_neg (by simp)]; exact (h.setSreg _ _).trans (noteWrite _ _ _ _).symm

theorem foldl_applyWrite {b c : Band} (h : SameRegs b c) (ws : List RegWrite) (hw : ∀ w ∈ ws, w.vec = false → w.mask ≠ 0) :
    SameRegs (ws.foldl Band.applyWrite b) (c.writeAll ws) := by
  induction ws generalizing b c with
  | nil => exact h
  | cons w ws ih =>
    rw [List.foldl_cons, Band.writeAll_cons]
    exact ih (h.applyWrite w (hw w (by simp))) fun x hx => hw x (List.mem_cons_of_mem _ hx)

end SameRegs

/-! ## An effect that a list of writes has -/

/-- A list of writes gives a band the registers that an effect names, and no others. -/
structure Realises (b : Band) (ws : List RegWrite) (e : Claims.Effect) : Prop where
  regs : ∀ w ∈ ws, if w.vec then (∃ x ∈ e.vectors, x.1 = w.reg) ∧ w.mask = e.lanes else (∃ x ∈ e.scalars, x.1 = w.reg) ∧ w.mask ≠ 0
  scalars : ∀ x ∈ e.scalars, (b.writeAll ws).sreg x.1 = b.scalarAfter x.1 x.2
  vectors : ∀ x ∈ e.vectors, ∀ l, l < 96 → e.lanes.getLsbD l = true → (b.writeAll ws).vlane x.1 l = x.2 l

theorem Realises.frame {b : Band} {ws : List RegWrite} {e : Claims.Effect} (h : Realises b ws e) :
    Frame b (b.writeAll ws) (fun r => ∃ w ∈ e.scalars, w.1 = r) (fun v => ∃ w ∈ e.vectors, w.1 = v) e.lanes := by
  refine Band.frame_writeAll b ws fun w hw => ?_
  have := h.regs w hw
  split at this <;> simp_all

theorem Realises.masks {b : Band} {ws : List RegWrite} {e : Claims.Effect} (h : Realises b ws e) :
    ∀ w ∈ ws, w.vec = false → w.mask ≠ 0 := by
  intro w hw hv
  have := h.regs w hw
  simp [hv] at this
  exact this.2

/-- What writes discard, without the writes. -/
theorem frame_foldl_dropWrite (b : Band) (ws : List RegWrite) {S R : Nat → Prop} {m : Lanes} :
    Frame b (ws.foldl (fun b w => b.dropWrite w.vec w.reg w.mask) b) S R m := by
  induction ws generalizing b with
  | nil => exact Frame.refl b S R m
  | cons w ws ih => exact (Frame.dropWrite b w.vec w.reg w.mask).trans (ih _)

theorem path_foldl_dropWrite (b : Band) (ws : List RegWrite) :
    (ws.foldl (fun b w => b.dropWrite w.vec w.reg w.mask) b).path = b.path := by
  induction ws generalizing b with
  | nil => rfl
  | cons w ws ih => exact (ih _).trans rfl

theorem advance_results (b : Band) (rs : List ResultEntry) : ({ b with results := rs } : Band).advance = { b.advance with results := rs } := by
  rw [Band.advance_eq, Band.advance_eq]
  show Band.setEntry _ _ _ = _
  rw [Band.setEntry_eq, Band.setPath, Band.setEntry_eq b]
  have hp : ({ b with results := rs } : Band).path = b.path := rfl
  have hi : ({ b with results := rs } : Band).ix = b.ix := rfl
  rw [hp, hi]
  cases ht : b.inTrap <;> simp [Band.setEntry, ht]

theorem sregs_advance (b : Band) : b.advance.sregs = b.sregs ∧ b.advance.vregs = b.vregs ∧ b.advance.mask = b.mask := by
  rw [Band.advance_eq, Band.setPath, Band.setEntry_eq]
  exact ⟨rfl, rfl, rfl⟩

/-- A form that is done, with writes that realise an effect: at once for LA = 0, else in a result entry (R84). -/
theorem queued_delivers {s s' : State} {b : Band} {i : Instr} {la : LA} {ws : List RegWrite} {e : Claims.Effect}
    (h : exec i s = .next ((deliver s' la.val ws).modBand Band.advance)) (hb : s'.band = b) (hr : Realises b ws e) :
    Claims.Delivers s s' b i la e := by
  unfold Claims.Delivers
  split
  · next hz =>
    rw [hz, deliver_zero, State.modBand, State.band_setBand, setBand_setBand, hb] at h
    refine ⟨_, h, fun w hw => ?_, fun w hw l hl hm => ?_, hr.frame.trans (Frame.advance _ _ _ _), ?_⟩
    · rw [Band.sreg_advance]; exact hr.scalars w hw
    · rw [Band.vlane_advance _ _ _ hl]; exact hr.vectors w hw l hl hm
    · exact GoesOn.advance (Band.path_writeAll b ws)
  · next hz =>
    have same := (SameRegs.refl b).foldl_applyWrite ws hr.masks
    let c := ws.foldl (fun b w => b.dropWrite w.vec w.reg w.mask) b
    have hc : SameRegs c b := SameRegs.foldl_dropWrite b ws
    have hix : b.ix = b.ix := rfl
    refine ⟨c.advance, { id := s'.nextId, order := s'.nextId, inTrap := b.inTrap, path := b.ix, long := true, weight := none, windows := [(b.ix, la.val)], writes := ws, arrived := false
                         pending := 0 },
      ?_, rfl, rfl, rfl, rfl, rfl, rfl, rfl, ?_, ?_, ?_, ?_, ?_, ?_, ?_, ?_, ?_⟩
    · rw [h]
      simp only [deliver, hz, if_false, State.nextSeq]
      rw [State.modBand, State.modBand, State.band_setBand, setBand_setBand, advance_results]
      have hb2 : State.band { s' with nextId := s'.nextId + 1 } = b := hb
      rw [hb2]
      have hcr : c.advance.results = c.results := by rw [Band.advance_eq, Band.setPath, Band.setEntry_eq]
      rw [hcr]
    · exact (sregs_advance c).1.trans hc.sregs
    · exact (sregs_advance c).2.1.trans hc.vregs
    · exact (sregs_advance c).2.2.trans hc.mask
    · exact (frame_foldl_dropWrite b ws).trans (Frame.advance _ _ _ _)
    · exact GoesOn.advance (path_foldl_dropWrite b ws)
    · intro w hw; rw [same.sreg]; exact hr.scalars w hw
    · intro w hw l hl hm; rw [same.vlane]; exact hr.vectors w hw l hl hm
    · intro x hx
      rw [same.sreg]
      exact hr.frame.scalars x fun ⟨w, hw, e⟩ => hx w hw e
    · intro v l hl hn
      rw [same.vlane]
      exact hr.frame.vectors v l hl hn

end Sys2Proof.Machine
end

