-- ==== Sys2Proof/Laws/Memory.lean ====
section
/-!
SUPPORT. Memory: a byte read after a write, every other byte, and the canonical form that every memory operation keeps.
-/
namespace Sys2Proof.Machine.Memory

/-! ## One byte -/

@[simp] theorem byte_setByte_same (m : Memory) (a : Nat) (b : Byte) : (m.setByte a b).byte a = b :=
  Tab.getD_setD_same m a b blank

theorem byte_setByte_ne (m : Memory) {a x : Nat} (b : Byte) (h : x ≠ a) : (m.setByte a b).byte x = m.byte x :=
  Tab.getD_setD_ne m b blank h

theorem byte_setByte (m : Memory) (a x : Nat) (b : Byte) : (m.setByte a b).byte x = if x = a then b else m.byte x :=
  Tab.getD_setD m a x b blank

@[simp] theorem byte_nil (a : Nat) : byte [] a = 0 := rfl

/-! ## Byte strings -/

theorem byte_setBytes_out (m : Memory) (a : Nat) (bs : List Byte) {x : Nat} (h : x < a ∨ a + bs.length ≤ x) :
    (m.setBytes a bs).byte x = m.byte x := by
  induction bs generalizing m a with
  | nil => rfl
  | cons b bs ih =>
    simp only [List.length_cons] at h
    rw [setBytes, ih _ _ (by omega), byte_setByte_ne _ _ (by omega)]

theorem byte_setBytes_in (m : Memory) (a : Nat) (bs : List Byte) {k : Nat} (h : k < bs.length) :
    (m.setBytes a bs).byte (a + k) = bs[k] := by
  induction bs generalizing m a k with
  | nil => simp at h
  | cons b bs ih =>
    cases k with
    | zero => rw [setBytes, byte_setBytes_out _ _ _ (by omega)]; simp
    | succ k =>
      have := ih (m.setByte a b) (a + 1) (k := k) (by simpa using h)
      rw [setBytes, show a + (k + 1) = a + 1 + k by omega, this]; rfl

theorem byte_setBytes (m : Memory) (a : Nat) (bs : List Byte) (x : Nat) :
    (m.setBytes a bs).byte x = if a ≤ x ∧ x < a + bs.length then bs.getD (x - a) 0 else m.byte x := by
  split
  · next h =>
    obtain ⟨k, rfl⟩ := Nat.exists_eq_add_of_le h.1
    have hk : k < bs.length := by omega
    rw [byte_setBytes_in m a bs hk, Nat.add_sub_cancel_left]; simp [List.getD, List.getElem?_eq_getElem hk]
  · next h => exact byte_setBytes_out m a bs (by omega)

@[simp] theorem length_bytes (m : Memory) (a n : Nat) : (m.bytes a n).length = n := by
  induction n generalizing a with
  | zero => rfl
  | succ n ih => simp [bytes, ih]

theorem getElem_bytes (m : Memory) (a n : Nat) {k : Nat} (h : k < (m.bytes a n).length) : (m.bytes a n)[k] = m.byte (a + k) := by
  induction n generalizing a k with
  | zero => simp at h
  | succ n ih =>
    cases k with
    | zero => simp [bytes]
    | succ k => simp only [bytes, List.getElem_cons_succ]; rw [ih]; congr 1; omega

theorem bytes_congr {m m' : Memory} {a n : Nat} (h : ∀ k, k < n → m.byte (a + k) = m'.byte (a + k)) :
    m.bytes a n = m'.bytes a n := by
  induction n generalizing a with
  | zero => rfl
  | succ n ih =>
    have h0 : m.byte a = m'.byte a := h 0 (by omega)
    rw [bytes, bytes, h0, ih (a := a + 1) fun k hk => by
      rw [Nat.add_assoc, Nat.add_comm 1 k]; exact h (k + 1) (by omega)]

/-- A read of what was written gives it back. -/
theorem bytes_setBytes_same (m : Memory) (a : Nat) (bs : List Byte) : (m.setBytes a bs).bytes a bs.length = bs := by
  apply List.ext_getElem
  · simp
  · intro k _ h2
    rw [getElem_bytes, byte_setBytes_in m a bs h2]

theorem bytes_setBytes_disjoint (m : Memory) (a x n : Nat) (bs : List Byte) (h : x + n ≤ a ∨ a + bs.length ≤ x) :
    (m.setBytes a bs).bytes x n = m.bytes x n :=
  bytes_congr fun k hk => byte_setBytes_out m a bs (by omega)

theorem byte_wipe (m : Memory) (lo hi a : Nat) :
    (m.wipe lo hi).byte a = if lo ≤ a ∧ a < hi then 0 else m.byte a := by
  induction m with
  | nil => simp [wipe]
  | cons e m ih =>
    obtain ⟨k, v⟩ := e
    simp only [wipe, byte, Tab.getD, List.filter_cons, blank] at ih ⊢
    split <;> split <;> simp_all [Tab.find?_cons] <;> (try split) <;> simp_all <;> omega

/-! ## The canonical form -/

theorem wf_setByte {m : Memory} (h : m.wf = true) (a : Nat) (b : Byte) : (m.setByte a b).wf = true := Tab.wf_setD h a b

theorem wf_setBytes {m : Memory} (h : m.wf = true) (a : Nat) (bs : List Byte) : (m.setBytes a bs).wf = true := by
  induction bs generalizing m a with
  | nil => exact h
  | cons b bs ih => exact ih (wf_setByte h a b) (a + 1)

theorem wf_filter {m : Memory} (h : m.wf = true) (p : Nat × Byte → Bool) : Memory.wf (m.filter p) = true := Tab.wf_filter h p

theorem wf_wipe {m : Memory} (h : m.wf = true) (lo hi : Nat) : (m.wipe lo hi).wf = true := wf_filter h _

@[simp] theorem wf_nil : Memory.wf [] = true := rfl

/-- Equal memories are equal data. -/
theorem wf_ext {m m' : Memory} (h : m.wf = true) (h' : m'.wf = true) (e : ∀ a, m.byte a = m'.byte a) : m = m' :=
  Tab.wfFrom_ext h h' e

theorem reset_wf : State.reset.mem.wf = true ∧ State.reset.spad.wf = true ∧ State.reset.rmem.wf = true
    ∧ State.reset.mail.wf = true := ⟨rfl, rfl, rfl, rfl⟩

end Sys2Proof.Machine.Memory
end

