-- ==== Sys2Proof/Laws/PerInstr.lean ====
section
/-!
SUPPORT. One lemma per instruction: what the encoder writes, the decoder reads as the same instruction (R74 to R83). A step that has
no word has no encoding.
-/
namespace Sys2Proof.Laws.RoundTrip

/-- A well-formed instruction that has a word has one of 32 bits, and the decoder reads it back. -/
def Statement (i : Instr) : Prop := i.wf = true → ∀ w, encode i = some w → w < 2 ^ 32 ∧ decode w = .ok i

theorem of_word {i : Instr} (w : Nat) (e : encode i = some w) (lt : w < 2 ^ 32) (d : Decode.word w = .ok i) :
    Statement i := fun wf v h => by
  obtain rfl : w = v := Option.some.inj (e.symm.trans h)
  exact ⟨lt, by simp only [decode, d, wf, if_true]⟩

theorem wordless {i : Instr} (e : encode i = none) : Statement i := fun _ v h => by rw [e] at h; cases h

theorem cc_code (c : CC) : c.code < 7 ∧ CC.ofCode c.code = some c := by cases c <;> decide
theorem comb_code (c : Comb) : c.code < 4 ∧ Comb.ofCode c.code = some c := by cases c <;> decide
theorem scope_code (c : Scope) : c.code < 7 ∧ Scope.ofCode c.code = some c := by cases c <;> decide
theorem rel_code (r : Option Scope) : relBits r < 16 := by
  cases r with
  | none => decide
  | some c => cases c <;> decide

theorem on_rel (w : Nat) (r : Option Scope) (h : Decode.bits w 26 23 = relBits r) (k : Option Scope → Except Reject Instr) :
    Decode.onRel w k = k r := by
  have a : Decode.bits w 26 26 = relBits r / 8 := by rw [← h]; unfold Decode.bits; omega
  have b : Decode.bits w 25 23 = relBits r % 8 := by rw [← h]; unfold Decode.bits; omega
  unfold Decode.onRel
  rw [a, b]
  cases r with
  | none => rfl
  | some c => cases c <;> rfl

theorem flag_of {w n : Nat} {x : Bool} (h : w / 2 ^ n % 2 = x.toNat) : Decode.flag w n = x := by
  unfold Decode.flag; rw [h]; cases x <;> rfl

/-! ## The fields of the formats (R76) -/

theorem shape0 (k c0 c1 : Nat) (hk : k = c0 * 2 ^ 27 + c1 * 2 ^ 18) (h0 : c0 < 2 ^ 5) (h1 : c1 < 2 ^ 9) :
    ∃ w, k = w ∧ w < 2 ^ 32
    ∧ Decode.bits w 31 27 = c0
    ∧ Decode.bits w 26 18 = c1
    ∧ Decode.bits w 17 0 = 0 := by
  refine ⟨_, rfl, ?_, ?_, ?_, ?_⟩
  · omega
  · unfold Decode.bits; omega
  · unfold Decode.bits; omega
  · unfold Decode.bits; omega

theorem shape1 (k c0 c1 : Nat) (x0 : BitVec 12) (hk : k = c0 * 2 ^ 27 + c1 * 2 ^ 18) (h0 : c0 < 2 ^ 5) (h1 : c1 < 2 ^ 9) :
    ∃ w, k + x0.toNat * 2 ^ 0 = w ∧ w < 2 ^ 32
    ∧ Decode.bits w 31 27 = c0
    ∧ Decode.bits w 26 18 = c1
    ∧ Decode.bits w 17 12 = 0
    ∧ Decode.imm 12 w 0 = x0 := by
  have b0 := x0.isLt
  refine ⟨_, rfl, ?_, ?_, ?_, ?_, ?_⟩
  · omega
  · unfold Decode.bits; omega
  · unfold Decode.bits; omega
  · unfold Decode.bits; omega
  · apply BitVec.eq_of_toNat_eq; simp only [Decode.imm, BitVec.toNat_ofNat]; omega

theorem shape2 (k c0 c1 : Nat) (x0 : Fin 64) (hk : k = c0 * 2 ^ 27 + c1 * 2 ^ 18) (h0 : c0 < 2 ^ 5) (h1 : c1 < 2 ^ 9) :
    ∃ w, k + x0.val * 2 ^ 6 = w ∧ w < 2 ^ 32
    ∧ Decode.bits w 31 27 = c0
    ∧ Decode.bits w 26 18 = c1
    ∧ Decode.bits w 17 12 = 0
    ∧ Decode.bits w 5 0 = 0
    ∧ Decode.reg 64 w 6 = x0 := by
  have b0 := x0.isLt
  refine ⟨_, rfl, ?_, ?_, ?_, ?_, ?_, ?_⟩
  · omega
  · unfold Decode.bits; omega
  · unfold Decode.bits; omega
  · unfold Decode.bits; omega
  · unfold Decode.bits; omega
  · apply Fin.ext; simp only [Decode.reg, Fin.ofNat]; omega

theorem shape3 (k c0 c1 : Nat) (x0 : BitVec 11) (x1 : BitVec 7) (hk : k = c0 * 2 ^ 27 + c1 * 2 ^ 18) (h0 : c0 < 2 ^ 5) (h1 : c1 < 2 ^ 9) :
    ∃ w, k + x0.toNat * 2 ^ 7 + x1.toNat * 2 ^ 0 = w ∧ w < 2 ^ 32
    ∧ Decode.bits w 31 27 = c0
    ∧ Decode.bits w 26 18 = c1
    ∧ Decode.imm 11 w 7 = x0
    ∧ Decode.imm 7 w 0 = x1 := by
  have b0 := x0.isLt
  have b1 := x1.isLt
  refine ⟨_, rfl, ?_, ?_, ?_, ?_, ?_⟩
  · omega
  · unfold Decode.bits; omega
  · unfold Decode.bits; omega
  · apply BitVec.eq_of_toNat_eq; simp only [Decode.imm, BitVec.toNat_ofNat]; omega
  · apply BitVec.eq_of_toNat_eq; simp only [Decode.imm, BitVec.toNat_ofNat]; omega

theorem shape4 (k c0 c1 : Nat) (x0 : Fin 16) (x1 : Fin 64) (hk : k = c0 * 2 ^ 27 + c1 * 2 ^ 18) (h0 : c0 < 2 ^ 5) (h1 : c1 < 2 ^ 9) :
    ∃ w, k + x0.val * 2 ^ 12 + x1.val * 2 ^ 6 = w ∧ w < 2 ^ 32
    ∧ Decode.bits w 31 27 = c0
    ∧ Decode.bits w 26 18 = c1
    ∧ Decode.bits w 17 16 = 0
    ∧ Decode.bits w 5 0 = 0
    ∧ Decode.reg 16 w 12 = x0
    ∧ Decode.reg 64 w 6 = x1 := by
  have b0 := x0.isLt
  have b1 := x1.isLt
  refine ⟨_, rfl, ?_, ?_, ?_, ?_, ?_, ?_, ?_⟩
  · omega
  · unfold Decode.bits; omega
  · unfold Decode.bits; omega
  · unfold Decode.bits; omega
  · unfold Decode.bits; omega
  · apply Fin.ext; simp only [Decode.reg, Fin.ofNat]; omega
  · apply Fin.ext; simp only [Decode.reg, Fin.ofNat]; omega

theorem shape5 (k c0 c1 : Nat) (x0 : Fin 64) (x1 : Fin 16) (hk : k = c0 * 2 ^ 27 + c1 * 2 ^ 18) (h0 : c0 < 2 ^ 5) (h1 : c1 < 2 ^ 9) :
    ∃ w, k + x0.val * 2 ^ 12 + x1.val * 2 ^ 6 = w ∧ w < 2 ^ 32
    ∧ Decode.bits w 31 27 = c0
    ∧ Decode.bits w 26 18 = c1
    ∧ Decode.bits w 11 10 = 0
    ∧ Decode.bits w 5 0 = 0
    ∧ Decode.reg 64 w 12 = x0
    ∧ Decode.reg 16 w 6 = x1 := by
  have b0 := x0.isLt
  have b1 := x1.isLt
  refine ⟨_, rfl, ?_, ?_, ?_, ?_, ?_, ?_, ?_⟩
  · omega
  · unfold Decode.bits; omega
  · unfold Decode.bits; omega
  · unfold Decode.bits; omega
  · unfold Decode.bits; omega
  · apply Fin.ext; simp only [Decode.reg, Fin.ofNat]; omega
  · apply Fin.ext; simp only [Decode.reg, Fin.ofNat]; omega

theorem shape6 (k c0 c1 : Nat) (x0 : Fin 64) (x1 : BitVec 12) (hk : k = c0 * 2 ^ 27 + c1 * 2 ^ 18) (h0 : c0 < 2 ^ 5) (h1 : c1 < 2 ^ 9) :
    ∃ w, k + x0.val * 2 ^ 12 + x1.toNat * 2 ^ 0 = w ∧ w < 2 ^ 32
    ∧ Decode.bits w 31 27 = c0
    ∧ Decode.bits w 26 18 = c1
    ∧ Decode.reg 64 w 12 = x0
    ∧ Decode.imm 12 w 0 = x1 := by
  have b0 := x0.isLt
  have b1 := x1.isLt
  refine ⟨_, rfl, ?_, ?_, ?_, ?_, ?_⟩
  · omega
  · unfold Decode.bits; omega
  · unfold Decode.bits; omega
  · apply Fin.ext; simp only [Decode.reg, Fin.ofNat]; omega
  · apply BitVec.eq_of_toNat_eq; simp only [Decode.imm, BitVec.toNat_ofNat]; omega

theorem shape7 (k c0 c1 : Nat) (x0 : Fin 64) (x1 : Fin 64) (hk : k = c0 * 2 ^ 27 + c1 * 2 ^ 18) (h0 : c0 < 2 ^ 5) (h1 : c1 < 2 ^ 9) :
    ∃ w, k + x0.val * 2 ^ 6 + x1.val * 2 ^ 0 = w ∧ w < 2 ^ 32
    ∧ Decode.bits w 31 27 = c0
    ∧ Decode.bits w 26 18 = c1
    ∧ Decode.bits w 17 12 = 0
    ∧ Decode.reg 64 w 6 = x0
    ∧ Decode.reg 64 w 0 = x1 := by
  have b0 := x0.isLt
  have b1 := x1.isLt
  refine ⟨_, rfl, ?_, ?_, ?_, ?_, ?_, ?_⟩
  · omega
  · unfold Decode.bits; omega
  · unfold Decode.bits; omega
  · unfold Decode.bits; omega
  · apply Fin.ext; simp only [Decode.reg, Fin.ofNat]; omega
  · apply Fin.ext; simp only [Decode.reg, Fin.ofNat]; omega

theorem shape8 (k c0 c1 : Nat) (x0 : BitVec 18) (hk : k = c0 * 2 ^ 27 + c1 * 2 ^ 24) (h0 : c0 < 2 ^ 5) (h1 : c1 < 2 ^ 3) :
    ∃ w, k + x0.toNat * 2 ^ 0 = w ∧ w < 2 ^ 32
    ∧ Decode.bits w 31 27 = c0
    ∧ Decode.bits w 26 24 = c1
    ∧ Decode.bits w 23 18 = 0
    ∧ Decode.imm 18 w 0 = x0 := by
  have b0 := x0.isLt
  refine ⟨_, rfl, ?_, ?_, ?_, ?_, ?_⟩
  · omega
  · unfold Decode.bits; omega
  · unfold Decode.bits; omega
  · unfold Decode.bits; omega
  · apply BitVec.eq_of_toNat_eq; simp only [Decode.imm, BitVec.toNat_ofNat]; omega

theorem shape9 (k c0 c1 : Nat) (x0 : Fin 64) (x1 : BitVec 18) (hk : k = c0 * 2 ^ 27 + c1 * 2 ^ 24) (h0 : c0 < 2 ^ 5) (h1 : c1 < 2 ^ 3) :
    ∃ w, k + x0.val * 2 ^ 18 + x1.toNat * 2 ^ 0 = w ∧ w < 2 ^ 32
    ∧ Decode.bits w 31 27 = c0
    ∧ Decode.bits w 26 24 = c1
    ∧ Decode.reg 64 w 18 = x0
    ∧ Decode.imm 18 w 0 = x1 := by
  have b0 := x0.isLt
  have b1 := x1.isLt
  refine ⟨_, rfl, ?_, ?_, ?_, ?_, ?_⟩
  · omega
  · unfold Decode.bits; omega
  · unfold Decode.bits; omega
  · apply Fin.ext; simp only [Decode.reg, Fin.ofNat]; omega
  · apply BitVec.eq_of_toNat_eq; simp only [Decode.imm, BitVec.toNat_ofNat]; omega

theorem shape10 (k c0 c1 : Nat) (x0 : Bool) (x1 : Fin 8) (x2 : BitVec 18) (hk : k = c0 * 2 ^ 27 + c1 * 2 ^ 24) (h0 : c0 < 2 ^ 5) (h1 : c1 < 2 ^ 3) :
    ∃ w, k + x0.toNat * 2 ^ 21 + x1.val * 2 ^ 18 + x2.toNat * 2 ^ 0 = w ∧ w < 2 ^ 32
    ∧ Decode.bits w 31 27 = c0
    ∧ Decode.bits w 26 24 = c1
    ∧ Decode.bits w 23 22 = 0
    ∧ Decode.flag w 21 = x0
    ∧ Decode.reg 8 w 18 = x1
    ∧ Decode.imm 18 w 0 = x2 := by
  have b0 : x0.toNat < 2 := Bool.toNat_lt x0
  have b1 := x1.isLt
  have b2 := x2.isLt
  refine ⟨_, rfl, ?_, ?_, ?_, ?_, ?_, ?_, ?_⟩
  · omega
  · unfold Decode.bits; omega
  · unfold Decode.bits; omega
  · unfold Decode.bits; omega
  · exact flag_of (by omega)
  · apply Fin.ext; simp only [Decode.reg, Fin.ofNat]; omega
  · apply BitVec.eq_of_toNat_eq; simp only [Decode.imm, BitVec.toNat_ofNat]; omega

theorem shape11 (k c0 c1 c2 : Nat) (x0 : Fin 64) (hk : k = c0 * 2 ^ 27 + c1 * 2 ^ 15 + c2 * 2 ^ 24) (h0 : c0 < 2 ^ 5) (h1 : c1 < 2 ^ 3) (h2 : c2 < 2 ^ 3) :
    ∃ w, k + x0.val * 2 ^ 18 = w ∧ w < 2 ^ 32
    ∧ Decode.bits w 31 27 = c0
    ∧ Decode.bits w 17 15 = c1
    ∧ Decode.bits w 26 24 = c2
    ∧ Decode.bits w 14 0 = 0
    ∧ Decode.reg 64 w 18 = x0 := by
  have b0 := x0.isLt
  refine ⟨_, rfl, ?_, ?_, ?_, ?_, ?_, ?_⟩
  · omega
  · unfold Decode.bits; omega
  · unfold Decode.bits; omega
  · unfold Decode.bits; omega
  · unfold Decode.bits; omega
  · apply Fin.ext; simp only [Decode.reg, Fin.ofNat]; omega

theorem shape12 (k c0 c1 c2 : Nat) (hk : k = c0 * 2 ^ 27 + c1 * 2 ^ 15 + c2 * 2 ^ 24) (h0 : c0 < 2 ^ 5) (h1 : c1 < 2 ^ 3) (h2 : c2 < 2 ^ 3) :
    ∃ w, k = w ∧ w < 2 ^ 32
    ∧ Decode.bits w 31 27 = c0
    ∧ Decode.bits w 17 15 = c1
    ∧ Decode.bits w 26 24 = c2
    ∧ Decode.bits w 23 18 = 0
    ∧ Decode.bits w 14 0 = 0 := by
  refine ⟨_, rfl, ?_, ?_, ?_, ?_, ?_, ?_⟩
  · omega
  · unfold Decode.bits; omega
  · unfold Decode.bits; omega
  · unfold Decode.bits; omega
  · unfold Decode.bits; omega
  · unfold Decode.bits; omega

theorem shape13 (k c0 c1 : Nat) (x0 : Fin 64) (x1 : Fin 64) (x2 : Fin 64) (hk : k = c0 * 2 ^ 27 + c1 * 2 ^ 18) (h0 : c0 < 2 ^ 5) (h1 : c1 < 2 ^ 9) :
    ∃ w, k + x0.val * 2 ^ 12 + x1.val * 2 ^ 6 + x2.val * 2 ^ 0 = w ∧ w < 2 ^ 32
    ∧ Decode.bits w 31 27 = c0
    ∧ Decode.bits w 26 18 = c1
    ∧ Decode.reg 64 w 12 = x0
    ∧ Decode.reg 64 w 6 = x1
    ∧ Decode.reg 64 w 0 = x2 := by
  have b0 := x0.isLt
  have b1 := x1.isLt
  have b2 := x2.isLt
  refine ⟨_, rfl, ?_, ?_, ?_, ?_, ?_, ?_⟩
  · omega
  · unfold Decode.bits; omega
  · unfold Decode.bits; omega
  · apply Fin.ext; simp only [Decode.reg, Fin.ofNat]; omega
  · apply Fin.ext; simp only [Decode.reg, Fin.ofNat]; omega
  · apply Fin.ext; simp only [Decode.reg, Fin.ofNat]; omega

theorem shape14 (k c0 c1 : Nat) (x0 : Fin 64) (x1 : Fin 64) (hk : k = c0 * 2 ^ 27 + c1 * 2 ^ 18) (h0 : c0 < 2 ^ 5) (h1 : c1 < 2 ^ 9) :
    ∃ w, k + x0.val * 2 ^ 12 + x1.val * 2 ^ 6 = w ∧ w < 2 ^ 32
    ∧ Decode.bits w 31 27 = c0
    ∧ Decode.bits w 26 18 = c1
    ∧ Decode.bits w 5 0 = 0
    ∧ Decode.reg 64 w 12 = x0
    ∧ Decode.reg 64 w 6 = x1 := by
  have b0 := x0.isLt
  have b1 := x1.isLt
  refine ⟨_, rfl, ?_, ?_, ?_, ?_, ?_, ?_⟩
  · omega
  · unfold Decode.bits; omega
  · unfold Decode.bits; omega
  · unfold Decode.bits; omega
  · apply Fin.ext; simp only [Decode.reg, Fin.ofNat]; omega
  · apply Fin.ext; simp only [Decode.reg, Fin.ofNat]; omega

theorem shape15 (k c0 c1 : Nat) (x0 : Fin 64) (x1 : Fin 64) (x2 : BitVec 12) (hk : k = c0 * 2 ^ 27 + c1 * 2 ^ 24) (h0 : c0 < 2 ^ 5) (h1 : c1 < 2 ^ 3) :
    ∃ w, k + x0.val * 2 ^ 18 + x1.val * 2 ^ 12 + x2.toNat * 2 ^ 0 = w ∧ w < 2 ^ 32
    ∧ Decode.bits w 31 27 = c0
    ∧ Decode.bits w 26 24 = c1
    ∧ Decode.reg 64 w 18 = x0
    ∧ Decode.reg 64 w 12 = x1
    ∧ Decode.imm 12 w 0 = x2 := by
  have b0 := x0.isLt
  have b1 := x1.isLt
  have b2 := x2.isLt
  refine ⟨_, rfl, ?_, ?_, ?_, ?_, ?_, ?_⟩
  · omega
  · unfold Decode.bits; omega
  · unfold Decode.bits; omega
  · apply Fin.ext; simp only [Decode.reg, Fin.ofNat]; omega
  · apply Fin.ext; simp only [Decode.reg, Fin.ofNat]; omega
  · apply BitVec.eq_of_toNat_eq; simp only [Decode.imm, BitVec.toNat_ofNat]; omega

theorem shape16 (k c0 c1 c2 : Nat) (x0 : Fin 64) (x1 : Fin 64) (x2 : BitVec 5) (hk : k = c0 * 2 ^ 27 + c1 * 2 ^ 10 + c2 * 2 ^ 24) (h0 : c0 < 2 ^ 5) (h1 : c1 < 2 ^ 2) (h2 : c2 < 2 ^ 3) :
    ∃ w, k + x0.val * 2 ^ 18 + x1.val * 2 ^ 12 + x2.toNat * 2 ^ 0 = w ∧ w < 2 ^ 32
    ∧ Decode.bits w 31 27 = c0
    ∧ Decode.bits w 11 10 = c1
    ∧ Decode.bits w 26 24 = c2
    ∧ Decode.bits w 9 5 = 0
    ∧ Decode.reg 64 w 18 = x0
    ∧ Decode.reg 64 w 12 = x1
    ∧ Decode.imm 5 w 0 = x2 := by
  have b0 := x0.isLt
  have b1 := x1.isLt
  have b2 := x2.isLt
  refine ⟨_, rfl, ?_, ?_, ?_, ?_, ?_, ?_, ?_, ?_⟩
  · omega
  · unfold Decode.bits; omega
  · unfold Decode.bits; omega
  · unfold Decode.bits; omega
  · unfold Decode.bits; omega
  · apply Fin.ext; simp only [Decode.reg, Fin.ofNat]; omega
  · apply Fin.ext; simp only [Decode.reg, Fin.ofNat]; omega
  · apply BitVec.eq_of_toNat_eq; simp only [Decode.imm, BitVec.toNat_ofNat]; omega

theorem shape17 (k c0 c1 : Nat) (x0 : Fin 64) (x1 : BitVec 20) (hk : k = c0 * 2 ^ 27 + c1 * 2 ^ 20) (h0 : c0 < 2 ^ 5) (h1 : c1 < 2 ^ 1) :
    ∃ w, k + x0.val * 2 ^ 21 + x1.toNat * 2 ^ 0 = w ∧ w < 2 ^ 32
    ∧ Decode.bits w 31 27 = c0
    ∧ Decode.bits w 20 20 = c1
    ∧ Decode.reg 64 w 21 = x0
    ∧ Decode.imm 20 w 0 = x1 := by
  have b0 := x0.isLt
  have b1 := x1.isLt
  refine ⟨_, rfl, ?_, ?_, ?_, ?_, ?_⟩
  · omega
  · unfold Decode.bits; omega
  · unfold Decode.bits; omega
  · apply Fin.ext; simp only [Decode.reg, Fin.ofNat]; omega
  · apply BitVec.eq_of_toNat_eq; simp only [Decode.imm, BitVec.toNat_ofNat]; omega

theorem shape18 (k c0 c1 : Nat) (x0 : Fin 64) (x1 : Fin 8) (hk : k = c0 * 2 ^ 27 + c1 * 2 ^ 18) (h0 : c0 < 2 ^ 5) (h1 : c1 < 2 ^ 9) :
    ∃ w, k + x0.val * 2 ^ 12 + x1.val * 2 ^ 6 = w ∧ w < 2 ^ 32
    ∧ Decode.bits w 31 27 = c0
    ∧ Decode.bits w 26 18 = c1
    ∧ Decode.bits w 11 9 = 0
    ∧ Decode.bits w 5 0 = 0
    ∧ Decode.reg 64 w 12 = x0
    ∧ Decode.reg 8 w 6 = x1 := by
  have b0 := x0.isLt
  have b1 := x1.isLt
  refine ⟨_, rfl, ?_, ?_, ?_, ?_, ?_, ?_, ?_⟩
  · omega
  · unfold Decode.bits; omega
  · unfold Decode.bits; omega
  · unfold Decode.bits; omega
  · unfold Decode.bits; omega
  · apply Fin.ext; simp only [Decode.reg, Fin.ofNat]; omega
  · apply Fin.ext; simp only [Decode.reg, Fin.ofNat]; omega

theorem shape19 (k c0 c1 : Nat) (x0 : Fin 8) (x1 : Fin 8) (hk : k = c0 * 2 ^ 27 + c1 * 2 ^ 18) (h0 : c0 < 2 ^ 5) (h1 : c1 < 2 ^ 9) :
    ∃ w, k + x0.val * 2 ^ 12 + x1.val * 2 ^ 6 = w ∧ w < 2 ^ 32
    ∧ Decode.bits w 31 27 = c0
    ∧ Decode.bits w 26 18 = c1
    ∧ Decode.bits w 17 15 = 0
    ∧ Decode.bits w 11 9 = 0
    ∧ Decode.bits w 5 0 = 0
    ∧ Decode.reg 8 w 12 = x0
    ∧ Decode.reg 8 w 6 = x1 := by
  have b0 := x0.isLt
  have b1 := x1.isLt
  refine ⟨_, rfl, ?_, ?_, ?_, ?_, ?_, ?_, ?_, ?_⟩
  · omega
  · unfold Decode.bits; omega
  · unfold Decode.bits; omega
  · unfold Decode.bits; omega
  · unfold Decode.bits; omega
  · unfold Decode.bits; omega
  · apply Fin.ext; simp only [Decode.reg, Fin.ofNat]; omega
  · apply Fin.ext; simp only [Decode.reg, Fin.ofNat]; omega

theorem shape20 (k c0 c1 : Nat) (x0 : Fin 128) (hk : k = c0 * 2 ^ 27 + c1 * 2 ^ 18) (h0 : c0 < 2 ^ 5) (h1 : c1 < 2 ^ 9) :
    ∃ w, k + x0.val * 2 ^ 11 = w ∧ w < 2 ^ 32
    ∧ Decode.bits w 31 27 = c0
    ∧ Decode.bits w 26 18 = c1
    ∧ Decode.bits w 10 0 = 0
    ∧ Decode.reg 128 w 11 = x0 := by
  have b0 := x0.isLt
  refine ⟨_, rfl, ?_, ?_, ?_, ?_, ?_⟩
  · omega
  · unfold Decode.bits; omega
  · unfold Decode.bits; omega
  · unfold Decode.bits; omega
  · apply Fin.ext; simp only [Decode.reg, Fin.ofNat]; omega

theorem shape21 (k c0 c1 : Nat) (x0 : Fin 64) (hk : k = c0 * 2 ^ 27 + c1 * 2 ^ 18) (h0 : c0 < 2 ^ 5) (h1 : c1 < 2 ^ 9) :
    ∃ w, k + x0.val * 2 ^ 12 = w ∧ w < 2 ^ 32
    ∧ Decode.bits w 31 27 = c0
    ∧ Decode.bits w 26 18 = c1
    ∧ Decode.bits w 11 0 = 0
    ∧ Decode.reg 64 w 12 = x0 := by
  have b0 := x0.isLt
  refine ⟨_, rfl, ?_, ?_, ?_, ?_, ?_⟩
  · omega
  · unfold Decode.bits; omega
  · unfold Decode.bits; omega
  · unfold Decode.bits; omega
  · apply Fin.ext; simp only [Decode.reg, Fin.ofNat]; omega

theorem shape22 (k c0 c1 : Nat) (x0 : Fin 128) (x1 : Fin 128) (x2 : Fin 128) (hk : k = c0 * 2 ^ 27 + c1 * 2 ^ 21) (h0 : c0 < 2 ^ 5) (h1 : c1 < 2 ^ 6) :
    ∃ w, k + x0.val * 2 ^ 14 + x1.val * 2 ^ 7 + x2.val * 2 ^ 0 = w ∧ w < 2 ^ 32
    ∧ Decode.bits w 31 27 = c0
    ∧ Decode.bits w 26 21 = c1
    ∧ Decode.reg 128 w 14 = x0
    ∧ Decode.reg 128 w 7 = x1
    ∧ Decode.reg 128 w 0 = x2 := by
  have b0 := x0.isLt
  have b1 := x1.isLt
  have b2 := x2.isLt
  refine ⟨_, rfl, ?_, ?_, ?_, ?_, ?_, ?_⟩
  · omega
  · unfold Decode.bits; omega
  · unfold Decode.bits; omega
  · apply Fin.ext; simp only [Decode.reg, Fin.ofNat]; omega
  · apply Fin.ext; simp only [Decode.reg, Fin.ofNat]; omega
  · apply Fin.ext; simp only [Decode.reg, Fin.ofNat]; omega

theorem shape23 (k c0 c1 : Nat) (x0 : Fin 128) (x1 : Fin 128) (hk : k = c0 * 2 ^ 27 + c1 * 2 ^ 21) (h0 : c0 < 2 ^ 5) (h1 : c1 < 2 ^ 6) :
    ∃ w, k + x0.val * 2 ^ 14 + x1.val * 2 ^ 7 = w ∧ w < 2 ^ 32
    ∧ Decode.bits w 31 27 = c0
    ∧ Decode.bits w 26 21 = c1
    ∧ Decode.bits w 6 0 = 0
    ∧ Decode.reg 128 w 14 = x0
    ∧ Decode.reg 128 w 7 = x1 := by
  have b0 := x0.isLt
  have b1 := x1.isLt
  refine ⟨_, rfl, ?_, ?_, ?_, ?_, ?_, ?_⟩
  · omega
  · unfold Decode.bits; omega
  · unfold Decode.bits; omega
  · unfold Decode.bits; omega
  · apply Fin.ext; simp only [Decode.reg, Fin.ofNat]; omega
  · apply Fin.ext; simp only [Decode.reg, Fin.ofNat]; omega

theorem shape24 (k c0 c1 : Nat) (x0 : Fin 128) (x1 : Fin 128) (x2 : BitVec 9) (hk : k = c0 * 2 ^ 27 + c1 * 2 ^ 23) (h0 : c0 < 2 ^ 5) (h1 : c1 < 2 ^ 4) :
    ∃ w, k + x0.val * 2 ^ 16 + x1.val * 2 ^ 9 + x2.toNat * 2 ^ 0 = w ∧ w < 2 ^ 32
    ∧ Decode.bits w 31 27 = c0
    ∧ Decode.bits w 26 23 = c1
    ∧ Decode.reg 128 w 16 = x0
    ∧ Decode.reg 128 w 9 = x1
    ∧ Decode.imm 9 w 0 = x2 := by
  have b0 := x0.isLt
  have b1 := x1.isLt
  have b2 := x2.isLt
  refine ⟨_, rfl, ?_, ?_, ?_, ?_, ?_, ?_⟩
  · omega
  · unfold Decode.bits; omega
  · unfold Decode.bits; omega
  · apply Fin.ext; simp only [Decode.reg, Fin.ofNat]; omega
  · apply Fin.ext; simp only [Decode.reg, Fin.ofNat]; omega
  · apply BitVec.eq_of_toNat_eq; simp only [Decode.imm, BitVec.toNat_ofNat]; omega

theorem shape25 (k c0 c1 : Nat) (x0 : Fin 128) (x1 : Fin 128) (x2 : BitVec 5) (hk : k = c0 * 2 ^ 27 + c1 * 2 ^ 23) (h0 : c0 < 2 ^ 5) (h1 : c1 < 2 ^ 4) :
    ∃ w, k + x0.val * 2 ^ 16 + x1.val * 2 ^ 9 + x2.toNat * 2 ^ 0 = w ∧ w < 2 ^ 32
    ∧ Decode.bits w 31 27 = c0
    ∧ Decode.bits w 26 23 = c1
    ∧ Decode.bits w 8 5 = 0
    ∧ Decode.reg 128 w 16 = x0
    ∧ Decode.reg 128 w 9 = x1
    ∧ Decode.imm 5 w 0 = x2 := by
  have b0 := x0.isLt
  have b1 := x1.isLt
  have b2 := x2.isLt
  refine ⟨_, rfl, ?_, ?_, ?_, ?_, ?_, ?_, ?_⟩
  · omega
  · unfold Decode.bits; omega
  · unfold Decode.bits; omega
  · unfold Decode.bits; omega
  · apply Fin.ext; simp only [Decode.reg, Fin.ofNat]; omega
  · apply Fin.ext; simp only [Decode.reg, Fin.ofNat]; omega
  · apply BitVec.eq_of_toNat_eq; simp only [Decode.imm, BitVec.toNat_ofNat]; omega

theorem shape26 (k c0 c1 : Nat) (x0 : Fin 128) (x1 : BitVec 9) (hk : k = c0 * 2 ^ 27 + c1 * 2 ^ 23) (h0 : c0 < 2 ^ 5) (h1 : c1 < 2 ^ 4) :
    ∃ w, k + x0.val * 2 ^ 16 + x1.toNat * 2 ^ 0 = w ∧ w < 2 ^ 32
    ∧ Decode.bits w 31 27 = c0
    ∧ Decode.bits w 26 23 = c1
    ∧ Decode.bits w 15 9 = 0
    ∧ Decode.reg 128 w 16 = x0
    ∧ Decode.imm 9 w 0 = x1 := by
  have b0 := x0.isLt
  have b1 := x1.isLt
  refine ⟨_, rfl, ?_, ?_, ?_, ?_, ?_, ?_⟩
  · omega
  · unfold Decode.bits; omega
  · unfold Decode.bits; omega
  · unfold Decode.bits; omega
  · apply Fin.ext; simp only [Decode.reg, Fin.ofNat]; omega
  · apply BitVec.eq_of_toNat_eq; simp only [Decode.imm, BitVec.toNat_ofNat]; omega

theorem shape27 (k c0 c1 : Nat) (x0 : Fin 16) (x1 : Fin 128) (x2 : Fin 128) (hk : k = c0 * 2 ^ 27 + c1 * 2 ^ 18) (h0 : c0 < 2 ^ 5) (h1 : c1 < 2 ^ 5) :
    ∃ w, k + x0.val * 2 ^ 23 + x1.val * 2 ^ 11 + x2.val * 2 ^ 4 = w ∧ w < 2 ^ 32
    ∧ Decode.bits w 31 27 = c0
    ∧ Decode.bits w 22 18 = c1
    ∧ Decode.bits w 3 0 = 0
    ∧ Decode.reg 16 w 23 = x0
    ∧ Decode.reg 128 w 11 = x1
    ∧ Decode.reg 128 w 4 = x2 := by
  have b0 := x0.isLt
  have b1 := x1.isLt
  have b2 := x2.isLt
  refine ⟨_, rfl, ?_, ?_, ?_, ?_, ?_, ?_, ?_⟩
  · omega
  · unfold Decode.bits; omega
  · unfold Decode.bits; omega
  · unfold Decode.bits; omega
  · apply Fin.ext; simp only [Decode.reg, Fin.ofNat]; omega
  · apply Fin.ext; simp only [Decode.reg, Fin.ofNat]; omega
  · apply Fin.ext; simp only [Decode.reg, Fin.ofNat]; omega

theorem shape28 (k c0 c1 : Nat) (x0 : Fin 128) (x1 : Fin 128) (x2 : Fin 16) (hk : k = c0 * 2 ^ 27 + c1 * 2 ^ 21) (h0 : c0 < 2 ^ 5) (h1 : c1 < 2 ^ 6) :
    ∃ w, k + x0.val * 2 ^ 14 + x1.val * 2 ^ 7 + x2.val * 2 ^ 0 = w ∧ w < 2 ^ 32
    ∧ Decode.bits w 31 27 = c0
    ∧ Decode.bits w 26 21 = c1
    ∧ Decode.bits w 6 4 = 0
    ∧ Decode.reg 128 w 14 = x0
    ∧ Decode.reg 128 w 7 = x1
    ∧ Decode.reg 16 w 0 = x2 := by
  have b0 := x0.isLt
  have b1 := x1.isLt
  have b2 := x2.isLt
  refine ⟨_, rfl, ?_, ?_, ?_, ?_, ?_, ?_, ?_⟩
  · omega
  · unfold Decode.bits; omega
  · unfold Decode.bits; omega
  · unfold Decode.bits; omega
  · apply Fin.ext; simp only [Decode.reg, Fin.ofNat]; omega
  · apply Fin.ext; simp only [Decode.reg, Fin.ofNat]; omega
  · apply Fin.ext; simp only [Decode.reg, Fin.ofNat]; omega

theorem shape29 (k c0 c1 : Nat) (x0 : Fin 128) (x1 : Fin 128) (x2 : Fin 4) (hk : k = c0 * 2 ^ 27 + c1 * 2 ^ 21) (h0 : c0 < 2 ^ 5) (h1 : c1 < 2 ^ 6) :
    ∃ w, k + x0.val * 2 ^ 14 + x1.val * 2 ^ 7 + x2.val * 2 ^ 0 = w ∧ w < 2 ^ 32
    ∧ Decode.bits w 31 27 = c0
    ∧ Decode.bits w 26 21 = c1
    ∧ Decode.bits w 6 2 = 0
    ∧ Decode.reg 128 w 14 = x0
    ∧ Decode.reg 128 w 7 = x1
    ∧ Decode.reg 4 w 0 = x2 := by
  have b0 := x0.isLt
  have b1 := x1.isLt
  have b2 := x2.isLt
  refine ⟨_, rfl, ?_, ?_, ?_, ?_, ?_, ?_, ?_⟩
  · omega
  · unfold Decode.bits; omega
  · unfold Decode.bits; omega
  · unfold Decode.bits; omega
  · apply Fin.ext; simp only [Decode.reg, Fin.ofNat]; omega
  · apply Fin.ext; simp only [Decode.reg, Fin.ofNat]; omega
  · apply Fin.ext; simp only [Decode.reg, Fin.ofNat]; omega

theorem shape30 (k c0 c1 : Nat) (x0 : Fin 128) (x1 : Fin 64) (hk : k = c0 * 2 ^ 27 + c1 * 2 ^ 21) (h0 : c0 < 2 ^ 5) (h1 : c1 < 2 ^ 6) :
    ∃ w, k + x0.val * 2 ^ 14 + x1.val * 2 ^ 7 = w ∧ w < 2 ^ 32
    ∧ Decode.bits w 31 27 = c0
    ∧ Decode.bits w 26 21 = c1
    ∧ Decode.bits w 13 13 = 0
    ∧ Decode.bits w 6 0 = 0
    ∧ Decode.reg 128 w 14 = x0
    ∧ Decode.reg 64 w 7 = x1 := by
  have b0 := x0.isLt
  have b1 := x1.isLt
  refine ⟨_, rfl, ?_, ?_, ?_, ?_, ?_, ?_, ?_⟩
  · omega
  · unfold Decode.bits; omega
  · unfold Decode.bits; omega
  · unfold Decode.bits; omega
  · unfold Decode.bits; omega
  · apply Fin.ext; simp only [Decode.reg, Fin.ofNat]; omega
  · apply Fin.ext; simp only [Decode.reg, Fin.ofNat]; omega

theorem shape31 (k c0 c1 : Nat) (x0 : Fin 64) (x1 : Fin 128) (x2 : Fin 64) (hk : k = c0 * 2 ^ 27 + c1 * 2 ^ 21) (h0 : c0 < 2 ^ 5) (h1 : c1 < 2 ^ 6) :
    ∃ w, k + x0.val * 2 ^ 14 + x1.val * 2 ^ 7 + x2.val * 2 ^ 0 = w ∧ w < 2 ^ 32
    ∧ Decode.bits w 31 27 = c0
    ∧ Decode.bits w 26 21 = c1
    ∧ Decode.bits w 20 20 = 0
    ∧ Decode.bits w 6 6 = 0
    ∧ Decode.reg 64 w 14 = x0
    ∧ Decode.reg 128 w 7 = x1
    ∧ Decode.reg 64 w 0 = x2 := by
  have b0 := x0.isLt
  have b1 := x1.isLt
  have b2 := x2.isLt
  refine ⟨_, rfl, ?_, ?_, ?_, ?_, ?_, ?_, ?_, ?_⟩
  · omega
  · unfold Decode.bits; omega
  · unfold Decode.bits; omega
  · unfold Decode.bits; omega
  · unfold Decode.bits; omega
  · apply Fin.ext; simp only [Decode.reg, Fin.ofNat]; omega
  · apply Fin.ext; simp only [Decode.reg, Fin.ofNat]; omega
  · apply Fin.ext; simp only [Decode.reg, Fin.ofNat]; omega

theorem shape32 (k c0 c1 : Nat) (x0 : Fin 128) (x1 : Fin 64) (x2 : Fin 64) (hk : k = c0 * 2 ^ 27 + c1 * 2 ^ 21) (h0 : c0 < 2 ^ 5) (h1 : c1 < 2 ^ 6) :
    ∃ w, k + x0.val * 2 ^ 14 + x1.val * 2 ^ 7 + x2.val * 2 ^ 0 = w ∧ w < 2 ^ 32
    ∧ Decode.bits w 31 27 = c0
    ∧ Decode.bits w 26 21 = c1
    ∧ Decode.bits w 13 13 = 0
    ∧ Decode.bits w 6 6 = 0
    ∧ Decode.reg 128 w 14 = x0
    ∧ Decode.reg 64 w 7 = x1
    ∧ Decode.reg 64 w 0 = x2 := by
  have b0 := x0.isLt
  have b1 := x1.isLt
  have b2 := x2.isLt
  refine ⟨_, rfl, ?_, ?_, ?_, ?_, ?_, ?_, ?_, ?_⟩
  · omega
  · unfold Decode.bits; omega
  · unfold Decode.bits; omega
  · unfold Decode.bits; omega
  · unfold Decode.bits; omega
  · apply Fin.ext; simp only [Decode.reg, Fin.ofNat]; omega
  · apply Fin.ext; simp only [Decode.reg, Fin.ofNat]; omega
  · apply Fin.ext; simp only [Decode.reg, Fin.ofNat]; omega

theorem shape33 (k c0 c1 : Nat) (x0 : Fin 128) (x1 : Fin 128) (x2 : Fin 64) (hk : k = c0 * 2 ^ 27 + c1 * 2 ^ 21) (h0 : c0 < 2 ^ 5) (h1 : c1 < 2 ^ 6) :
    ∃ w, k + x0.val * 2 ^ 14 + x1.val * 2 ^ 7 + x2.val * 2 ^ 0 = w ∧ w < 2 ^ 32
    ∧ Decode.bits w 31 27 = c0
    ∧ Decode.bits w 26 21 = c1
    ∧ Decode.bits w 6 6 = 0
    ∧ Decode.reg 128 w 14 = x0
    ∧ Decode.reg 128 w 7 = x1
    ∧ Decode.reg 64 w 0 = x2 := by
  have b0 := x0.isLt
  have b1 := x1.isLt
  have b2 := x2.isLt
  refine ⟨_, rfl, ?_, ?_, ?_, ?_, ?_, ?_, ?_⟩
  · omega
  · unfold Decode.bits; omega
  · unfold Decode.bits; omega
  · unfold Decode.bits; omega
  · apply Fin.ext; simp only [Decode.reg, Fin.ofNat]; omega
  · apply Fin.ext; simp only [Decode.reg, Fin.ofNat]; omega
  · apply Fin.ext; simp only [Decode.reg, Fin.ofNat]; omega

theorem shape34 (k c0 c1 : Nat) (x0 : Fin 64) (x1 : Fin 128) (hk : k = c0 * 2 ^ 27 + c1 * 2 ^ 21) (h0 : c0 < 2 ^ 5) (h1 : c1 < 2 ^ 6) :
    ∃ w, k + x0.val * 2 ^ 14 + x1.val * 2 ^ 7 = w ∧ w < 2 ^ 32
    ∧ Decode.bits w 31 27 = c0
    ∧ Decode.bits w 26 21 = c1
    ∧ Decode.bits w 20 20 = 0
    ∧ Decode.bits w 6 0 = 0
    ∧ Decode.reg 64 w 14 = x0
    ∧ Decode.reg 128 w 7 = x1 := by
  have b0 := x0.isLt
  have b1 := x1.isLt
  refine ⟨_, rfl, ?_, ?_, ?_, ?_, ?_, ?_, ?_⟩
  · omega
  · unfold Decode.bits; omega
  · unfold Decode.bits; omega
  · unfold Decode.bits; omega
  · unfold Decode.bits; omega
  · apply Fin.ext; simp only [Decode.reg, Fin.ofNat]; omega
  · apply Fin.ext; simp only [Decode.reg, Fin.ofNat]; omega

theorem shape35 (k c0 c1 : Nat) (x0 : CC) (x1 : Fin 8) (x2 : Comb) (x3 : Fin 128) (x4 : Fin 128) (hk : k = c0 * 2 ^ 27 + c1 * 2 ^ 24) (h0 : c0 < 2 ^ 5) (h1 : c1 < 2 ^ 3) :
    ∃ w, k + x0.code * 2 ^ 21 + x1.val * 2 ^ 18 + x2.code * 2 ^ 14 + x3.val * 2 ^ 7 + x4.val * 2 ^ 0 = w ∧ w < 2 ^ 32
    ∧ Decode.bits w 31 27 = c0
    ∧ Decode.bits w 26 24 = c1
    ∧ Decode.bits w 23 21 = x0.code
    ∧ Decode.reg 8 w 18 = x1
    ∧ Decode.bits w 17 14 = x2.code
    ∧ Decode.reg 128 w 7 = x3
    ∧ Decode.reg 128 w 0 = x4 := by
  have b0 := (cc_code x0).1
  have b1 := x1.isLt
  have b2 := (comb_code x2).1
  have b3 := x3.isLt
  have b4 := x4.isLt
  refine ⟨_, rfl, ?_, ?_, ?_, ?_, ?_, ?_, ?_, ?_⟩
  · omega
  · unfold Decode.bits; omega
  · unfold Decode.bits; omega
  · unfold Decode.bits; omega
  · apply Fin.ext; simp only [Decode.reg, Fin.ofNat]; omega
  · unfold Decode.bits; omega
  · apply Fin.ext; simp only [Decode.reg, Fin.ofNat]; omega
  · apply Fin.ext; simp only [Decode.reg, Fin.ofNat]; omega

theorem shape36 (k c0 c1 : Nat) (x0 : Fin 16) (x1 : Fin 128) (x2 : Fin 64) (x3 : BitVec 6) (hk : k = c0 * 2 ^ 27 + c1 * 2 ^ 19) (h0 : c0 < 2 ^ 5) (h1 : c1 < 2 ^ 4) :
    ∃ w, k + x0.val * 2 ^ 23 + x1.val * 2 ^ 12 + x2.val * 2 ^ 6 + x3.toNat * 2 ^ 0 = w ∧ w < 2 ^ 32
    ∧ Decode.bits w 31 27 = c0
    ∧ Decode.bits w 22 19 = c1
    ∧ Decode.reg 16 w 23 = x0
    ∧ Decode.reg 128 w 12 = x1
    ∧ Decode.reg 64 w 6 = x2
    ∧ Decode.imm 6 w 0 = x3 := by
  have b0 := x0.isLt
  have b1 := x1.isLt
  have b2 := x2.isLt
  have b3 := x3.isLt
  refine ⟨_, rfl, ?_, ?_, ?_, ?_, ?_, ?_, ?_⟩
  · omega
  · unfold Decode.bits; omega
  · unfold Decode.bits; omega
  · apply Fin.ext; simp only [Decode.reg, Fin.ofNat]; omega
  · apply Fin.ext; simp only [Decode.reg, Fin.ofNat]; omega
  · apply Fin.ext; simp only [Decode.reg, Fin.ofNat]; omega
  · apply BitVec.eq_of_toNat_eq; simp only [Decode.imm, BitVec.toNat_ofNat]; omega

theorem shape37 (k c0 c1 : Nat) (x0 : Fin 16) (x1 : Fin 64) (x2 : Fin 64) (x3 : BitVec 6) (hk : k = c0 * 2 ^ 27 + c1 * 2 ^ 19) (h0 : c0 < 2 ^ 5) (h1 : c1 < 2 ^ 4) :
    ∃ w, k + x0.val * 2 ^ 23 + x1.val * 2 ^ 12 + x2.val * 2 ^ 6 + x3.toNat * 2 ^ 0 = w ∧ w < 2 ^ 32
    ∧ Decode.bits w 31 27 = c0
    ∧ Decode.bits w 22 19 = c1
    ∧ Decode.bits w 18 18 = 0
    ∧ Decode.reg 16 w 23 = x0
    ∧ Decode.reg 64 w 12 = x1
    ∧ Decode.reg 64 w 6 = x2
    ∧ Decode.imm 6 w 0 = x3 := by
  have b0 := x0.isLt
  have b1 := x1.isLt
  have b2 := x2.isLt
  have b3 := x3.isLt
  refine ⟨_, rfl, ?_, ?_, ?_, ?_, ?_, ?_, ?_, ?_⟩
  · omega
  · unfold Decode.bits; omega
  · unfold Decode.bits; omega
  · unfold Decode.bits; omega
  · apply Fin.ext; simp only [Decode.reg, Fin.ofNat]; omega
  · apply Fin.ext; simp only [Decode.reg, Fin.ofNat]; omega
  · apply Fin.ext; simp only [Decode.reg, Fin.ofNat]; omega
  · apply BitVec.eq_of_toNat_eq; simp only [Decode.imm, BitVec.toNat_ofNat]; omega

theorem shape38 (k c0 c1 : Nat) (x0 : Fin 16) (x1 : Fin 128) (x2 : Fin 64) (x3 : Scope) (hk : k = c0 * 2 ^ 27 + c1 * 2 ^ 19) (h0 : c0 < 2 ^ 5) (h1 : c1 < 2 ^ 4) :
    ∃ w, k + x0.val * 2 ^ 23 + x1.val * 2 ^ 12 + x2.val * 2 ^ 6 + x3.code * 2 ^ 3 = w ∧ w < 2 ^ 32
    ∧ Decode.bits w 31 27 = c0
    ∧ Decode.bits w 22 19 = c1
    ∧ Decode.bits w 2 0 = 0
    ∧ Decode.reg 16 w 23 = x0
    ∧ Decode.reg 128 w 12 = x1
    ∧ Decode.reg 64 w 6 = x2
    ∧ Decode.bits w 5 3 = x3.code := by
  have b0 := x0.isLt
  have b1 := x1.isLt
  have b2 := x2.isLt
  have b3 := (scope_code x3).1
  refine ⟨_, rfl, ?_, ?_, ?_, ?_, ?_, ?_, ?_, ?_⟩
  · omega
  · unfold Decode.bits; omega
  · unfold Decode.bits; omega
  · unfold Decode.bits; omega
  · apply Fin.ext; simp only [Decode.reg, Fin.ofNat]; omega
  · apply Fin.ext; simp only [Decode.reg, Fin.ofNat]; omega
  · apply Fin.ext; simp only [Decode.reg, Fin.ofNat]; omega
  · unfold Decode.bits; omega

theorem shape39 (k c0 c1 : Nat) (x0 : Fin 16) (x1 : Fin 64) (x2 : Fin 64) (x3 : Scope) (hk : k = c0 * 2 ^ 27 + c1 * 2 ^ 19) (h0 : c0 < 2 ^ 5) (h1 : c1 < 2 ^ 4) :
    ∃ w, k + x0.val * 2 ^ 23 + x1.val * 2 ^ 12 + x2.val * 2 ^ 6 + x3.code * 2 ^ 3 = w ∧ w < 2 ^ 32
    ∧ Decode.bits w 31 27 = c0
    ∧ Decode.bits w 22 19 = c1
    ∧ Decode.bits w 18 18 = 0
    ∧ Decode.bits w 2 0 = 0
    ∧ Decode.reg 16 w 23 = x0
    ∧ Decode.reg 64 w 12 = x1
    ∧ Decode.reg 64 w 6 = x2
    ∧ Decode.bits w 5 3 = x3.code := by
  have b0 := x0.isLt
  have b1 := x1.isLt
  have b2 := x2.isLt
  have b3 := (scope_code x3).1
  refine ⟨_, rfl, ?_, ?_, ?_, ?_, ?_, ?_, ?_, ?_, ?_⟩
  · omega
  · unfold Decode.bits; omega
  · unfold Decode.bits; omega
  · unfold Decode.bits; omega
  · unfold Decode.bits; omega
  · apply Fin.ext; simp only [Decode.reg, Fin.ofNat]; omega
  · apply Fin.ext; simp only [Decode.reg, Fin.ofNat]; omega
  · apply Fin.ext; simp only [Decode.reg, Fin.ofNat]; omega
  · unfold Decode.bits; omega

theorem shape40 (k c0 c1 : Nat) (x0 : Option Scope) (x1 : Fin 128) (x2 : Fin 64) (x3 : BitVec 6) (hk : k = c0 * 2 ^ 27 + c1 * 2 ^ 19) (h0 : c0 < 2 ^ 5) (h1 : c1 < 2 ^ 4) :
    ∃ w, k + relBits x0 * 2 ^ 23 + x1.val * 2 ^ 12 + x2.val * 2 ^ 6 + x3.toNat * 2 ^ 0 = w ∧ w < 2 ^ 32
    ∧ Decode.bits w 31 27 = c0
    ∧ Decode.bits w 22 19 = c1
    ∧ Decode.bits w 26 23 = relBits x0
    ∧ Decode.reg 128 w 12 = x1
    ∧ Decode.reg 64 w 6 = x2
    ∧ Decode.imm 6 w 0 = x3 := by
  have b0 := rel_code x0
  have b1 := x1.isLt
  have b2 := x2.isLt
  have b3 := x3.isLt
  refine ⟨_, rfl, ?_, ?_, ?_, ?_, ?_, ?_, ?_⟩
  · omega
  · unfold Decode.bits; omega
  · unfold Decode.bits; omega
  · unfold Decode.bits; omega
  · apply Fin.ext; simp only [Decode.reg, Fin.ofNat]; omega
  · apply Fin.ext; simp only [Decode.reg, Fin.ofNat]; omega
  · apply BitVec.eq_of_toNat_eq; simp only [Decode.imm, BitVec.toNat_ofNat]; omega

theorem shape41 (k c0 c1 : Nat) (x0 : Option Scope) (x1 : Fin 64) (x2 : Fin 64) (x3 : BitVec 6) (hk : k = c0 * 2 ^ 27 + c1 * 2 ^ 19) (h0 : c0 < 2 ^ 5) (h1 : c1 < 2 ^ 4) :
    ∃ w, k + relBits x0 * 2 ^ 23 + x1.val * 2 ^ 12 + x2.val * 2 ^ 6 + x3.toNat * 2 ^ 0 = w ∧ w < 2 ^ 32
    ∧ Decode.bits w 31 27 = c0
    ∧ Decode.bits w 22 19 = c1
    ∧ Decode.bits w 18 18 = 0
    ∧ Decode.bits w 26 23 = relBits x0
    ∧ Decode.reg 64 w 12 = x1
    ∧ Decode.reg 64 w 6 = x2
    ∧ Decode.imm 6 w 0 = x3 := by
  have b0 := rel_code x0
  have b1 := x1.isLt
  have b2 := x2.isLt
  have b3 := x3.isLt
  refine ⟨_, rfl, ?_, ?_, ?_, ?_, ?_, ?_, ?_, ?_⟩
  · omega
  · unfold Decode.bits; omega
  · unfold Decode.bits; omega
  · unfold Decode.bits; omega
  · unfold Decode.bits; omega
  · apply Fin.ext; simp only [Decode.reg, Fin.ofNat]; omega
  · apply Fin.ext; simp only [Decode.reg, Fin.ofNat]; omega
  · apply BitVec.eq_of_toNat_eq; simp only [Decode.imm, BitVec.toNat_ofNat]; omega

theorem shape42 (k c0 c1 : Nat) (x0 : Fin 128) (x1 : Fin 64) (x2 : BitVec 6) (hk : k = c0 * 2 ^ 27 + c1 * 2 ^ 19) (h0 : c0 < 2 ^ 5) (h1 : c1 < 2 ^ 4) :
    ∃ w, k + x0.val * 2 ^ 12 + x1.val * 2 ^ 6 + x2.toNat * 2 ^ 0 = w ∧ w < 2 ^ 32
    ∧ Decode.bits w 31 27 = c0
    ∧ Decode.bits w 22 19 = c1
    ∧ Decode.bits w 26 23 = 0
    ∧ Decode.reg 128 w 12 = x0
    ∧ Decode.reg 64 w 6 = x1
    ∧ Decode.imm 6 w 0 = x2 := by
  have b0 := x0.isLt
  have b1 := x1.isLt
  have b2 := x2.isLt
  refine ⟨_, rfl, ?_, ?_, ?_, ?_, ?_, ?_, ?_⟩
  · omega
  · unfold Decode.bits; omega
  · unfold Decode.bits; omega
  · unfold Decode.bits; omega
  · apply Fin.ext; simp only [Decode.reg, Fin.ofNat]; omega
  · apply Fin.ext; simp only [Decode.reg, Fin.ofNat]; omega
  · apply BitVec.eq_of_toNat_eq; simp only [Decode.imm, BitVec.toNat_ofNat]; omega

theorem shape43 (k c0 : Nat) (x0 : Fin 16) (x1 : Fin 8) (x2 : Fin 64) (x3 : BitVec 14) (hk : k = c0 * 2 ^ 27) (h0 : c0 < 2 ^ 5) :
    ∃ w, k + x0.val * 2 ^ 23 + x1.val * 2 ^ 20 + x2.val * 2 ^ 14 + x3.toNat * 2 ^ 0 = w ∧ w < 2 ^ 32
    ∧ Decode.bits w 31 27 = c0
    ∧ Decode.reg 16 w 23 = x0
    ∧ Decode.reg 8 w 20 = x1
    ∧ Decode.reg 64 w 14 = x2
    ∧ Decode.imm 14 w 0 = x3 := by
  have b0 := x0.isLt
  have b1 := x1.isLt
  have b2 := x2.isLt
  have b3 := x3.isLt
  refine ⟨_, rfl, ?_, ?_, ?_, ?_, ?_, ?_⟩
  · omega
  · unfold Decode.bits; omega
  · apply Fin.ext; simp only [Decode.reg, Fin.ofNat]; omega
  · apply Fin.ext; simp only [Decode.reg, Fin.ofNat]; omega
  · apply Fin.ext; simp only [Decode.reg, Fin.ofNat]; omega
  · apply BitVec.eq_of_toNat_eq; simp only [Decode.imm, BitVec.toNat_ofNat]; omega

theorem shape44 (k c0 : Nat) (x0 : Option Scope) (x1 : Fin 8) (x2 : Fin 64) (x3 : BitVec 14) (hk : k = c0 * 2 ^ 27) (h0 : c0 < 2 ^ 5) :
    ∃ w, k + relBits x0 * 2 ^ 23 + x1.val * 2 ^ 20 + x2.val * 2 ^ 14 + x3.toNat * 2 ^ 0 = w ∧ w < 2 ^ 32
    ∧ Decode.bits w 31 27 = c0
    ∧ Decode.bits w 26 23 = relBits x0
    ∧ Decode.reg 8 w 20 = x1
    ∧ Decode.reg 64 w 14 = x2
    ∧ Decode.imm 14 w 0 = x3 := by
  have b0 := rel_code x0
  have b1 := x1.isLt
  have b2 := x2.isLt
  have b3 := x3.isLt
  refine ⟨_, rfl, ?_, ?_, ?_, ?_, ?_, ?_⟩
  · omega
  · unfold Decode.bits; omega
  · unfold Decode.bits; omega
  · apply Fin.ext; simp only [Decode.reg, Fin.ofNat]; omega
  · apply Fin.ext; simp only [Decode.reg, Fin.ofNat]; omega
  · apply BitVec.eq_of_toNat_eq; simp only [Decode.imm, BitVec.toNat_ofNat]; omega

theorem shape45 (k c0 : Nat) (x0 : Fin 8) (x1 : Fin 64) (x2 : BitVec 14) (hk : k = c0 * 2 ^ 27) (h0 : c0 < 2 ^ 5) :
    ∃ w, k + x0.val * 2 ^ 20 + x1.val * 2 ^ 14 + x2.toNat * 2 ^ 0 = w ∧ w < 2 ^ 32
    ∧ Decode.bits w 31 27 = c0
    ∧ Decode.bits w 26 23 = 0
    ∧ Decode.reg 8 w 20 = x0
    ∧ Decode.reg 64 w 14 = x1
    ∧ Decode.imm 14 w 0 = x2 := by
  have b0 := x0.isLt
  have b1 := x1.isLt
  have b2 := x2.isLt
  refine ⟨_, rfl, ?_, ?_, ?_, ?_, ?_, ?_⟩
  · omega
  · unfold Decode.bits; omega
  · unfold Decode.bits; omega
  · apply Fin.ext; simp only [Decode.reg, Fin.ofNat]; omega
  · apply Fin.ext; simp only [Decode.reg, Fin.ofNat]; omega
  · apply BitVec.eq_of_toNat_eq; simp only [Decode.imm, BitVec.toNat_ofNat]; omega

theorem shape46 (k c0 c1 : Nat) (x0 : Fin 64) (x1 : Fin 4) (hk : k = c0 * 2 ^ 27 + c1 * 2 ^ 18) (h0 : c0 < 2 ^ 5) (h1 : c1 < 2 ^ 5) :
    ∃ w, k + x0.val * 2 ^ 4 + x1.val * 2 ^ 0 = w ∧ w < 2 ^ 32
    ∧ Decode.bits w 31 27 = c0
    ∧ Decode.bits w 22 18 = c1
    ∧ Decode.bits w 26 23 = 0
    ∧ Decode.bits w 17 10 = 0
    ∧ Decode.bits w 3 2 = 0
    ∧ Decode.reg 64 w 4 = x0
    ∧ Decode.reg 4 w 0 = x1 := by
  have b0 := x0.isLt
  have b1 := x1.isLt
  refine ⟨_, rfl, ?_, ?_, ?_, ?_, ?_, ?_, ?_, ?_⟩
  · omega
  · unfold Decode.bits; omega
  · unfold Decode.bits; omega
  · unfold Decode.bits; omega
  · unfold Decode.bits; omega
  · unfold Decode.bits; omega
  · apply Fin.ext; simp only [Decode.reg, Fin.ofNat]; omega
  · apply Fin.ext; simp only [Decode.reg, Fin.ofNat]; omega

theorem shape47 (k c0 c1 : Nat) (x0 : Fin 16) (x1 : Fin 128) (x2 : Fin 4) (hk : k = c0 * 2 ^ 27 + c1 * 2 ^ 18) (h0 : c0 < 2 ^ 5) (h1 : c1 < 2 ^ 5) :
    ∃ w, k + x0.val * 2 ^ 23 + x1.val * 2 ^ 11 + x2.val * 2 ^ 0 = w ∧ w < 2 ^ 32
    ∧ Decode.bits w 31 27 = c0
    ∧ Decode.bits w 22 18 = c1
    ∧ Decode.bits w 10 2 = 0
    ∧ Decode.reg 16 w 23 = x0
    ∧ Decode.reg 128 w 11 = x1
    ∧ Decode.reg 4 w 0 = x2 := by
  have b0 := x0.isLt
  have b1 := x1.isLt
  have b2 := x2.isLt
  refine ⟨_, rfl, ?_, ?_, ?_, ?_, ?_, ?_, ?_⟩
  · omega
  · unfold Decode.bits; omega
  · unfold Decode.bits; omega
  · unfold Decode.bits; omega
  · apply Fin.ext; simp only [Decode.reg, Fin.ofNat]; omega
  · apply Fin.ext; simp only [Decode.reg, Fin.ofNat]; omega
  · apply Fin.ext; simp only [Decode.reg, Fin.ofNat]; omega

theorem shape48 (k c0 c1 : Nat) (x0 : Fin 128) (x1 : Fin 4) (hk : k = c0 * 2 ^ 27 + c1 * 2 ^ 18) (h0 : c0 < 2 ^ 5) (h1 : c1 < 2 ^ 5) :
    ∃ w, k + x0.val * 2 ^ 4 + x1.val * 2 ^ 0 = w ∧ w < 2 ^ 32
    ∧ Decode.bits w 31 27 = c0
    ∧ Decode.bits w 22 18 = c1
    ∧ Decode.bits w 26 23 = 0
    ∧ Decode.bits w 17 11 = 0
    ∧ Decode.bits w 3 2 = 0
    ∧ Decode.reg 128 w 4 = x0
    ∧ Decode.reg 4 w 0 = x1 := by
  have b0 := x0.isLt
  have b1 := x1.isLt
  refine ⟨_, rfl, ?_, ?_, ?_, ?_, ?_, ?_, ?_, ?_⟩
  · omega
  · unfold Decode.bits; omega
  · unfold Decode.bits; omega
  · unfold Decode.bits; omega
  · unfold Decode.bits; omega
  · unfold Decode.bits; omega
  · apply Fin.ext; simp only [Decode.reg, Fin.ofNat]; omega
  · apply Fin.ext; simp only [Decode.reg, Fin.ofNat]; omega

theorem shape49 (k c0 c1 : Nat) (x0 : Fin 4) (hk : k = c0 * 2 ^ 27 + c1 * 2 ^ 18) (h0 : c0 < 2 ^ 5) (h1 : c1 < 2 ^ 5) :
    ∃ w, k + x0.val * 2 ^ 0 = w ∧ w < 2 ^ 32
    ∧ Decode.bits w 31 27 = c0
    ∧ Decode.bits w 22 18 = c1
    ∧ Decode.bits w 26 23 = 0
    ∧ Decode.bits w 17 2 = 0
    ∧ Decode.reg 4 w 0 = x0 := by
  have b0 := x0.isLt
  refine ⟨_, rfl, ?_, ?_, ?_, ?_, ?_, ?_⟩
  · omega
  · unfold Decode.bits; omega
  · unfold Decode.bits; omega
  · unfold Decode.bits; omega
  · unfold Decode.bits; omega
  · apply Fin.ext; simp only [Decode.reg, Fin.ofNat]; omega

theorem shape50 (k c0 c1 : Nat) (x0 : Fin 16) (x1 : Fin 128) (x2 : Fin 64) (x3 : BitVec 5) (hk : k = c0 * 2 ^ 27 + c1 * 2 ^ 19) (h0 : c0 < 2 ^ 5) (h1 : c1 < 2 ^ 4) :
    ∃ w, k + x0.val * 2 ^ 23 + x1.val * 2 ^ 12 + x2.val * 2 ^ 6 + x3.toNat * 2 ^ 0 = w ∧ w < 2 ^ 32
    ∧ Decode.bits w 31 27 = c0
    ∧ Decode.bits w 22 19 = c1
    ∧ Decode.flag w 5 = false
    ∧ Decode.reg 16 w 23 = x0
    ∧ Decode.reg 128 w 12 = x1
    ∧ Decode.reg 64 w 6 = x2
    ∧ Decode.imm 5 w 0 = x3 := by
  have b0 := x0.isLt
  have b1 := x1.isLt
  have b2 := x2.isLt
  have b3 := x3.isLt
  refine ⟨_, rfl, ?_, ?_, ?_, ?_, ?_, ?_, ?_, ?_⟩
  · omega
  · unfold Decode.bits; omega
  · unfold Decode.bits; omega
  · unfold Decode.flag; simp; omega
  · apply Fin.ext; simp only [Decode.reg, Fin.ofNat]; omega
  · apply Fin.ext; simp only [Decode.reg, Fin.ofNat]; omega
  · apply Fin.ext; simp only [Decode.reg, Fin.ofNat]; omega
  · apply BitVec.eq_of_toNat_eq; simp only [Decode.imm, BitVec.toNat_ofNat]; omega

theorem shape51 (k c0 c1 : Nat) (x0 : Option Scope) (x1 : Fin 128) (x2 : Fin 64) (x3 : BitVec 5) (hk : k = c0 * 2 ^ 27 + c1 * 2 ^ 19 + 32) (h0 : c0 < 2 ^ 5) (h1 : c1 < 2 ^ 4) :
    ∃ w, k + relBits x0 * 2 ^ 23 + x1.val * 2 ^ 12 + x2.val * 2 ^ 6 + x3.toNat * 2 ^ 0 = w ∧ w < 2 ^ 32
    ∧ Decode.bits w 31 27 = c0
    ∧ Decode.bits w 22 19 = c1
    ∧ Decode.flag w 5 = true
    ∧ Decode.bits w 26 23 = relBits x0
    ∧ Decode.reg 128 w 12 = x1
    ∧ Decode.reg 64 w 6 = x2
    ∧ Decode.imm 5 w 0 = x3 := by
  have b0 := rel_code x0
  have b1 := x1.isLt
  have b2 := x2.isLt
  have b3 := x3.isLt
  refine ⟨_, rfl, ?_, ?_, ?_, ?_, ?_, ?_, ?_, ?_⟩
  · omega
  · unfold Decode.bits; omega
  · unfold Decode.bits; omega
  · unfold Decode.flag; simp; omega
  · unfold Decode.bits; omega
  · apply Fin.ext; simp only [Decode.reg, Fin.ofNat]; omega
  · apply Fin.ext; simp only [Decode.reg, Fin.ofNat]; omega
  · apply BitVec.eq_of_toNat_eq; simp only [Decode.imm, BitVec.toNat_ofNat]; omega

theorem shape52 (k c0 c1 : Nat) (x0 : Scope) (x1 : BitVec 4) (hk : k = c0 * 2 ^ 27 + c1 * 2 ^ 18) (h0 : c0 < 2 ^ 5) (h1 : c1 < 2 ^ 9) :
    ∃ w, k + x0.code * 2 ^ 6 + x1.toNat * 2 ^ 0 = w ∧ w < 2 ^ 32
    ∧ Decode.bits w 31 27 = c0
    ∧ Decode.bits w 26 18 = c1
    ∧ Decode.bits w 17 9 = 0
    ∧ Decode.bits w 5 4 = 0
    ∧ Decode.bits w 8 6 = x0.code
    ∧ Decode.imm 4 w 0 = x1 := by
  have b0 := (scope_code x0).1
  have b1 := x1.isLt
  refine ⟨_, rfl, ?_, ?_, ?_, ?_, ?_, ?_, ?_⟩
  · omega
  · unfold Decode.bits; omega
  · unfold Decode.bits; omega
  · unfold Decode.bits; omega
  · unfold Decode.bits; omega
  · unfold Decode.bits; omega
  · apply BitVec.eq_of_toNat_eq; simp only [Decode.imm, BitVec.toNat_ofNat]; omega

theorem shape53 (k c0 c1 : Nat) (x0 : BitVec 6) (x1 : BitVec 6) (hk : k = c0 * 2 ^ 27 + c1 * 2 ^ 18) (h0 : c0 < 2 ^ 5) (h1 : c1 < 2 ^ 9) :
    ∃ w, k + x0.toNat * 2 ^ 6 + x1.toNat * 2 ^ 0 = w ∧ w < 2 ^ 32
    ∧ Decode.bits w 31 27 = c0
    ∧ Decode.bits w 26 18 = c1
    ∧ Decode.bits w 17 12 = 0
    ∧ Decode.imm 6 w 6 = x0
    ∧ Decode.imm 6 w 0 = x1 := by
  have b0 := x0.isLt
  have b1 := x1.isLt
  refine ⟨_, rfl, ?_, ?_, ?_, ?_, ?_, ?_⟩
  · omega
  · unfold Decode.bits; omega
  · unfold Decode.bits; omega
  · unfold Decode.bits; omega
  · apply BitVec.eq_of_toNat_eq; simp only [Decode.imm, BitVec.toNat_ofNat]; omega
  · apply BitVec.eq_of_toNat_eq; simp only [Decode.imm, BitVec.toNat_ofNat]; omega

theorem shape54 (k c0 c1 : Nat) (x0 : Fin 64) (x1 : Fin 64) (x2 : Fin 64) (x3 : Fin 64) (hk : k = c0 * 2 ^ 27 + c1 * 2 ^ 24) (h0 : c0 < 2 ^ 5) (h1 : c1 < 2 ^ 3) :
    ∃ w, k + x0.val * 2 ^ 18 + x1.val * 2 ^ 12 + x2.val * 2 ^ 6 + x3.val * 2 ^ 0 = w ∧ w < 2 ^ 32
    ∧ Decode.bits w 31 27 = c0
    ∧ Decode.bits w 26 24 = c1
    ∧ Decode.reg 64 w 18 = x0
    ∧ Decode.reg 64 w 12 = x1
    ∧ Decode.reg 64 w 6 = x2
    ∧ Decode.reg 64 w 0 = x3 := by
  have b0 := x0.isLt
  have b1 := x1.isLt
  have b2 := x2.isLt
  have b3 := x3.isLt
  refine ⟨_, rfl, ?_, ?_, ?_, ?_, ?_, ?_, ?_⟩
  · omega
  · unfold Decode.bits; omega
  · unfold Decode.bits; omega
  · apply Fin.ext; simp only [Decode.reg, Fin.ofNat]; omega
  · apply Fin.ext; simp only [Decode.reg, Fin.ofNat]; omega
  · apply Fin.ext; simp only [Decode.reg, Fin.ofNat]; omega
  · apply Fin.ext; simp only [Decode.reg, Fin.ofNat]; omega

theorem shape55 (k c0 c1 : Nat) (x0 : Fin 64) (hk : k = c0 * 2 ^ 27 + c1 * 2 ^ 24) (h0 : c0 < 2 ^ 5) (h1 : c1 < 2 ^ 3) :
    ∃ w, k + x0.val * 2 ^ 18 = w ∧ w < 2 ^ 32
    ∧ Decode.bits w 31 27 = c0
    ∧ Decode.bits w 26 24 = c1
    ∧ Decode.bits w 17 0 = 0
    ∧ Decode.reg 64 w 18 = x0 := by
  have b0 := x0.isLt
  refine ⟨_, rfl, ?_, ?_, ?_, ?_, ?_⟩
  · omega
  · unfold Decode.bits; omega
  · unfold Decode.bits; omega
  · unfold Decode.bits; omega
  · apply Fin.ext; simp only [Decode.reg, Fin.ofNat]; omega

theorem shape56 (k c0 c1 : Nat) (x0 : Fin 64) (x1 : Fin 64) (hk : k = c0 * 2 ^ 27 + c1 * 2 ^ 24) (h0 : c0 < 2 ^ 5) (h1 : c1 < 2 ^ 3) :
    ∃ w, k + x0.val * 2 ^ 18 + x1.val * 2 ^ 0 = w ∧ w < 2 ^ 32
    ∧ Decode.bits w 31 27 = c0
    ∧ Decode.bits w 26 24 = c1
    ∧ Decode.bits w 17 6 = 0
    ∧ Decode.reg 64 w 18 = x0
    ∧ Decode.reg 64 w 0 = x1 := by
  have b0 := x0.isLt
  have b1 := x1.isLt
  refine ⟨_, rfl, ?_, ?_, ?_, ?_, ?_, ?_⟩
  · omega
  · unfold Decode.bits; omega
  · unfold Decode.bits; omega
  · unfold Decode.bits; omega
  · apply Fin.ext; simp only [Decode.reg, Fin.ofNat]; omega
  · apply Fin.ext; simp only [Decode.reg, Fin.ofNat]; omega

theorem shape57 (k c0 : Nat) (x0 : Fin 64) (x1 : BitVec 3) (hk : k = c0 * 2 ^ 27) (h0 : c0 < 2 ^ 5) :
    ∃ w, k + x0.val * 2 ^ 21 + x1.toNat * 2 ^ 18 = w ∧ w < 2 ^ 32
    ∧ Decode.bits w 31 27 = c0
    ∧ Decode.bits w 17 0 = 0
    ∧ Decode.reg 64 w 21 = x0
    ∧ Decode.imm 3 w 18 = x1 := by
  have b0 := x0.isLt
  have b1 := x1.isLt
  refine ⟨_, rfl, ?_, ?_, ?_, ?_, ?_⟩
  · omega
  · unfold Decode.bits; omega
  · unfold Decode.bits; omega
  · apply Fin.ext; simp only [Decode.reg, Fin.ofNat]; omega
  · apply BitVec.eq_of_toNat_eq; simp only [Decode.imm, BitVec.toNat_ofNat]; omega

theorem shape58 (k c0 : Nat) (x0 : BitVec 27) (hk : k = c0 * 2 ^ 27) (h0 : c0 < 2 ^ 5) :
    ∃ w, k + x0.toNat * 2 ^ 0 = w ∧ w < 2 ^ 32
    ∧ Decode.bits w 31 27 = c0
    ∧ Decode.imm 27 w 0 = x0 := by
  have b0 := x0.isLt
  refine ⟨_, rfl, ?_, ?_, ?_⟩
  · omega
  · unfold Decode.bits; omega
  · apply BitVec.eq_of_toNat_eq; simp only [Decode.imm, BitVec.toNat_ofNat]; omega

/-! ## The instructions -/

theorem nop : Statement (.nop) := by
  obtain ⟨w, e, lt, f0, f1, f2⟩ := shape0 0x00000000 0 0 rfl (by decide) (by decide)
  exact of_word w (congrArg some e) lt (by simp [Decode.word, Decode.wordSysPlain, Decode.zeros, f0, f1, f2])

theorem trap (c : BitVec 12) : Statement (.trap c) := by
  obtain ⟨w, e, lt, f0, f1, f2, f3⟩ := shape1 0x00040000 0 1 c rfl (by decide) (by decide)
  exact of_word w (congrArg some e) lt (by simp [Decode.word, Decode.wordSysPlain, Decode.zeros, f0, f1, f2, f3])

theorem tret : Statement (.tret) := by
  obtain ⟨w, e, lt, f0, f1, f2⟩ := shape0 0x00080000 0 2 rfl (by decide) (by decide)
  exact of_word w (congrArg some e) lt (by simp [Decode.word, Decode.wordSysPlain, Decode.zeros, f0, f1, f2])

theorem mode (a : SReg) : Statement (.mode a) := by
  obtain ⟨w, e, lt, f0, f1, f2, f3, f4⟩ := shape2 0x000C0000 0 3 a rfl (by decide) (by decide)
  exact of_word w (congrArg some e) lt (by simp [Decode.word, Decode.wordSysPlain, Decode.zeros, f0, f1, f2, f3, f4])

theorem modei (h : BitVec 11) (l : BitVec 7) : Statement (.modei h l) := by
  obtain ⟨w, e, lt, f0, f1, f2, f3⟩ := shape3 0x00100000 0 4 h l rfl (by decide) (by decide)
  exact of_word w (congrArg some e) lt (by simp [Decode.word, Decode.wordSysPlain, f0, f1, f2, f3])

theorem fmtset (f : FReg) (a : SReg) : Statement (.fmtset f a) := by
  obtain ⟨w, e, lt, f0, f1, f2, f3, f4, f5⟩ := shape4 0x00140000 0 5 f a rfl (by decide) (by decide)
  exact of_word w (congrArg some e) lt (by simp [Decode.word, Decode.wordSysPlain, Decode.zeros, f0, f1, f2, f3, f4, f5])

theorem fmtget (d : SReg) (f : FReg) : Statement (.fmtget d f) := by
  obtain ⟨w, e, lt, f0, f1, f2, f3, f4, f5⟩ := shape5 0x00180000 0 6 d f rfl (by decide) (by decide)
  exact of_word w (congrArg some e) lt (by simp [Decode.word, Decode.wordSysPlain, Decode.zeros, f0, f1, f2, f3, f4, f5])

theorem mfsr (d : SReg) (n : BitVec 12) : Statement (.mfsr d n) := by
  obtain ⟨w, e, lt, f0, f1, f2, f3⟩ := shape6 0x001C0000 0 7 d n rfl (by decide) (by decide)
  exact of_word w (congrArg some e) lt (by simp [Decode.word, Decode.wordSysPlain, f0, f1, f2, f3])

theorem mtsr (v : SReg) (n : BitVec 12) : Statement (.mtsr v n) := by
  obtain ⟨w, e, lt, f0, f1, f2, f3⟩ := shape6 0x00200000 0 8 v n rfl (by decide) (by decide)
  exact of_word w (congrArg some e) lt (by simp [Decode.word, Decode.wordSysPlain, f0, f1, f2, f3])

theorem rwp (a : SReg) (n : Fin 64) : Statement (.rwp a n) := by
  obtain ⟨w, e, lt, f0, f1, f2, f3, f4⟩ := shape7 0x00240000 0 9 a n rfl (by decide) (by decide)
  exact of_word w (congrArg some e) lt (by simp [Decode.word, Decode.wordSysPlain, Decode.zeros, f0, f1, f2, f3, f4])

theorem brk (c : BitVec 12) : Statement (.brk c) := by
  obtain ⟨w, e, lt, f0, f1, f2, f3⟩ := shape1 0x00280000 0 10 c rfl (by decide) (by decide)
  exact of_word w (congrArg some e) lt (by simp [Decode.word, Decode.zeros, f0, f1, f2, f3])

theorem caps (d : SReg) (n : BitVec 12) : Statement (.caps d n) := by
  obtain ⟨w, e, lt, f0, f1, f2, f3⟩ := shape6 0x002C0000 0 11 d n rfl (by decide) (by decide)
  exact of_word w (congrArg some e) lt (by simp [Decode.word, Decode.wordSysPlain, f0, f1, f2, f3])

theorem br (o : BitVec 18) : Statement (.br o) := by
  obtain ⟨w, e, lt, f0, f1, f2, f3⟩ := shape8 0x08000000 1 0 o rfl (by decide) (by decide)
  exact of_word w (congrArg some e) lt (by simp [Decode.word, Decode.wordPlain, Decode.wordBr, Decode.zeros, f0, f1, f2, f3])

theorem bz (a : SReg) (o : BitVec 18) : Statement (.bz a o) := by
  obtain ⟨w, e, lt, f0, f1, f2, f3⟩ := shape9 0x09000000 1 1 a o rfl (by decide) (by decide)
  exact of_word w (congrArg some e) lt (by simp [Decode.word, Decode.wordPlain, Decode.wordBr, f0, f1, f2, f3])

theorem bnz (a : SReg) (o : BitVec 18) : Statement (.bnz a o) := by
  obtain ⟨w, e, lt, f0, f1, f2, f3⟩ := shape9 0x0A000000 1 2 a o rfl (by decide) (by decide)
  exact of_word w (congrArg some e) lt (by simp [Decode.word, Decode.wordPlain, Decode.wordBr, f0, f1, f2, f3])

theorem bneg (a : SReg) (o : BitVec 18) : Statement (.bneg a o) := by
  obtain ⟨w, e, lt, f0, f1, f2, f3⟩ := shape9 0x0B000000 1 3 a o rfl (by decide) (by decide)
  exact of_word w (congrArg some e) lt (by simp [Decode.word, Decode.wordPlain, Decode.wordBr, f0, f1, f2, f3])

theorem bnneg (a : SReg) (o : BitVec 18) : Statement (.bnneg a o) := by
  obtain ⟨w, e, lt, f0, f1, f2, f3⟩ := shape9 0x0C000000 1 4 a o rfl (by decide) (by decide)
  exact of_word w (congrArg some e) lt (by simp [Decode.word, Decode.wordPlain, Decode.wordBr, f0, f1, f2, f3])

theorem call (o : BitVec 18) : Statement (.call o) := by
  obtain ⟨w, e, lt, f0, f1, f2, f3⟩ := shape8 0x0D000000 1 5 o rfl (by decide) (by decide)
  exact of_word w (congrArg some e) lt (by simp [Decode.word, Decode.wordPlain, Decode.wordBr, Decode.zeros, f0, f1, f2, f3])

theorem pbr (n : Bool) (p : PReg) (o : BitVec 18) : Statement (.pbr n p o) := by
  obtain ⟨w, e, lt, f0, f1, f2, f3, f4, f5⟩ := shape10 0x0E000000 1 6 n p o rfl (by decide) (by decide)
  exact of_word w (congrArg some e) lt (by simp [Decode.word, Decode.wordPlain, Decode.wordBr, Decode.zeros, f0, f1, f2, f3, f4, f5])

theorem jr (a : SReg) : Statement (.jr a) := by
  obtain ⟨w, e, lt, f0, f1, f2, f3, f4⟩ := shape11 0x0F000000 1 0 7 a rfl (by decide) (by decide) (by decide)
  exact of_word w (congrArg some e) lt (by simp [Decode.word, Decode.wordPlain, Decode.wordBrRegister, Decode.wordBr, Decode.zeros, f0, f1, f2, f3, f4])

theorem jl (a : SReg) : Statement (.jl a) := by
  obtain ⟨w, e, lt, f0, f1, f2, f3, f4⟩ := shape11 0x0F008000 1 1 7 a rfl (by decide) (by decide) (by decide)
  exact of_word w (congrArg some e) lt (by simp [Decode.word, Decode.wordPlain, Decode.wordBrRegister, Decode.wordBr, Decode.zeros, f0, f1, f2, f3, f4])

theorem ret : Statement (.ret) := by
  obtain ⟨w, e, lt, f0, f1, f2, f3, f4⟩ := shape12 0x0F010000 1 2 7 rfl (by decide) (by decide) (by decide)
  exact of_word w (congrArg some e) lt (by simp [Decode.word, Decode.wordPlain, Decode.wordBrRegister, Decode.wordBr, Decode.zeros, f0, f1, f2, f3, f4])

theorem add (d : SReg) (a : SReg) (b : SReg) : Statement (.add d a b) := by
  obtain ⟨w, e, lt, f0, f1, f2, f3, f4⟩ := shape13 0x10000000 2 0 d a b rfl (by decide) (by decide)
  exact of_word w (congrArg some e) lt (by simp [Decode.word, Decode.wordPlain, Decode.wordSalu, f0, f1, f2, f3, f4])

theorem sub (d : SReg) (a : SReg) (b : SReg) : Statement (.sub d a b) := by
  obtain ⟨w, e, lt, f0, f1, f2, f3, f4⟩ := shape13 0x10040000 2 1 d a b rfl (by decide) (by decide)
  exact of_word w (congrArg some e) lt (by simp [Decode.word, Decode.wordPlain, Decode.wordSalu, f0, f1, f2, f3, f4])

theorem mul24 (d : SReg) (a : SReg) (b : SReg) : Statement (.mul24 d a b) := by
  obtain ⟨w, e, lt, f0, f1, f2, f3, f4⟩ := shape13 0x10080000 2 2 d a b rfl (by decide) (by decide)
  exact of_word w (congrArg some e) lt (by simp [Decode.word, Decode.wordPlain, Decode.wordSalu, f0, f1, f2, f3, f4])

theorem mul (d : SReg) (a : SReg) (b : SReg) : Statement (.mul d a b) := by
  obtain ⟨w, e, lt, f0, f1, f2, f3, f4⟩ := shape13 0x100C0000 2 3 d a b rfl (by decide) (by decide)
  exact of_word w (congrArg some e) lt (by simp [Decode.word, Decode.wordPlain, Decode.wordSalu, f0, f1, f2, f3, f4])

theorem mulh (d : SReg) (a : SReg) (b : SReg) : Statement (.mulh d a b) := by
  obtain ⟨w, e, lt, f0, f1, f2, f3, f4⟩ := shape13 0x10100000 2 4 d a b rfl (by decide) (by decide)
  exact of_word w (congrArg some e) lt (by simp [Decode.word, Decode.wordPlain, Decode.wordSalu, f0, f1, f2, f3, f4])

theorem mulhn (d : SReg) (a : SReg) (b : SReg) : Statement (.mulhn d a b) := by
  obtain ⟨w, e, lt, f0, f1, f2, f3, f4⟩ := shape13 0x10140000 2 5 d a b rfl (by decide) (by decide)
  exact of_word w (congrArg some e) lt (by simp [Decode.word, Decode.wordPlain, Decode.wordSalu, f0, f1, f2, f3, f4])

theorem and (d : SReg) (a : SReg) (b : SReg) : Statement (.and d a b) := by
  obtain ⟨w, e, lt, f0, f1, f2, f3, f4⟩ := shape13 0x10200000 2 8 d a b rfl (by decide) (by decide)
  exact of_word w (congrArg some e) lt (by simp [Decode.word, Decode.wordPlain, Decode.wordSalu, f0, f1, f2, f3, f4])

theorem or (d : SReg) (a : SReg) (b : SReg) : Statement (.or d a b) := by
  obtain ⟨w, e, lt, f0, f1, f2, f3, f4⟩ := shape13 0x10240000 2 9 d a b rfl (by decide) (by decide)
  exact of_word w (congrArg some e) lt (by simp [Decode.word, Decode.wordPlain, Decode.wordSalu, f0, f1, f2, f3, f4])

theorem xor (d : SReg) (a : SReg) (b : SReg) : Statement (.xor d a b) := by
  obtain ⟨w, e, lt, f0, f1, f2, f3, f4⟩ := shape13 0x10280000 2 10 d a b rfl (by decide) (by decide)
  exact of_word w (congrArg some e) lt (by simp [Decode.word, Decode.wordPlain, Decode.wordSalu, f0, f1, f2, f3, f4])

theorem andn (d : SReg) (a : SReg) (b : SReg) : Statement (.andn d a b) := by
  obtain ⟨w, e, lt, f0, f1, f2, f3, f4⟩ := shape13 0x102C0000 2 11 d a b rfl (by decide) (by decide)
  exact of_word w (congrArg some e) lt (by simp [Decode.word, Decode.wordPlain, Decode.wordSalu, f0, f1, f2, f3, f4])

theorem orn (d : SReg) (a : SReg) (b : SReg) : Statement (.orn d a b) := by
  obtain ⟨w, e, lt, f0, f1, f2, f3, f4⟩ := shape13 0x10300000 2 12 d a b rfl (by decide) (by decide)
  exact of_word w (congrArg some e) lt (by simp [Decode.word, Decode.wordPlain, Decode.wordSalu, f0, f1, f2, f3, f4])

theorem sll (d : SReg) (a : SReg) (b : SReg) : Statement (.sll d a b) := by
  obtain ⟨w, e, lt, f0, f1, f2, f3, f4⟩ := shape13 0x10400000 2 16 d a b rfl (by decide) (by decide)
  exact of_word w (congrArg some e) lt (by simp [Decode.word, Decode.wordPlain, Decode.wordSalu, f0, f1, f2, f3, f4])

theorem srl (d : SReg) (a : SReg) (b : SReg) : Statement (.srl d a b) := by
  obtain ⟨w, e, lt, f0, f1, f2, f3, f4⟩ := shape13 0x10440000 2 17 d a b rfl (by decide) (by decide)
  exact of_word w (congrArg some e) lt (by simp [Decode.word, Decode.wordPlain, Decode.wordSalu, f0, f1, f2, f3, f4])

theorem sra (d : SReg) (a : SReg) (b : SReg) : Statement (.sra d a b) := by
  obtain ⟨w, e, lt, f0, f1, f2, f3, f4⟩ := shape13 0x10480000 2 18 d a b rfl (by decide) (by decide)
  exact of_word w (congrArg some e) lt (by simp [Decode.word, Decode.wordPlain, Decode.wordSalu, f0, f1, f2, f3, f4])

theorem rol (d : SReg) (a : SReg) (b : SReg) : Statement (.rol d a b) := by
  obtain ⟨w, e, lt, f0, f1, f2, f3, f4⟩ := shape13 0x104C0000 2 19 d a b rfl (by decide) (by decide)
  exact of_word w (congrArg some e) lt (by simp [Decode.word, Decode.wordPlain, Decode.wordSalu, f0, f1, f2, f3, f4])

theorem ror (d : SReg) (a : SReg) (b : SReg) : Statement (.ror d a b) := by
  obtain ⟨w, e, lt, f0, f1, f2, f3, f4⟩ := shape13 0x10500000 2 20 d a b rfl (by decide) (by decide)
  exact of_word w (congrArg some e) lt (by simp [Decode.word, Decode.wordPlain, Decode.wordSalu, f0, f1, f2, f3, f4])

theorem min (d : SReg) (a : SReg) (b : SReg) : Statement (.min d a b) := by
  obtain ⟨w, e, lt, f0, f1, f2, f3, f4⟩ := shape13 0x10600000 2 24 d a b rfl (by decide) (by decide)
  exact of_word w (congrArg some e) lt (by simp [Decode.word, Decode.wordPlain, Decode.wordSalu, f0, f1, f2, f3, f4])

theorem max (d : SReg) (a : SReg) (b : SReg) : Statement (.max d a b) := by
  obtain ⟨w, e, lt, f0, f1, f2, f3, f4⟩ := shape13 0x10640000 2 25 d a b rfl (by decide) (by decide)
  exact of_word w (congrArg some e) lt (by simp [Decode.word, Decode.wordPlain, Decode.wordSalu, f0, f1, f2, f3, f4])

theorem minn (d : SReg) (a : SReg) (b : SReg) : Statement (.minn d a b) := by
  obtain ⟨w, e, lt, f0, f1, f2, f3, f4⟩ := shape13 0x10680000 2 26 d a b rfl (by decide) (by decide)
  exact of_word w (congrArg some e) lt (by simp [Decode.word, Decode.wordPlain, Decode.wordSalu, f0, f1, f2, f3, f4])

theorem maxn (d : SReg) (a : SReg) (b : SReg) : Statement (.maxn d a b) := by
  obtain ⟨w, e, lt, f0, f1, f2, f3, f4⟩ := shape13 0x106C0000 2 27 d a b rfl (by decide) (by decide)
  exact of_word w (congrArg some e) lt (by simp [Decode.word, Decode.wordPlain, Decode.wordSalu, f0, f1, f2, f3, f4])

theorem slt (d : SReg) (a : SReg) (b : SReg) : Statement (.slt d a b) := by
  obtain ⟨w, e, lt, f0, f1, f2, f3, f4⟩ := shape13 0x10800000 2 32 d a b rfl (by decide) (by decide)
  exact of_word w (congrArg some e) lt (by simp [Decode.word, Decode.wordPlain, Decode.wordSalu, f0, f1, f2, f3, f4])

theorem sltn (d : SReg) (a : SReg) (b : SReg) : Statement (.sltn d a b) := by
  obtain ⟨w, e, lt, f0, f1, f2, f3, f4⟩ := shape13 0x10840000 2 33 d a b rfl (by decide) (by decide)
  exact of_word w (congrArg some e) lt (by simp [Decode.word, Decode.wordPlain, Decode.wordSalu, f0, f1, f2, f3, f4])

theorem eq (d : SReg) (a : SReg) (b : SReg) : Statement (.eq d a b) := by
  obtain ⟨w, e, lt, f0, f1, f2, f3, f4⟩ := shape13 0x10880000 2 34 d a b rfl (by decide) (by decide)
  exact of_word w (congrArg some e) lt (by simp [Decode.word, Decode.wordPlain, Decode.wordSalu, f0, f1, f2, f3, f4])

theorem popc (d : SReg) (a : SReg) : Statement (.popc d a) := by
  obtain ⟨w, e, lt, f0, f1, f2, f3, f4⟩ := shape14 0x10A00000 2 40 d a rfl (by decide) (by decide)
  exact of_word w (congrArg some e) lt (by simp [Decode.word, Decode.wordPlain, Decode.wordSalu, Decode.zeros, f0, f1, f2, f3, f4])

theorem clz (d : SReg) (a : SReg) : Statement (.clz d a) := by
  obtain ⟨w, e, lt, f0, f1, f2, f3, f4⟩ := shape14 0x10A40000 2 41 d a rfl (by decide) (by decide)
  exact of_word w (congrArg some e) lt (by simp [Decode.word, Decode.wordPlain, Decode.wordSalu, Decode.zeros, f0, f1, f2, f3, f4])

theorem ctz (d : SReg) (a : SReg) : Statement (.ctz d a) := by
  obtain ⟨w, e, lt, f0, f1, f2, f3, f4⟩ := shape14 0x10A80000 2 42 d a rfl (by decide) (by decide)
  exact of_word w (congrArg some e) lt (by simp [Decode.word, Decode.wordPlain, Decode.wordSalu, Decode.zeros, f0, f1, f2, f3, f4])

theorem brev (d : SReg) (a : SReg) : Statement (.brev d a) := by
  obtain ⟨w, e, lt, f0, f1, f2, f3, f4⟩ := shape14 0x10AC0000 2 43 d a rfl (by decide) (by decide)
  exact of_word w (congrArg some e) lt (by simp [Decode.word, Decode.wordPlain, Decode.wordSalu, Decode.zeros, f0, f1, f2, f3, f4])

theorem bswap (d : SReg) (a : SReg) : Statement (.bswap d a) := by
  obtain ⟨w, e, lt, f0, f1, f2, f3, f4⟩ := shape14 0x10B00000 2 44 d a rfl (by decide) (by decide)
  exact of_word w (congrArg some e) lt (by simp [Decode.word, Decode.wordPlain, Decode.wordSalu, Decode.zeros, f0, f1, f2, f3, f4])

theorem sxb (d : SReg) (a : SReg) : Statement (.sxb d a) := by
  obtain ⟨w, e, lt, f0, f1, f2, f3, f4⟩ := shape14 0x10C00000 2 48 d a rfl (by decide) (by decide)
  exact of_word w (congrArg some e) lt (by simp [Decode.word, Decode.wordPlain, Decode.wordSalu, Decode.zeros, f0, f1, f2, f3, f4])

theorem sxh (d : SReg) (a : SReg) : Statement (.sxh d a) := by
  obtain ⟨w, e, lt, f0, f1, f2, f3, f4⟩ := shape14 0x10C40000 2 49 d a rfl (by decide) (by decide)
  exact of_word w (congrArg some e) lt (by simp [Decode.word, Decode.wordPlain, Decode.wordSalu, Decode.zeros, f0, f1, f2, f3, f4])

theorem zxb (d : SReg) (a : SReg) : Statement (.zxb d a) := by
  obtain ⟨w, e, lt, f0, f1, f2, f3, f4⟩ := shape14 0x10C80000 2 50 d a rfl (by decide) (by decide)
  exact of_word w (congrArg some e) lt (by simp [Decode.word, Decode.wordPlain, Decode.wordSalu, Decode.zeros, f0, f1, f2, f3, f4])

theorem zxh (d : SReg) (a : SReg) : Statement (.zxh d a) := by
  obtain ⟨w, e, lt, f0, f1, f2, f3, f4⟩ := shape14 0x10CC0000 2 51 d a rfl (by decide) (by decide)
  exact of_word w (congrArg some e) lt (by simp [Decode.word, Decode.wordPlain, Decode.wordSalu, Decode.zeros, f0, f1, f2, f3, f4])

theorem addi (d : SReg) (a : SReg) (i : BitVec 12) : Statement (.addi d a i) := by
  obtain ⟨w, e, lt, f0, f1, f2, f3, f4⟩ := shape15 0x18000000 3 0 d a i rfl (by decide) (by decide)
  exact of_word w (congrArg some e) lt (by simp [Decode.word, Decode.wordPlain, Decode.wordSalui, f0, f1, f2, f3, f4])

theorem andi (d : SReg) (a : SReg) (i : BitVec 12) : Statement (.andi d a i) := by
  obtain ⟨w, e, lt, f0, f1, f2, f3, f4⟩ := shape15 0x19000000 3 1 d a i rfl (by decide) (by decide)
  exact of_word w (congrArg some e) lt (by simp [Decode.word, Decode.wordPlain, Decode.wordSalui, f0, f1, f2, f3, f4])

theorem ori (d : SReg) (a : SReg) (i : BitVec 12) : Statement (.ori d a i) := by
  obtain ⟨w, e, lt, f0, f1, f2, f3, f4⟩ := shape15 0x1A000000 3 2 d a i rfl (by decide) (by decide)
  exact of_word w (congrArg some e) lt (by simp [Decode.word, Decode.wordPlain, Decode.wordSalui, f0, f1, f2, f3, f4])

theorem xori (d : SReg) (a : SReg) (i : BitVec 12) : Statement (.xori d a i) := by
  obtain ⟨w, e, lt, f0, f1, f2, f3, f4⟩ := shape15 0x1B000000 3 3 d a i rfl (by decide) (by decide)
  exact of_word w (congrArg some e) lt (by simp [Decode.word, Decode.wordPlain, Decode.wordSalui, f0, f1, f2, f3, f4])

theorem slti (d : SReg) (a : SReg) (i : BitVec 12) : Statement (.slti d a i) := by
  obtain ⟨w, e, lt, f0, f1, f2, f3, f4⟩ := shape15 0x1C000000 3 4 d a i rfl (by decide) (by decide)
  exact of_word w (congrArg some e) lt (by simp [Decode.word, Decode.wordPlain, Decode.wordSalui, f0, f1, f2, f3, f4])

theorem sltni (d : SReg) (a : SReg) (i : BitVec 12) : Statement (.sltni d a i) := by
  obtain ⟨w, e, lt, f0, f1, f2, f3, f4⟩ := shape15 0x1D000000 3 5 d a i rfl (by decide) (by decide)
  exact of_word w (congrArg some e) lt (by simp [Decode.word, Decode.wordPlain, Decode.wordSalui, f0, f1, f2, f3, f4])

theorem slli (d : SReg) (a : SReg) (c : BitVec 5) : Statement (.slli d a c) := by
  obtain ⟨w, e, lt, f0, f1, f2, f3, f4, f5, f6⟩ := shape16 0x1E000000 3 0 6 d a c rfl (by decide) (by decide) (by decide)
  exact of_word w (congrArg some e) lt (by simp [Decode.word, Decode.wordPlain, Decode.wordSaluiShift, Decode.wordSalui, Decode.zeros, f0, f1, f2, f3, f4, f5, f6])

theorem srli (d : SReg) (a : SReg) (c : BitVec 5) : Statement (.srli d a c) := by
  obtain ⟨w, e, lt, f0, f1, f2, f3, f4, f5, f6⟩ := shape16 0x1E000400 3 1 6 d a c rfl (by decide) (by decide) (by decide)
  exact of_word w (congrArg some e) lt (by simp [Decode.word, Decode.wordPlain, Decode.wordSaluiShift, Decode.wordSalui, Decode.zeros, f0, f1, f2, f3, f4, f5, f6])

theorem srai (d : SReg) (a : SReg) (c : BitVec 5) : Statement (.srai d a c) := by
  obtain ⟨w, e, lt, f0, f1, f2, f3, f4, f5, f6⟩ := shape16 0x1E000800 3 2 6 d a c rfl (by decide) (by decide) (by decide)
  exact of_word w (congrArg some e) lt (by simp [Decode.word, Decode.wordPlain, Decode.wordSaluiShift, Decode.wordSalui, Decode.zeros, f0, f1, f2, f3, f4, f5, f6])

theorem rori (d : SReg) (a : SReg) (c : BitVec 5) : Statement (.rori d a c) := by
  obtain ⟨w, e, lt, f0, f1, f2, f3, f4, f5, f6⟩ := shape16 0x1E000C00 3 3 6 d a c rfl (by decide) (by decide) (by decide)
  exact of_word w (congrArg some e) lt (by simp [Decode.word, Decode.wordPlain, Decode.wordSaluiShift, Decode.wordSalui, Decode.zeros, f0, f1, f2, f3, f4, f5, f6])

theorem muli (d : SReg) (a : SReg) (i : BitVec 12) : Statement (.muli d a i) := by
  obtain ⟨w, e, lt, f0, f1, f2, f3, f4⟩ := shape15 0x1F000000 3 7 d a i rfl (by decide) (by decide)
  exact of_word w (congrArg some e) lt (by simp [Decode.word, Decode.wordPlain, Decode.wordSalui, f0, f1, f2, f3, f4])

theorem sli (d : SReg) (i : BitVec 20) : Statement (.sli d i) := by
  obtain ⟨w, e, lt, f0, f1, f2, f3⟩ := shape17 0x20000000 4 0 d i rfl (by decide) (by decide)
  exact of_word w (congrArg some e) lt (by simp [Decode.word, Decode.wordPlain, Decode.wordSli, f0, f1, f2, f3])

theorem slu (d : SReg) (i : BitVec 20) : Statement (.slu d i) := by
  obtain ⟨w, e, lt, f0, f1, f2, f3⟩ := shape17 0x20100000 4 1 d i rfl (by decide) (by decide)
  exact of_word w (congrArg some e) lt (by simp [Decode.word, Decode.wordPlain, Decode.wordSli, f0, f1, f2, f3])

theorem join (a : SReg) : Statement (.join a) := by
  obtain ⟨w, e, lt, f0, f1, f2, f3, f4⟩ := shape2 0x28000000 5 0 a rfl (by decide) (by decide)
  exact of_word w (congrArg some e) lt (by simp [Decode.word, Decode.wordPlain, Decode.wordBand, Decode.zeros, f0, f1, f2, f3, f4])

theorem leave : Statement (.leave) := by
  obtain ⟨w, e, lt, f0, f1, f2⟩ := shape0 0x28040000 5 1 rfl (by decide) (by decide)
  exact of_word w (congrArg some e) lt (by simp [Decode.word, Decode.wordPlain, Decode.wordBand, Decode.zeros, f0, f1, f2])

theorem gbar : Statement (.gbar) := by
  obtain ⟨w, e, lt, f0, f1, f2⟩ := shape0 0x28080000 5 2 rfl (by decide) (by decide)
  exact of_word w (congrArg some e) lt (by simp [Decode.word, Decode.wordPlain, Decode.wordBand, Decode.zeros, f0, f1, f2])

theorem regroup : Statement (.regroup) := by
  obtain ⟨w, e, lt, f0, f1, f2⟩ := shape0 0x280C0000 5 3 rfl (by decide) (by decide)
  exact of_word w (congrArg some e) lt (by simp [Decode.word, Decode.wordPlain, Decode.wordBand, Decode.zeros, f0, f1, f2])

theorem rcv : Statement (.rcv) := by
  obtain ⟨w, e, lt, f0, f1, f2⟩ := shape0 0x28100000 5 4 rfl (by decide) (by decide)
  exact of_word w (congrArg some e) lt (by simp [Decode.word, Decode.wordPlain, Decode.wordBand, Decode.zeros, f0, f1, f2])

theorem voteAny (d : SReg) (p : PReg) : Statement (.voteAny d p) := by
  obtain ⟨w, e, lt, f0, f1, f2, f3, f4, f5⟩ := shape18 0x28200000 5 8 d p rfl (by decide) (by decide)
  exact of_word w (congrArg some e) lt (by simp [Decode.word, Decode.wordPlain, Decode.wordBand, Decode.zeros, f0, f1, f2, f3, f4, f5])

theorem voteAll (d : SReg) (p : PReg) : Statement (.voteAll d p) := by
  obtain ⟨w, e, lt, f0, f1, f2, f3, f4, f5⟩ := shape18 0x28240000 5 9 d p rfl (by decide) (by decide)
  exact of_word w (congrArg some e) lt (by simp [Decode.word, Decode.wordPlain, Decode.wordBand, Decode.zeros, f0, f1, f2, f3, f4, f5])

theorem voteCnt (d : SReg) (p : PReg) : Statement (.voteCnt d p) := by
  obtain ⟨w, e, lt, f0, f1, f2, f3, f4, f5⟩ := shape18 0x28280000 5 10 d p rfl (by decide) (by decide)
  exact of_word w (congrArg some e) lt (by simp [Decode.word, Decode.wordPlain, Decode.wordBand, Decode.zeros, f0, f1, f2, f3, f4, f5])

theorem voteBal (q : PReg) (p : PReg) : Statement (.voteBal q p) := by
  obtain ⟨w, e, lt, f0, f1, f2, f3, f4, f5, f6⟩ := shape19 0x282C0000 5 11 q p rfl (by decide) (by decide)
  exact of_word w (congrArg some e) lt (by simp [Decode.word, Decode.wordPlain, Decode.wordBand, Decode.zeros, f0, f1, f2, f3, f4, f5, f6])

theorem lid (v : VReg) : Statement (.lid v) := by
  obtain ⟨w, e, lt, f0, f1, f2, f3⟩ := shape20 0x28400000 5 16 v rfl (by decide) (by decide)
  exact of_word w (congrArg some e) lt (by simp [Decode.word, Decode.wordPlain, Decode.wordBand, Decode.zeros, f0, f1, f2, f3])

theorem tid (v : VReg) : Statement (.tid v) := by
  obtain ⟨w, e, lt, f0, f1, f2, f3⟩ := shape20 0x28440000 5 17 v rfl (by decide) (by decide)
  exact of_word w (congrArg some e) lt (by simp [Decode.word, Decode.wordPlain, Decode.wordBand, Decode.zeros, f0, f1, f2, f3])

theorem bid (d : SReg) : Statement (.bid d) := by
  obtain ⟨w, e, lt, f0, f1, f2, f3⟩ := shape21 0x28480000 5 18 d rfl (by decide) (by decide)
  exact of_word w (congrArg some e) lt (by simp [Decode.word, Decode.wordPlain, Decode.wordBand, Decode.zeros, f0, f1, f2, f3])

theorem vadd (d : VReg) (a : VReg) (b : VReg) : Statement (.vadd d a b) := by
  obtain ⟨w, e, lt, f0, f1, f2, f3, f4⟩ := shape22 0x30000000 6 0 d a b rfl (by decide) (by decide)
  exact of_word w (congrArg some e) lt (by simp [Decode.word, Decode.wordPlain, Decode.wordValu, f0, f1, f2, f3, f4])

theorem vsub (d : VReg) (a : VReg) (b : VReg) : Statement (.vsub d a b) := by
  obtain ⟨w, e, lt, f0, f1, f2, f3, f4⟩ := shape22 0x30200000 6 1 d a b rfl (by decide) (by decide)
  exact of_word w (congrArg some e) lt (by simp [Decode.word, Decode.wordPlain, Decode.wordValu, f0, f1, f2, f3, f4])

theorem vmul24 (d : VReg) (a : VReg) (b : VReg) : Statement (.vmul24 d a b) := by
  obtain ⟨w, e, lt, f0, f1, f2, f3, f4⟩ := shape22 0x30400000 6 2 d a b rfl (by decide) (by decide)
  exact of_word w (congrArg some e) lt (by simp [Decode.word, Decode.wordPlain, Decode.wordValu, f0, f1, f2, f3, f4])

theorem vmul32 (d : VReg) (a : VReg) (b : VReg) : Statement (.vmul32 d a b) := by
  obtain ⟨w, e, lt, f0, f1, f2, f3, f4⟩ := shape22 0x30600000 6 3 d a b rfl (by decide) (by decide)
  exact of_word w (congrArg some e) lt (by simp [Decode.word, Decode.wordPlain, Decode.wordValu, f0, f1, f2, f3, f4])

theorem vmulh32 (d : VReg) (a : VReg) (b : VReg) : Statement (.vmulh32 d a b) := by
  obtain ⟨w, e, lt, f0, f1, f2, f3, f4⟩ := shape22 0x30800000 6 4 d a b rfl (by decide) (by decide)
  exact of_word w (congrArg some e) lt (by simp [Decode.word, Decode.wordPlain, Decode.wordValu, f0, f1, f2, f3, f4])

theorem vmulhn32 (d : VReg) (a : VReg) (b : VReg) : Statement (.vmulhn32 d a b) := by
  obtain ⟨w, e, lt, f0, f1, f2, f3, f4⟩ := shape22 0x30A00000 6 5 d a b rfl (by decide) (by decide)
  exact of_word w (congrArg some e) lt (by simp [Decode.word, Decode.wordPlain, Decode.wordValu, f0, f1, f2, f3, f4])

theorem vand (d : VReg) (a : VReg) (b : VReg) : Statement (.vand d a b) := by
  obtain ⟨w, e, lt, f0, f1, f2, f3, f4⟩ := shape22 0x31000000 6 8 d a b rfl (by decide) (by decide)
  exact of_word w (congrArg some e) lt (by simp [Decode.word, Decode.wordPlain, Decode.wordValu, f0, f1, f2, f3, f4])

theorem vor (d : VReg) (a : VReg) (b : VReg) : Statement (.vor d a b) := by
  obtain ⟨w, e, lt, f0, f1, f2, f3, f4⟩ := shape22 0x31200000 6 9 d a b rfl (by decide) (by decide)
  exact of_word w (congrArg some e) lt (by simp [Decode.word, Decode.wordPlain, Decode.wordValu, f0, f1, f2, f3, f4])

theorem vxor (d : VReg) (a : VReg) (b : VReg) : Statement (.vxor d a b) := by
  obtain ⟨w, e, lt, f0, f1, f2, f3, f4⟩ := shape22 0x31400000 6 10 d a b rfl (by decide) (by decide)
  exact of_word w (congrArg some e) lt (by simp [Decode.word, Decode.wordPlain, Decode.wordValu, f0, f1, f2, f3, f4])

theorem vandn (d : VReg) (a : VReg) (b : VReg) : Statement (.vandn d a b) := by
  obtain ⟨w, e, lt, f0, f1, f2, f3, f4⟩ := shape22 0x31600000 6 11 d a b rfl (by decide) (by decide)
  exact of_word w (congrArg some e) lt (by simp [Decode.word, Decode.wordPlain, Decode.wordValu, f0, f1, f2, f3, f4])

theorem vsll (d : VReg) (a : VReg) (b : VReg) : Statement (.vsll d a b) := by
  obtain ⟨w, e, lt, f0, f1, f2, f3, f4⟩ := shape22 0x32000000 6 16 d a b rfl (by decide) (by decide)
  exact of_word w (congrArg some e) lt (by simp [Decode.word, Decode.wordPlain, Decode.wordValu, f0, f1, f2, f3, f4])

theorem vsrl (d : VReg) (a : VReg) (b : VReg) : Statement (.vsrl d a b) := by
  obtain ⟨w, e, lt, f0, f1, f2, f3, f4⟩ := shape22 0x32200000 6 17 d a b rfl (by decide) (by decide)
  exact of_word w (congrArg some e) lt (by simp [Decode.word, Decode.wordPlain, Decode.wordValu, f0, f1, f2, f3, f4])

theorem vsra (d : VReg) (a : VReg) (b : VReg) : Statement (.vsra d a b) := by
  obtain ⟨w, e, lt, f0, f1, f2, f3, f4⟩ := shape22 0x32400000 6 18 d a b rfl (by decide) (by decide)
  exact of_word w (congrArg some e) lt (by simp [Decode.word, Decode.wordPlain, Decode.wordValu, f0, f1, f2, f3, f4])

theorem vrol (d : VReg) (a : VReg) (b : VReg) : Statement (.vrol d a b) := by
  obtain ⟨w, e, lt, f0, f1, f2, f3, f4⟩ := shape22 0x32600000 6 19 d a b rfl (by decide) (by decide)
  exact of_word w (congrArg some e) lt (by simp [Decode.word, Decode.wordPlain, Decode.wordValu, f0, f1, f2, f3, f4])

theorem vmin (d : VReg) (a : VReg) (b : VReg) : Statement (.vmin d a b) := by
  obtain ⟨w, e, lt, f0, f1, f2, f3, f4⟩ := shape22 0x33000000 6 24 d a b rfl (by decide) (by decide)
  exact of_word w (congrArg some e) lt (by simp [Decode.word, Decode.wordPlain, Decode.wordValu, f0, f1, f2, f3, f4])

theorem vmax (d : VReg) (a : VReg) (b : VReg) : Statement (.vmax d a b) := by
  obtain ⟨w, e, lt, f0, f1, f2, f3, f4⟩ := shape22 0x33200000 6 25 d a b rfl (by decide) (by decide)
  exact of_word w (congrArg some e) lt (by simp [Decode.word, Decode.wordPlain, Decode.wordValu, f0, f1, f2, f3, f4])

theorem vabsd (d : VReg) (a : VReg) (b : VReg) : Statement (.vabsd d a b) := by
  obtain ⟨w, e, lt, f0, f1, f2, f3, f4⟩ := shape22 0x33400000 6 26 d a b rfl (by decide) (by decide)
  exact of_word w (congrArg some e) lt (by simp [Decode.word, Decode.wordPlain, Decode.wordValu, f0, f1, f2, f3, f4])

theorem vpopc (d : VReg) (a : VReg) : Statement (.vpopc d a) := by
  obtain ⟨w, e, lt, f0, f1, f2, f3, f4⟩ := shape23 0x34000000 6 32 d a rfl (by decide) (by decide)
  exact of_word w (congrArg some e) lt (by simp [Decode.word, Decode.wordPlain, Decode.wordValu, Decode.zeros, f0, f1, f2, f3, f4])

theorem vclz (d : VReg) (a : VReg) : Statement (.vclz d a) := by
  obtain ⟨w, e, lt, f0, f1, f2, f3, f4⟩ := shape23 0x34200000 6 33 d a rfl (by decide) (by decide)
  exact of_word w (congrArg some e) lt (by simp [Decode.word, Decode.wordPlain, Decode.wordValu, Decode.zeros, f0, f1, f2, f3, f4])

theorem vctz (d : VReg) (a : VReg) : Statement (.vctz d a) := by
  obtain ⟨w, e, lt, f0, f1, f2, f3, f4⟩ := shape23 0x34400000 6 34 d a rfl (by decide) (by decide)
  exact of_word w (congrArg some e) lt (by simp [Decode.word, Decode.wordPlain, Decode.wordValu, Decode.zeros, f0, f1, f2, f3, f4])

theorem vbrev (d : VReg) (a : VReg) : Statement (.vbrev d a) := by
  obtain ⟨w, e, lt, f0, f1, f2, f3, f4⟩ := shape23 0x34600000 6 35 d a rfl (by decide) (by decide)
  exact of_word w (congrArg some e) lt (by simp [Decode.word, Decode.wordPlain, Decode.wordValu, Decode.zeros, f0, f1, f2, f3, f4])

theorem vsel (d : VReg) (a : VReg) (b : VReg) : Statement (.vsel d a b) := by
  obtain ⟨w, e, lt, f0, f1, f2, f3, f4⟩ := shape22 0x35000000 6 40 d a b rfl (by decide) (by decide)
  exact of_word w (congrArg some e) lt (by simp [Decode.word, Decode.wordPlain, Decode.wordValu, f0, f1, f2, f3, f4])

theorem vmov (d : VReg) (a : VReg) : Statement (.vmov d a) := by
  obtain ⟨w, e, lt, f0, f1, f2, f3, f4⟩ := shape23 0x35200000 6 41 d a rfl (by decide) (by decide)
  exact of_word w (congrArg some e) lt (by simp [Decode.word, Decode.wordPlain, Decode.wordValu, Decode.zeros, f0, f1, f2, f3, f4])

theorem vaddi (d : VReg) (a : VReg) (i : BitVec 9) : Statement (.vaddi d a i) := by
  obtain ⟨w, e, lt, f0, f1, f2, f3, f4⟩ := shape24 0x38000000 7 0 d a i rfl (by decide) (by decide)
  exact of_word w (congrArg some e) lt (by simp [Decode.word, Decode.wordPlain, Decode.wordValui, f0, f1, f2, f3, f4])

theorem vmuli24 (d : VReg) (a : VReg) (i : BitVec 9) : Statement (.vmuli24 d a i) := by
  obtain ⟨w, e, lt, f0, f1, f2, f3, f4⟩ := shape24 0x38800000 7 1 d a i rfl (by decide) (by decide)
  exact of_word w (congrArg some e) lt (by simp [Decode.word, Decode.wordPlain, Decode.wordValui, f0, f1, f2, f3, f4])

theorem vandi (d : VReg) (a : VReg) (i : BitVec 9) : Statement (.vandi d a i) := by
  obtain ⟨w, e, lt, f0, f1, f2, f3, f4⟩ := shape24 0x39000000 7 2 d a i rfl (by decide) (by decide)
  exact of_word w (congrArg some e) lt (by simp [Decode.word, Decode.wordPlain, Decode.wordValui, f0, f1, f2, f3, f4])

theorem vori (d : VReg) (a : VReg) (i : BitVec 9) : Statement (.vori d a i) := by
  obtain ⟨w, e, lt, f0, f1, f2, f3, f4⟩ := shape24 0x39800000 7 3 d a i rfl (by decide) (by decide)
  exact of_word w (congrArg some e) lt (by simp [Decode.word, Decode.wordPlain, Decode.wordValui, f0, f1, f2, f3, f4])

theorem vxori (d : VReg) (a : VReg) (i : BitVec 9) : Statement (.vxori d a i) := by
  obtain ⟨w, e, lt, f0, f1, f2, f3, f4⟩ := shape24 0x3A000000 7 4 d a i rfl (by decide) (by decide)
  exact of_word w (congrArg some e) lt (by simp [Decode.word, Decode.wordPlain, Decode.wordValui, f0, f1, f2, f3, f4])

theorem vslli (d : VReg) (a : VReg) (c : BitVec 5) : Statement (.vslli d a c) := by
  obtain ⟨w, e, lt, f0, f1, f2, f3, f4, f5⟩ := shape25 0x3A800000 7 5 d a c rfl (by decide) (by decide)
  exact of_word w (congrArg some e) lt (by simp [Decode.word, Decode.wordPlain, Decode.wordValui, Decode.zeros, f0, f1, f2, f3, f4, f5])

theorem vsrli (d : VReg) (a : VReg) (c : BitVec 5) : Statement (.vsrli d a c) := by
  obtain ⟨w, e, lt, f0, f1, f2, f3, f4, f5⟩ := shape25 0x3B000000 7 6 d a c rfl (by decide) (by decide)
  exact of_word w (congrArg some e) lt (by simp [Decode.word, Decode.wordPlain, Decode.wordValui, Decode.zeros, f0, f1, f2, f3, f4, f5])

theorem vsrai (d : VReg) (a : VReg) (c : BitVec 5) : Statement (.vsrai d a c) := by
  obtain ⟨w, e, lt, f0, f1, f2, f3, f4, f5⟩ := shape25 0x3B800000 7 7 d a c rfl (by decide) (by decide)
  exact of_word w (congrArg some e) lt (by simp [Decode.word, Decode.wordPlain, Decode.wordValui, Decode.zeros, f0, f1, f2, f3, f4, f5])

theorem vmini (d : VReg) (a : VReg) (i : BitVec 9) : Statement (.vmini d a i) := by
  obtain ⟨w, e, lt, f0, f1, f2, f3, f4⟩ := shape24 0x3C000000 7 8 d a i rfl (by decide) (by decide)
  exact of_word w (congrArg some e) lt (by simp [Decode.word, Decode.wordPlain, Decode.wordValui, f0, f1, f2, f3, f4])

theorem vmaxi (d : VReg) (a : VReg) (i : BitVec 9) : Statement (.vmaxi d a i) := by
  obtain ⟨w, e, lt, f0, f1, f2, f3, f4⟩ := shape24 0x3C800000 7 9 d a i rfl (by decide) (by decide)
  exact of_word w (congrArg some e) lt (by simp [Decode.word, Decode.wordPlain, Decode.wordValui, f0, f1, f2, f3, f4])

theorem vmovi (d : VReg) (i : BitVec 9) : Statement (.vmovi d i) := by
  obtain ⟨w, e, lt, f0, f1, f2, f3, f4⟩ := shape26 0x3D000000 7 10 d i rfl (by decide) (by decide)
  exact of_word w (congrArg some e) lt (by simp [Decode.word, Decode.wordPlain, Decode.wordValui, Decode.zeros, f0, f1, f2, f3, f4])

theorem vfadd (d : VReg) (a : VReg) (b : VReg) : Statement (.vfadd d a b) := by
  obtain ⟨w, e, lt, f0, f1, f2, f3, f4⟩ := shape22 0x40000000 8 0 d a b rfl (by decide) (by decide)
  exact of_word w (congrArg some e) lt (by simp [Decode.word, Decode.wordPlain, Decode.wordVfp, f0, f1, f2, f3, f4])

theorem vfsub (d : VReg) (a : VReg) (b : VReg) : Statement (.vfsub d a b) := by
  obtain ⟨w, e, lt, f0, f1, f2, f3, f4⟩ := shape22 0x40200000 8 1 d a b rfl (by decide) (by decide)
  exact of_word w (congrArg some e) lt (by simp [Decode.word, Decode.wordPlain, Decode.wordVfp, f0, f1, f2, f3, f4])

theorem vfmul (d : VReg) (a : VReg) (b : VReg) : Statement (.vfmul d a b) := by
  obtain ⟨w, e, lt, f0, f1, f2, f3, f4⟩ := shape22 0x40400000 8 2 d a b rfl (by decide) (by decide)
  exact of_word w (congrArg some e) lt (by simp [Decode.word, Decode.wordPlain, Decode.wordVfp, f0, f1, f2, f3, f4])

theorem vfma (d : VReg) (a : VReg) (b : VReg) : Statement (.vfma d a b) := by
  obtain ⟨w, e, lt, f0, f1, f2, f3, f4⟩ := shape22 0x40600000 8 3 d a b rfl (by decide) (by decide)
  exact of_word w (congrArg some e) lt (by simp [Decode.word, Decode.wordPlain, Decode.wordVfp, f0, f1, f2, f3, f4])

theorem vfms (d : VReg) (a : VReg) (b : VReg) : Statement (.vfms d a b) := by
  obtain ⟨w, e, lt, f0, f1, f2, f3, f4⟩ := shape22 0x40800000 8 4 d a b rfl (by decide) (by decide)
  exact of_word w (congrArg some e) lt (by simp [Decode.word, Decode.wordPlain, Decode.wordVfp, f0, f1, f2, f3, f4])

theorem vfnma (d : VReg) (a : VReg) (b : VReg) : Statement (.vfnma d a b) := by
  obtain ⟨w, e, lt, f0, f1, f2, f3, f4⟩ := shape22 0x40A00000 8 5 d a b rfl (by decide) (by decide)
  exact of_word w (congrArg some e) lt (by simp [Decode.word, Decode.wordPlain, Decode.wordVfp, f0, f1, f2, f3, f4])

theorem vfmin (d : VReg) (a : VReg) (b : VReg) : Statement (.vfmin d a b) := by
  obtain ⟨w, e, lt, f0, f1, f2, f3, f4⟩ := shape22 0x41000000 8 8 d a b rfl (by decide) (by decide)
  exact of_word w (congrArg some e) lt (by simp [Decode.word, Decode.wordPlain, Decode.wordVfp, f0, f1, f2, f3, f4])

theorem vfmax (d : VReg) (a : VReg) (b : VReg) : Statement (.vfmax d a b) := by
  obtain ⟨w, e, lt, f0, f1, f2, f3, f4⟩ := shape22 0x41200000 8 9 d a b rfl (by decide) (by decide)
  exact of_word w (congrArg some e) lt (by simp [Decode.word, Decode.wordPlain, Decode.wordVfp, f0, f1, f2, f3, f4])

theorem vfabs (d : VReg) (a : VReg) : Statement (.vfabs d a) := by
  obtain ⟨w, e, lt, f0, f1, f2, f3, f4⟩ := shape23 0x41800000 8 12 d a rfl (by decide) (by decide)
  exact of_word w (congrArg some e) lt (by simp [Decode.word, Decode.wordPlain, Decode.wordVfp, Decode.zeros, f0, f1, f2, f3, f4])

theorem vfneg (d : VReg) (a : VReg) : Statement (.vfneg d a) := by
  obtain ⟨w, e, lt, f0, f1, f2, f3, f4⟩ := shape23 0x41A00000 8 13 d a rfl (by decide) (by decide)
  exact of_word w (congrArg some e) lt (by simp [Decode.word, Decode.wordPlain, Decode.wordVfp, Decode.zeros, f0, f1, f2, f3, f4])

theorem vfcpys (d : VReg) (a : VReg) (b : VReg) : Statement (.vfcpys d a b) := by
  obtain ⟨w, e, lt, f0, f1, f2, f3, f4⟩ := shape22 0x41C00000 8 14 d a b rfl (by decide) (by decide)
  exact of_word w (congrArg some e) lt (by simp [Decode.word, Decode.wordPlain, Decode.wordVfp, f0, f1, f2, f3, f4])

theorem vfclass (d : VReg) (a : VReg) : Statement (.vfclass d a) := by
  obtain ⟨w, e, lt, f0, f1, f2, f3, f4⟩ := shape23 0x41E00000 8 15 d a rfl (by decide) (by decide)
  exact of_word w (congrArg some e) lt (by simp [Decode.word, Decode.wordPlain, Decode.wordVfp, Decode.zeros, f0, f1, f2, f3, f4])

theorem vfrnd (d : VReg) (a : VReg) : Statement (.vfrnd d a) := by
  obtain ⟨w, e, lt, f0, f1, f2, f3, f4⟩ := shape23 0x42000000 8 16 d a rfl (by decide) (by decide)
  exact of_word w (congrArg some e) lt (by simp [Decode.word, Decode.wordPlain, Decode.wordVfp, Decode.zeros, f0, f1, f2, f3, f4])

theorem vrcp (la : LA) (d : VReg) (a : VReg) : Statement (.vrcp la d a) := by
  obtain ⟨w, e, lt, f0, f1, f2, f3, f4, f5⟩ := shape27 0x48000000 9 0 la d a rfl (by decide) (by decide)
  exact of_word w (congrArg some e) lt (by simp [Decode.word, Decode.wordPlain, Decode.wordVsf, Decode.zeros, f0, f1, f2, f3, f4, f5])

theorem vrsq (la : LA) (d : VReg) (a : VReg) : Statement (.vrsq la d a) := by
  obtain ⟨w, e, lt, f0, f1, f2, f3, f4, f5⟩ := shape27 0x48040000 9 1 la d a rfl (by decide) (by decide)
  exact of_word w (congrArg some e) lt (by simp [Decode.word, Decode.wordPlain, Decode.wordVsf, Decode.zeros, f0, f1, f2, f3, f4, f5])

theorem vsqrt (la : LA) (d : VReg) (a : VReg) : Statement (.vsqrt la d a) := by
  obtain ⟨w, e, lt, f0, f1, f2, f3, f4, f5⟩ := shape27 0x48080000 9 2 la d a rfl (by decide) (by decide)
  exact of_word w (congrArg some e) lt (by simp [Decode.word, Decode.wordPlain, Decode.wordVsf, Decode.zeros, f0, f1, f2, f3, f4, f5])

theorem vdiv (la : LA) (d : VReg) (a : VReg) : Statement (.vdiv la d a) := by
  obtain ⟨w, e, lt, f0, f1, f2, f3, f4, f5⟩ := shape27 0x480C0000 9 3 la d a rfl (by decide) (by decide)
  exact of_word w (congrArg some e) lt (by simp [Decode.word, Decode.wordPlain, Decode.wordVsf, Decode.zeros, f0, f1, f2, f3, f4, f5])

theorem vexp2 (la : LA) (d : VReg) (a : VReg) : Statement (.vexp2 la d a) := by
  obtain ⟨w, e, lt, f0, f1, f2, f3, f4, f5⟩ := shape27 0x48100000 9 4 la d a rfl (by decide) (by decide)
  exact of_word w (congrArg some e) lt (by simp [Decode.word, Decode.wordPlain, Decode.wordVsf, Decode.zeros, f0, f1, f2, f3, f4, f5])

theorem vlog2 (la : LA) (d : VReg) (a : VReg) : Statement (.vlog2 la d a) := by
  obtain ⟨w, e, lt, f0, f1, f2, f3, f4, f5⟩ := shape27 0x48140000 9 5 la d a rfl (by decide) (by decide)
  exact of_word w (congrArg some e) lt (by simp [Decode.word, Decode.wordPlain, Decode.wordVsf, Decode.zeros, f0, f1, f2, f3, f4, f5])

theorem vsin (la : LA) (d : VReg) (a : VReg) : Statement (.vsin la d a) := by
  obtain ⟨w, e, lt, f0, f1, f2, f3, f4, f5⟩ := shape27 0x48180000 9 6 la d a rfl (by decide) (by decide)
  exact of_word w (congrArg some e) lt (by simp [Decode.word, Decode.wordPlain, Decode.wordVsf, Decode.zeros, f0, f1, f2, f3, f4, f5])

theorem vcos (la : LA) (d : VReg) (a : VReg) : Statement (.vcos la d a) := by
  obtain ⟨w, e, lt, f0, f1, f2, f3, f4, f5⟩ := shape27 0x481C0000 9 7 la d a rfl (by decide) (by decide)
  exact of_word w (congrArg some e) lt (by simp [Decode.word, Decode.wordPlain, Decode.wordVsf, Decode.zeros, f0, f1, f2, f3, f4, f5])

theorem vtanh (la : LA) (d : VReg) (a : VReg) : Statement (.vtanh la d a) := by
  obtain ⟨w, e, lt, f0, f1, f2, f3, f4, f5⟩ := shape27 0x48200000 9 8 la d a rfl (by decide) (by decide)
  exact of_word w (congrArg some e) lt (by simp [Decode.word, Decode.wordPlain, Decode.wordVsf, Decode.zeros, f0, f1, f2, f3, f4, f5])

theorem vcvt (d : VReg) (a : VReg) (t : Fin 16) : Statement (.vcvt d a t) := by
  obtain ⟨w, e, lt, f0, f1, f2, f3, f4, f5⟩ := shape28 0x50000000 10 0 d a t rfl (by decide) (by decide)
  exact of_word w (congrArg some e) lt (by simp [Decode.word, Decode.wordPlain, Decode.wordVcvt, Decode.zeros, f0, f1, f2, f3, f4, f5])

theorem vcvtef (d : VReg) (a : VReg) (b : VReg) : Statement (.vcvtef d a b) := by
  obtain ⟨w, e, lt, f0, f1, f2, f3, f4⟩ := shape22 0x50200000 10 1 d a b rfl (by decide) (by decide)
  exact of_word w (congrArg some e) lt (by simp [Decode.word, Decode.wordPlain, Decode.wordVcvt, f0, f1, f2, f3, f4])

theorem vcvti (d : VReg) (a : VReg) (t : Fin 16) : Statement (.vcvti d a t) := by
  obtain ⟨w, e, lt, f0, f1, f2, f3, f4, f5⟩ := shape28 0x50400000 10 2 d a t rfl (by decide) (by decide)
  exact of_word w (congrArg some e) lt (by simp [Decode.word, Decode.wordPlain, Decode.wordVcvt, Decode.zeros, f0, f1, f2, f3, f4, f5])

theorem vcvtf (d : VReg) (a : VReg) (t : Fin 16) : Statement (.vcvtf d a t) := by
  obtain ⟨w, e, lt, f0, f1, f2, f3, f4, f5⟩ := shape28 0x50600000 10 3 d a t rfl (by decide) (by decide)
  exact of_word w (congrArg some e) lt (by simp [Decode.word, Decode.wordPlain, Decode.wordVcvt, Decode.zeros, f0, f1, f2, f3, f4, f5])

theorem vpk (d : VReg) (a : VReg) (b : VReg) : Statement (.vpk d a b) := by
  obtain ⟨w, e, lt, f0, f1, f2, f3, f4⟩ := shape22 0x50800000 10 4 d a b rfl (by decide) (by decide)
  exact of_word w (congrArg some e) lt (by simp [Decode.word, Decode.wordPlain, Decode.wordVcvt, f0, f1, f2, f3, f4])

theorem vupk (d : VReg) (a : VReg) (n : Fin 4) : Statement (.vupk d a n) := by
  obtain ⟨w, e, lt, f0, f1, f2, f3, f4, f5⟩ := shape29 0x50A00000 10 5 d a n rfl (by decide) (by decide)
  exact of_word w (congrArg some e) lt (by simp [Decode.word, Decode.wordPlain, Decode.wordVcvt, Decode.zeros, f0, f1, f2, f3, f4, f5])

theorem vscale (d : VReg) (a : VReg) (b : VReg) : Statement (.vscale d a b) := by
  obtain ⟨w, e, lt, f0, f1, f2, f3, f4⟩ := shape22 0x50C00000 10 6 d a b rfl (by decide) (by decide)
  exact of_word w (congrArg some e) lt (by simp [Decode.word, Decode.wordPlain, Decode.wordVcvt, f0, f1, f2, f3, f4])

theorem vbs (d : VReg) (a : SReg) : Statement (.vbs d a) := by
  obtain ⟨w, e, lt, f0, f1, f2, f3, f4, f5⟩ := shape30 0x58000000 11 0 d a rfl (by decide) (by decide)
  exact of_word w (congrArg some e) lt (by simp [Decode.word, Decode.wordPlain, Decode.wordVlane, Decode.zeros, f0, f1, f2, f3, f4, f5])

theorem vrd (d : SReg) (a : VReg) (b : SReg) : Statement (.vrd d a b) := by
  obtain ⟨w, e, lt, f0, f1, f2, f3, f4, f5, f6⟩ := shape31 0x58200000 11 1 d a b rfl (by decide) (by decide)
  exact of_word w (congrArg some e) lt (by simp [Decode.word, Decode.wordPlain, Decode.wordVlane, Decode.zeros, f0, f1, f2, f3, f4, f5, f6])

theorem vwr (d : VReg) (a : SReg) (b : SReg) : Statement (.vwr d a b) := by
  obtain ⟨w, e, lt, f0, f1, f2, f3, f4, f5, f6⟩ := shape32 0x58400000 11 2 d a b rfl (by decide) (by decide)
  exact of_word w (congrArg some e) lt (by simp [Decode.word, Decode.wordPlain, Decode.wordVlane, Decode.zeros, f0, f1, f2, f3, f4, f5, f6])

theorem vshfl (d : VReg) (a : VReg) (b : VReg) : Statement (.vshfl d a b) := by
  obtain ⟨w, e, lt, f0, f1, f2, f3, f4⟩ := shape22 0x58600000 11 3 d a b rfl (by decide) (by decide)
  exact of_word w (congrArg some e) lt (by simp [Decode.word, Decode.wordPlain, Decode.wordVlane, f0, f1, f2, f3, f4])

theorem vshfx (d : VReg) (a : VReg) (b : VReg) : Statement (.vshfx d a b) := by
  obtain ⟨w, e, lt, f0, f1, f2, f3, f4⟩ := shape22 0x58800000 11 4 d a b rfl (by decide) (by decide)
  exact of_word w (congrArg some e) lt (by simp [Decode.word, Decode.wordPlain, Decode.wordVlane, f0, f1, f2, f3, f4])

theorem vrot (d : VReg) (a : VReg) (b : SReg) : Statement (.vrot d a b) := by
  obtain ⟨w, e, lt, f0, f1, f2, f3, f4, f5⟩ := shape33 0x58A00000 11 5 d a b rfl (by decide) (by decide)
  exact of_word w (congrArg some e) lt (by simp [Decode.word, Decode.wordPlain, Decode.wordVlane, Decode.zeros, f0, f1, f2, f3, f4, f5])

theorem vredadd (d : SReg) (a : VReg) : Statement (.vredadd d a) := by
  obtain ⟨w, e, lt, f0, f1, f2, f3, f4, f5⟩ := shape34 0x59000000 11 8 d a rfl (by decide) (by decide)
  exact of_word w (congrArg some e) lt (by simp [Decode.word, Decode.wordPlain, Decode.wordVlane, Decode.zeros, f0, f1, f2, f3, f4, f5])

theorem vredmin (d : SReg) (a : VReg) : Statement (.vredmin d a) := by
  obtain ⟨w, e, lt, f0, f1, f2, f3, f4, f5⟩ := shape34 0x59200000 11 9 d a rfl (by decide) (by decide)
  exact of_word w (congrArg some e) lt (by simp [Decode.word, Decode.wordPlain, Decode.wordVlane, Decode.zeros, f0, f1, f2, f3, f4, f5])

theorem vredmax (d : SReg) (a : VReg) : Statement (.vredmax d a) := by
  obtain ⟨w, e, lt, f0, f1, f2, f3, f4, f5⟩ := shape34 0x59400000 11 10 d a rfl (by decide) (by decide)
  exact of_word w (congrArg some e) lt (by simp [Decode.word, Decode.wordPlain, Decode.wordVlane, Decode.zeros, f0, f1, f2, f3, f4, f5])

theorem vredminx (d : SReg) (a : VReg) (b : SReg) : Statement (.vredminx d a b) := by
  obtain ⟨w, e, lt, f0, f1, f2, f3, f4, f5, f6⟩ := shape31 0x59600000 11 11 d a b rfl (by decide) (by decide)
  exact of_word w (congrArg some e) lt (by simp [Decode.word, Decode.wordPlain, Decode.wordVlane, Decode.zeros, f0, f1, f2, f3, f4, f5, f6])

theorem vredmaxx (d : SReg) (a : VReg) (b : SReg) : Statement (.vredmaxx d a b) := by
  obtain ⟨w, e, lt, f0, f1, f2, f3, f4, f5, f6⟩ := shape31 0x59800000 11 12 d a b rfl (by decide) (by decide)
  exact of_word w (congrArg some e) lt (by simp [Decode.word, Decode.wordPlain, Decode.wordVlane, Decode.zeros, f0, f1, f2, f3, f4, f5, f6])

theorem vscan (d : VReg) (a : VReg) : Statement (.vscan d a) := by
  obtain ⟨w, e, lt, f0, f1, f2, f3, f4⟩ := shape23 0x59A00000 11 13 d a rfl (by decide) (by decide)
  exact of_word w (congrArg some e) lt (by simp [Decode.word, Decode.wordPlain, Decode.wordVlane, Decode.zeros, f0, f1, f2, f3, f4])

theorem vredand (d : SReg) (a : VReg) : Statement (.vredand d a) := by
  obtain ⟨w, e, lt, f0, f1, f2, f3, f4, f5⟩ := shape34 0x59C00000 11 14 d a rfl (by decide) (by decide)
  exact of_word w (congrArg some e) lt (by simp [Decode.word, Decode.wordPlain, Decode.wordVlane, Decode.zeros, f0, f1, f2, f3, f4, f5])

theorem vredor (d : SReg) (a : VReg) : Statement (.vredor d a) := by
  obtain ⟨w, e, lt, f0, f1, f2, f3, f4, f5⟩ := shape34 0x59E00000 11 15 d a rfl (by decide) (by decide)
  exact of_word w (congrArg some e) lt (by simp [Decode.word, Decode.wordPlain, Decode.wordVlane, Decode.zeros, f0, f1, f2, f3, f4, f5])

theorem vredxor (d : SReg) (a : VReg) : Statement (.vredxor d a) := by
  obtain ⟨w, e, lt, f0, f1, f2, f3, f4, f5⟩ := shape34 0x5A000000 11 16 d a rfl (by decide) (by decide)
  exact of_word w (congrArg some e) lt (by simp [Decode.word, Decode.wordPlain, Decode.wordVlane, Decode.zeros, f0, f1, f2, f3, f4, f5])

theorem vcmp (c : CC) (p : PReg) (m : Comb) (a : VReg) (b : VReg) : Statement (.vcmp c p m a b) := by
  obtain ⟨w, e, lt, f0, f1, f2, f3, f4, f5, f6⟩ := shape35 0x60000000 12 0 c p m a b rfl (by decide) (by decide)
  exact of_word w (congrArg some e) lt (by simp [Decode.word, Decode.wordPlain, Decode.wordVcmp, Decode.onCC, cc_code c, Decode.onComb, comb_code m, f0, f1, f2, f3, f4, f5, f6])

theorem vcmpn (c : CC) (p : PReg) (m : Comb) (a : VReg) (b : VReg) : Statement (.vcmpn c p m a b) := by
  obtain ⟨w, e, lt, f0, f1, f2, f3, f4, f5, f6⟩ := shape35 0x61000000 12 1 c p m a b rfl (by decide) (by decide)
  exact of_word w (congrArg some e) lt (by simp [Decode.word, Decode.wordPlain, Decode.wordVcmp, Decode.onCC, cc_code c, Decode.onComb, comb_code m, f0, f1, f2, f3, f4, f5, f6])

theorem vfcmp (c : CC) (p : PReg) (m : Comb) (a : VReg) (b : VReg) : Statement (.vfcmp c p m a b) := by
  obtain ⟨w, e, lt, f0, f1, f2, f3, f4, f5, f6⟩ := shape35 0x62000000 12 2 c p m a b rfl (by decide) (by decide)
  exact of_word w (congrArg some e) lt (by simp [Decode.word, Decode.wordPlain, Decode.wordVcmp, Decode.onCC, cc_code c, Decode.onComb, comb_code m, f0, f1, f2, f3, f4, f5, f6])

theorem vfcmpn (c : CC) (p : PReg) (m : Comb) (a : VReg) (b : VReg) : Statement (.vfcmpn c p m a b) := by
  obtain ⟨w, e, lt, f0, f1, f2, f3, f4, f5, f6⟩ := shape35 0x63000000 12 3 c p m a b rfl (by decide) (by decide)
  exact of_word w (congrArg some e) lt (by simp [Decode.word, Decode.wordPlain, Decode.wordVcmp, Decode.onCC, cc_code c, Decode.onComb, comb_code m, f0, f1, f2, f3, f4, f5, f6])

theorem ldb (la : LA) (v : VReg) (a : SReg) (i : BitVec 6) : Statement (.ldb la v a i) := by
  obtain ⟨w, e, lt, f0, f1, f2, f3, f4, f5⟩ := shape36 0x68000000 13 0 la v a i rfl (by decide) (by decide)
  exact of_word w (congrArg some e) lt (by simp [Decode.word, Decode.wordPlain, Decode.wordLd, f0, f1, f2, f3, f4, f5])

theorem ldbs (la : LA) (v : VReg) (a : SReg) (i : BitVec 6) : Statement (.ldbs la v a i) := by
  obtain ⟨w, e, lt, f0, f1, f2, f3, f4, f5⟩ := shape36 0x68080000 13 1 la v a i rfl (by decide) (by decide)
  exact of_word w (congrArg some e) lt (by simp [Decode.word, Decode.wordPlain, Decode.wordLd, f0, f1, f2, f3, f4, f5])

theorem ldh (la : LA) (v : VReg) (a : SReg) (i : BitVec 6) : Statement (.ldh la v a i) := by
  obtain ⟨w, e, lt, f0, f1, f2, f3, f4, f5⟩ := shape36 0x68100000 13 2 la v a i rfl (by decide) (by decide)
  exact of_word w (congrArg some e) lt (by simp [Decode.word, Decode.wordPlain, Decode.wordLd, f0, f1, f2, f3, f4, f5])

theorem ldhs (la : LA) (v : VReg) (a : SReg) (i : BitVec 6) : Statement (.ldhs la v a i) := by
  obtain ⟨w, e, lt, f0, f1, f2, f3, f4, f5⟩ := shape36 0x68180000 13 3 la v a i rfl (by decide) (by decide)
  exact of_word w (congrArg some e) lt (by simp [Decode.word, Decode.wordPlain, Decode.wordLd, f0, f1, f2, f3, f4, f5])

theorem ldw (la : LA) (v : VReg) (a : SReg) (i : BitVec 6) : Statement (.ldw la v a i) := by
  obtain ⟨w, e, lt, f0, f1, f2, f3, f4, f5⟩ := shape36 0x68200000 13 4 la v a i rfl (by decide) (by decide)
  exact of_word w (congrArg some e) lt (by simp [Decode.word, Decode.wordPlain, Decode.wordLd, f0, f1, f2, f3, f4, f5])

theorem ldd (la : LA) (v : VReg) (a : SReg) (i : BitVec 6) : Statement (.ldd la v a i) := by
  obtain ⟨w, e, lt, f0, f1, f2, f3, f4, f5⟩ := shape36 0x68280000 13 5 la v a i rfl (by decide) (by decide)
  exact of_word w (congrArg some e) lt (by simp [Decode.word, Decode.wordPlain, Decode.wordLd, f0, f1, f2, f3, f4, f5])

theorem ldq (la : LA) (v : VReg) (a : SReg) (i : BitVec 6) : Statement (.ldq la v a i) := by
  obtain ⟨w, e, lt, f0, f1, f2, f3, f4, f5⟩ := shape36 0x68300000 13 6 la v a i rfl (by decide) (by decide)
  exact of_word w (congrArg some e) lt (by simp [Decode.word, Decode.wordPlain, Decode.wordLd, f0, f1, f2, f3, f4, f5])

theorem lds (la : LA) (d : SReg) (a : SReg) (i : BitVec 6) : Statement (.lds la d a i) := by
  obtain ⟨w, e, lt, f0, f1, f2, f3, f4, f5, f6⟩ := shape37 0x68380000 13 7 la d a i rfl (by decide) (by decide)
  exact of_word w (congrArg some e) lt (by simp [Decode.word, Decode.wordPlain, Decode.wordLd, Decode.zeros, f0, f1, f2, f3, f4, f5, f6])

theorem ldx (la : LA) (v : VReg) (a : SReg) (i : BitVec 6) : Statement (.ldx la v a i) := by
  obtain ⟨w, e, lt, f0, f1, f2, f3, f4, f5⟩ := shape36 0x68400000 13 8 la v a i rfl (by decide) (by decide)
  exact of_word w (congrArg some e) lt (by simp [Decode.word, Decode.wordPlain, Decode.wordLd, f0, f1, f2, f3, f4, f5])

theorem ldwAcq (la : LA) (v : VReg) (a : SReg) (c : Scope) : Statement (.ldwAcq la v a c) := by
  obtain ⟨w, e, lt, f0, f1, f2, f3, f4, f5, f6⟩ := shape38 0x68600000 13 12 la v a c rfl (by decide) (by decide)
  exact of_word w (congrArg some e) lt (by simp [Decode.word, Decode.wordPlain, Decode.wordLd, Decode.zeros, Decode.onScope, scope_code c, f0, f1, f2, f3, f4, f5, f6])

theorem lddAcq (la : LA) (v : VReg) (a : SReg) (c : Scope) : Statement (.lddAcq la v a c) := by
  obtain ⟨w, e, lt, f0, f1, f2, f3, f4, f5, f6⟩ := shape38 0x68680000 13 13 la v a c rfl (by decide) (by decide)
  exact of_word w (congrArg some e) lt (by simp [Decode.word, Decode.wordPlain, Decode.wordLd, Decode.zeros, Decode.onScope, scope_code c, f0, f1, f2, f3, f4, f5, f6])

theorem ldsAcq (la : LA) (d : SReg) (a : SReg) (c : Scope) : Statement (.ldsAcq la d a c) := by
  obtain ⟨w, e, lt, f0, f1, f2, f3, f4, f5, f6, f7⟩ := shape39 0x68700000 13 14 la d a c rfl (by decide) (by decide)
  exact of_word w (congrArg some e) lt (by simp [Decode.word, Decode.wordPlain, Decode.wordLd, Decode.zeros, Decode.onScope, scope_code c, f0, f1, f2, f3, f4, f5, f6, f7])

theorem stb (r : Option Scope) (v : VReg) (a : SReg) (i : BitVec 6) : Statement (.stb r v a i) := by
  obtain ⟨w, e, lt, f0, f1, f2, f3, f4, f5⟩ := shape40 0x70000000 14 0 r v a i rfl (by decide) (by decide)
  exact of_word w (congrArg some e) lt (by simp [Decode.word, Decode.wordPlain, Decode.wordSt, f0, f1, on_rel _ _ f2, f3, f4, f5])

theorem sth (r : Option Scope) (v : VReg) (a : SReg) (i : BitVec 6) : Statement (.sth r v a i) := by
  obtain ⟨w, e, lt, f0, f1, f2, f3, f4, f5⟩ := shape40 0x70100000 14 2 r v a i rfl (by decide) (by decide)
  exact of_word w (congrArg some e) lt (by simp [Decode.word, Decode.wordPlain, Decode.wordSt, f0, f1, on_rel _ _ f2, f3, f4, f5])

theorem stw (r : Option Scope) (v : VReg) (a : SReg) (i : BitVec 6) : Statement (.stw r v a i) := by
  obtain ⟨w, e, lt, f0, f1, f2, f3, f4, f5⟩ := shape40 0x70200000 14 4 r v a i rfl (by decide) (by decide)
  exact of_word w (congrArg some e) lt (by simp [Decode.word, Decode.wordPlain, Decode.wordSt, f0, f1, on_rel _ _ f2, f3, f4, f5])

theorem std (r : Option Scope) (v : VReg) (a : SReg) (i : BitVec 6) : Statement (.std r v a i) := by
  obtain ⟨w, e, lt, f0, f1, f2, f3, f4, f5⟩ := shape40 0x70280000 14 5 r v a i rfl (by decide) (by decide)
  exact of_word w (congrArg some e) lt (by simp [Decode.word, Decode.wordPlain, Decode.wordSt, f0, f1, on_rel _ _ f2, f3, f4, f5])

theorem stq (r : Option Scope) (v : VReg) (a : SReg) (i : BitVec 6) : Statement (.stq r v a i) := by
  obtain ⟨w, e, lt, f0, f1, f2, f3, f4, f5⟩ := shape40 0x70300000 14 6 r v a i rfl (by decide) (by decide)
  exact of_word w (congrArg some e) lt (by simp [Decode.word, Decode.wordPlain, Decode.wordSt, f0, f1, on_rel _ _ f2, f3, f4, f5])

theorem sts (r : Option Scope) (v : SReg) (a : SReg) (i : BitVec 6) : Statement (.sts r v a i) := by
  obtain ⟨w, e, lt, f0, f1, f2, f3, f4, f5, f6⟩ := shape41 0x70380000 14 7 r v a i rfl (by decide) (by decide)
  exact of_word w (congrArg some e) lt (by simp [Decode.word, Decode.wordPlain, Decode.wordSt, Decode.zeros, f0, f1, f2, on_rel _ _ f3, f4, f5, f6])

theorem stx (v : VReg) (a : SReg) (i : BitVec 6) : Statement (.stx v a i) := by
  obtain ⟨w, e, lt, f0, f1, f2, f3, f4, f5⟩ := shape42 0x70400000 14 8 v a i rfl (by decide) (by decide)
  exact of_word w (congrArg some e) lt (by simp [Decode.word, Decode.wordPlain, Decode.wordSt, Decode.zeros, f0, f1, f2, f3, f4, f5])

theorem fld (la : LA) (e : Fin 8) (d : SReg) (o : BitVec 14) : Statement (.fld la e d o) := by
  obtain ⟨w, e, lt, f0, f1, f2, f3, f4⟩ := shape43 0x78000000 15 la e d o rfl (by decide)
  exact of_word w (congrArg some e) lt (by simp [Decode.word, Decode.wordPlain, Decode.wordFld, f0, f1, f2, f3, f4])

theorem fst (r : Option Scope) (e : Fin 8) (v : SReg) (o : BitVec 14) : Statement (.fst r e v o) := by
  obtain ⟨w, e, lt, f0, f1, f2, f3, f4⟩ := shape44 0x80000000 16 r e v o rfl (by decide)
  exact of_word w (congrArg some e) lt (by simp [Decode.word, Decode.wordPlain, Decode.wordFst, f0, on_rel _ _ f1, f2, f3, f4])

theorem fla (e : Fin 8) (d : SReg) (o : BitVec 14) : Statement (.fla e d o) := by
  obtain ⟨w, e, lt, f0, f1, f2, f3, f4⟩ := shape45 0xD0000000 26 e d o rfl (by decide)
  exact of_word w (congrArg some e) lt (by simp [Decode.word, Decode.wordPlain, Decode.wordFla, Decode.zeros, f0, f1, f2, f3, f4])

theorem spat (a : SReg) (k : Fin 4) : Statement (.spat a k) := by
  obtain ⟨w, e, lt, f0, f1, f2, f3, f4, f5, f6⟩ := shape46 0x88000000 17 0 a k rfl (by decide) (by decide)
  exact of_word w (congrArg some e) lt (by simp [Decode.word, Decode.wordPlain, Decode.wordSmem, Decode.zeros, f0, f1, f2, f3, f4, f5, f6])

theorem sld (la : LA) (d : VReg) (k : Fin 4) : Statement (.sld la d k) := by
  obtain ⟨w, e, lt, f0, f1, f2, f3, f4, f5⟩ := shape47 0x88040000 17 1 la d k rfl (by decide) (by decide)
  exact of_word w (congrArg some e) lt (by simp [Decode.word, Decode.wordPlain, Decode.wordSmem, Decode.zeros, f0, f1, f2, f3, f4, f5])

theorem sst (v : VReg) (k : Fin 4) : Statement (.sst v k) := by
  obtain ⟨w, e, lt, f0, f1, f2, f3, f4, f5, f6⟩ := shape48 0x88080000 17 2 v k rfl (by decide) (by decide)
  exact of_word w (congrArg some e) lt (by simp [Decode.word, Decode.wordPlain, Decode.wordSmem, Decode.zeros, f0, f1, f2, f3, f4, f5, f6])

theorem sreset (k : Fin 4) : Statement (.sreset k) := by
  obtain ⟨w, e, lt, f0, f1, f2, f3, f4⟩ := shape49 0x880C0000 17 3 k rfl (by decide) (by decide)
  exact of_word w (congrArg some e) lt (by simp [Decode.word, Decode.wordPlain, Decode.wordSmem, Decode.zeros, f0, f1, f2, f3, f4])

theorem aadd (la : LA) (v : VReg) (a : SReg) (o : BitVec 5) : Statement (.aadd la v a o) := by
  obtain ⟨w, e, lt, f0, f1, f2, f3, f4, f5, f6⟩ := shape50 0x90000000 18 0 la v a o rfl (by decide) (by decide)
  exact of_word w (congrArg some e) lt (by simp [Decode.word, Decode.wordPlain, Decode.wordAtomReturning, Decode.wordAtom, f0, f1, f2, f3, f4, f5, f6])

theorem aaddNr (r : Option Scope) (v : VReg) (a : SReg) (o : BitVec 5) : Statement (.aaddNr r v a o) := by
  obtain ⟨w, e, lt, f0, f1, f2, f3, f4, f5, f6⟩ := shape51 0x90000020 18 0 r v a o rfl (by decide) (by decide)
  exact of_word w (congrArg some e) lt (by simp [Decode.word, Decode.wordPlain, Decode.wordAtomNonReturning, Decode.wordAtom, f0, f1, f2, on_rel _ _ f3, f4, f5, f6])

theorem amin (la : LA) (v : VReg) (a : SReg) (o : BitVec 5) : Statement (.amin la v a o) := by
  obtain ⟨w, e, lt, f0, f1, f2, f3, f4, f5, f6⟩ := shape50 0x90080000 18 1 la v a o rfl (by decide) (by decide)
  exact of_word w (congrArg some e) lt (by simp [Decode.word, Decode.wordPlain, Decode.wordAtomReturning, Decode.wordAtom, f0, f1, f2, f3, f4, f5, f6])

theorem aminNr (r : Option Scope) (v : VReg) (a : SReg) (o : BitVec 5) : Statement (.aminNr r v a o) := by
  obtain ⟨w, e, lt, f0, f1, f2, f3, f4, f5, f6⟩ := shape51 0x90080020 18 1 r v a o rfl (by decide) (by decide)
  exact of_word w (congrArg some e) lt (by simp [Decode.word, Decode.wordPlain, Decode.wordAtomNonReturning, Decode.wordAtom, f0, f1, f2, on_rel _ _ f3, f4, f5, f6])

theorem amax (la : LA) (v : VReg) (a : SReg) (o : BitVec 5) : Statement (.amax la v a o) := by
  obtain ⟨w, e, lt, f0, f1, f2, f3, f4, f5, f6⟩ := shape50 0x90100000 18 2 la v a o rfl (by decide) (by decide)
  exact of_word w (congrArg some e) lt (by simp [Decode.word, Decode.wordPlain, Decode.wordAtomReturning, Decode.wordAtom, f0, f1, f2, f3, f4, f5, f6])

theorem amaxNr (r : Option Scope) (v : VReg) (a : SReg) (o : BitVec 5) : Statement (.amaxNr r v a o) := by
  obtain ⟨w, e, lt, f0, f1, f2, f3, f4, f5, f6⟩ := shape51 0x90100020 18 2 r v a o rfl (by decide) (by decide)
  exact of_word w (congrArg some e) lt (by simp [Decode.word, Decode.wordPlain, Decode.wordAtomNonReturning, Decode.wordAtom, f0, f1, f2, on_rel _ _ f3, f4, f5, f6])

theorem aminn (la : LA) (v : VReg) (a : SReg) (o : BitVec 5) : Statement (.aminn la v a o) := by
  obtain ⟨w, e, lt, f0, f1, f2, f3, f4, f5, f6⟩ := shape50 0x90180000 18 3 la v a o rfl (by decide) (by decide)
  exact of_word w (congrArg some e) lt (by simp [Decode.word, Decode.wordPlain, Decode.wordAtomReturning, Decode.wordAtom, f0, f1, f2, f3, f4, f5, f6])

theorem aminnNr (r : Option Scope) (v : VReg) (a : SReg) (o : BitVec 5) : Statement (.aminnNr r v a o) := by
  obtain ⟨w, e, lt, f0, f1, f2, f3, f4, f5, f6⟩ := shape51 0x90180020 18 3 r v a o rfl (by decide) (by decide)
  exact of_word w (congrArg some e) lt (by simp [Decode.word, Decode.wordPlain, Decode.wordAtomNonReturning, Decode.wordAtom, f0, f1, f2, on_rel _ _ f3, f4, f5, f6])

theorem amaxn (la : LA) (v : VReg) (a : SReg) (o : BitVec 5) : Statement (.amaxn la v a o) := by
  obtain ⟨w, e, lt, f0, f1, f2, f3, f4, f5, f6⟩ := shape50 0x90200000 18 4 la v a o rfl (by decide) (by decide)
  exact of_word w (congrArg some e) lt (by simp [Decode.word, Decode.wordPlain, Decode.wordAtomReturning, Decode.wordAtom, f0, f1, f2, f3, f4, f5, f6])

theorem amaxnNr (r : Option Scope) (v : VReg) (a : SReg) (o : BitVec 5) : Statement (.amaxnNr r v a o) := by
  obtain ⟨w, e, lt, f0, f1, f2, f3, f4, f5, f6⟩ := shape51 0x90200020 18 4 r v a o rfl (by decide) (by decide)
  exact of_word w (congrArg some e) lt (by simp [Decode.word, Decode.wordPlain, Decode.wordAtomNonReturning, Decode.wordAtom, f0, f1, f2, on_rel _ _ f3, f4, f5, f6])

theorem aand (la : LA) (v : VReg) (a : SReg) (o : BitVec 5) : Statement (.aand la v a o) := by
  obtain ⟨w, e, lt, f0, f1, f2, f3, f4, f5, f6⟩ := shape50 0x90280000 18 5 la v a o rfl (by decide) (by decide)
  exact of_word w (congrArg some e) lt (by simp [Decode.word, Decode.wordPlain, Decode.wordAtomReturning, Decode.wordAtom, f0, f1, f2, f3, f4, f5, f6])

theorem aandNr (r : Option Scope) (v : VReg) (a : SReg) (o : BitVec 5) : Statement (.aandNr r v a o) := by
  obtain ⟨w, e, lt, f0, f1, f2, f3, f4, f5, f6⟩ := shape51 0x90280020 18 5 r v a o rfl (by decide) (by decide)
  exact of_word w (congrArg some e) lt (by simp [Decode.word, Decode.wordPlain, Decode.wordAtomNonReturning, Decode.wordAtom, f0, f1, f2, on_rel _ _ f3, f4, f5, f6])

theorem aor (la : LA) (v : VReg) (a : SReg) (o : BitVec 5) : Statement (.aor la v a o) := by
  obtain ⟨w, e, lt, f0, f1, f2, f3, f4, f5, f6⟩ := shape50 0x90300000 18 6 la v a o rfl (by decide) (by decide)
  exact of_word w (congrArg some e) lt (by simp [Decode.word, Decode.wordPlain, Decode.wordAtomReturning, Decode.wordAtom, f0, f1, f2, f3, f4, f5, f6])

theorem aorNr (r : Option Scope) (v : VReg) (a : SReg) (o : BitVec 5) : Statement (.aorNr r v a o) := by
  obtain ⟨w, e, lt, f0, f1, f2, f3, f4, f5, f6⟩ := shape51 0x90300020 18 6 r v a o rfl (by decide) (by decide)
  exact of_word w (congrArg some e) lt (by simp [Decode.word, Decode.wordPlain, Decode.wordAtomNonReturning, Decode.wordAtom, f0, f1, f2, on_rel _ _ f3, f4, f5, f6])

theorem axor (la : LA) (v : VReg) (a : SReg) (o : BitVec 5) : Statement (.axor la v a o) := by
  obtain ⟨w, e, lt, f0, f1, f2, f3, f4, f5, f6⟩ := shape50 0x90380000 18 7 la v a o rfl (by decide) (by decide)
  exact of_word w (congrArg some e) lt (by simp [Decode.word, Decode.wordPlain, Decode.wordAtomReturning, Decode.wordAtom, f0, f1, f2, f3, f4, f5, f6])

theorem axorNr (r : Option Scope) (v : VReg) (a : SReg) (o : BitVec 5) : Statement (.axorNr r v a o) := by
  obtain ⟨w, e, lt, f0, f1, f2, f3, f4, f5, f6⟩ := shape51 0x90380020 18 7 r v a o rfl (by decide) (by decide)
  exact of_word w (congrArg some e) lt (by simp [Decode.word, Decode.wordPlain, Decode.wordAtomNonReturning, Decode.wordAtom, f0, f1, f2, on_rel _ _ f3, f4, f5, f6])

theorem axchg (la : LA) (v : VReg) (a : SReg) (o : BitVec 5) : Statement (.axchg la v a o) := by
  obtain ⟨w, e, lt, f0, f1, f2, f3, f4, f5, f6⟩ := shape50 0x90400000 18 8 la v a o rfl (by decide) (by decide)
  exact of_word w (congrArg some e) lt (by simp [Decode.word, Decode.wordPlain, Decode.wordAtomReturning, Decode.wordAtom, f0, f1, f2, f3, f4, f5, f6])

theorem axchgNr (r : Option Scope) (v : VReg) (a : SReg) (o : BitVec 5) : Statement (.axchgNr r v a o) := by
  obtain ⟨w, e, lt, f0, f1, f2, f3, f4, f5, f6⟩ := shape51 0x90400020 18 8 r v a o rfl (by decide) (by decide)
  exact of_word w (congrArg some e) lt (by simp [Decode.word, Decode.wordPlain, Decode.wordAtomNonReturning, Decode.wordAtom, f0, f1, f2, on_rel _ _ f3, f4, f5, f6])

theorem acas (la : LA) (v : VReg) (a : SReg) (o : BitVec 5) : Statement (.acas la v a o) := by
  obtain ⟨w, e, lt, f0, f1, f2, f3, f4, f5, f6⟩ := shape50 0x90480000 18 9 la v a o rfl (by decide) (by decide)
  exact of_word w (congrArg some e) lt (by simp [Decode.word, Decode.wordPlain, Decode.wordAtomReturning, Decode.wordAtom, f0, f1, f2, f3, f4, f5, f6])

theorem acasNr (r : Option Scope) (v : VReg) (a : SReg) (o : BitVec 5) : Statement (.acasNr r v a o) := by
  obtain ⟨w, e, lt, f0, f1, f2, f3, f4, f5, f6⟩ := shape51 0x90480020 18 9 r v a o rfl (by decide) (by decide)
  exact of_word w (congrArg some e) lt (by simp [Decode.word, Decode.wordPlain, Decode.wordAtomNonReturning, Decode.wordAtom, f0, f1, f2, on_rel _ _ f3, f4, f5, f6])

theorem ainc (la : LA) (v : VReg) (a : SReg) (o : BitVec 5) : Statement (.ainc la v a o) := by
  obtain ⟨w, e, lt, f0, f1, f2, f3, f4, f5, f6⟩ := shape50 0x90500000 18 10 la v a o rfl (by decide) (by decide)
  exact of_word w (congrArg some e) lt (by simp [Decode.word, Decode.wordPlain, Decode.wordAtomReturning, Decode.wordAtom, f0, f1, f2, f3, f4, f5, f6])

theorem aincNr (r : Option Scope) (v : VReg) (a : SReg) (o : BitVec 5) : Statement (.aincNr r v a o) := by
  obtain ⟨w, e, lt, f0, f1, f2, f3, f4, f5, f6⟩ := shape51 0x90500020 18 10 r v a o rfl (by decide) (by decide)
  exact of_word w (congrArg some e) lt (by simp [Decode.word, Decode.wordPlain, Decode.wordAtomNonReturning, Decode.wordAtom, f0, f1, f2, on_rel _ _ f3, f4, f5, f6])

theorem afadd (la : LA) (v : VReg) (a : SReg) (o : BitVec 5) : Statement (.afadd la v a o) := by
  obtain ⟨w, e, lt, f0, f1, f2, f3, f4, f5, f6⟩ := shape50 0x90580000 18 11 la v a o rfl (by decide) (by decide)
  exact of_word w (congrArg some e) lt (by simp [Decode.word, Decode.wordPlain, Decode.wordAtomReturning, Decode.wordAtom, f0, f1, f2, f3, f4, f5, f6])

theorem afaddNr (r : Option Scope) (v : VReg) (a : SReg) (o : BitVec 5) : Statement (.afaddNr r v a o) := by
  obtain ⟨w, e, lt, f0, f1, f2, f3, f4, f5, f6⟩ := shape51 0x90580020 18 11 r v a o rfl (by decide) (by decide)
  exact of_word w (congrArg some e) lt (by simp [Decode.word, Decode.wordPlain, Decode.wordAtomNonReturning, Decode.wordAtom, f0, f1, f2, on_rel _ _ f3, f4, f5, f6])

theorem cpy4 (d : SReg) (a : SReg) (c : SReg) : Statement (.cpy4 d a c) := by
  obtain ⟨w, e, lt, f0, f1, f2, f3, f4⟩ := shape13 0x98000000 19 0 d a c rfl (by decide) (by decide)
  exact of_word w (congrArg some e) lt (by simp [Decode.word, Decode.wordPlain, Decode.wordCopy, f0, f1, f2, f3, f4])

theorem cpy8 (d : SReg) (a : SReg) (c : SReg) : Statement (.cpy8 d a c) := by
  obtain ⟨w, e, lt, f0, f1, f2, f3, f4⟩ := shape13 0x98040000 19 1 d a c rfl (by decide) (by decide)
  exact of_word w (congrArg some e) lt (by simp [Decode.word, Decode.wordPlain, Decode.wordCopy, f0, f1, f2, f3, f4])

theorem cpy16 (d : SReg) (a : SReg) (c : SReg) : Statement (.cpy16 d a c) := by
  obtain ⟨w, e, lt, f0, f1, f2, f3, f4⟩ := shape13 0x98080000 19 2 d a c rfl (by decide) (by decide)
  exact of_word w (congrArg some e) lt (by simp [Decode.word, Decode.wordPlain, Decode.wordCopy, f0, f1, f2, f3, f4])

theorem cpt (t : SReg) (a : SReg) (c : SReg) : Statement (.cpt t a c) := by
  obtain ⟨w, e, lt, f0, f1, f2, f3, f4⟩ := shape13 0x98100000 19 4 t a c rfl (by decide) (by decide)
  exact of_word w (congrArg some e) lt (by simp [Decode.word, Decode.wordPlain, Decode.wordCopy, f0, f1, f2, f3, f4])

theorem cpz (r : SReg) (c : SReg) : Statement (.cpz r c) := by
  obtain ⟨w, e, lt, f0, f1, f2, f3, f4⟩ := shape14 0x98140000 19 5 r c rfl (by decide) (by decide)
  exact of_word w (congrArg some e) lt (by simp [Decode.word, Decode.wordPlain, Decode.wordCopy, Decode.zeros, f0, f1, f2, f3, f4])

theorem cntadd (c : SReg) (v : SReg) : Statement (.cntadd c v) := by
  obtain ⟨w, e, lt, f0, f1, f2, f3, f4⟩ := shape14 0x98200000 19 8 c v rfl (by decide) (by decide)
  exact of_word w (congrArg some e) lt (by simp [Decode.word, Decode.wordPlain, Decode.wordCopy, Decode.zeros, f0, f1, f2, f3, f4])

theorem cntw (c : SReg) (g : SReg) : Statement (.cntw c g) := by
  obtain ⟨w, e, lt, f0, f1, f2, f3, f4⟩ := shape14 0x98240000 19 9 c g rfl (by decide) (by decide)
  exact of_word w (congrArg some e) lt (by simp [Decode.word, Decode.wordPlain, Decode.wordCopy, Decode.zeros, f0, f1, f2, f3, f4])

theorem cntrd (d : SReg) (c : SReg) : Statement (.cntrd d c) := by
  obtain ⟨w, e, lt, f0, f1, f2, f3, f4⟩ := shape14 0x98280000 19 10 d c rfl (by decide) (by decide)
  exact of_word w (congrArg some e) lt (by simp [Decode.word, Decode.wordPlain, Decode.wordCopy, Decode.zeros, f0, f1, f2, f3, f4])

theorem tdef (a : SReg) : Statement (.tdef a) := by
  obtain ⟨w, e, lt, f0, f1, f2, f3, f4⟩ := shape2 0xA0000000 20 0 a rfl (by decide) (by decide)
  exact of_word w (congrArg some e) lt (by simp [Decode.word, Decode.wordPlain, Decode.wordTile, Decode.zeros, f0, f1, f2, f3, f4])

theorem tfill (t : SReg) : Statement (.tfill t) := by
  obtain ⟨w, e, lt, f0, f1, f2, f3, f4⟩ := shape2 0xA0040000 20 1 t rfl (by decide) (by decide)
  exact of_word w (congrArg some e) lt (by simp [Decode.word, Decode.wordPlain, Decode.wordTile, Decode.zeros, f0, f1, f2, f3, f4])

theorem tcommit (t : SReg) : Statement (.tcommit t) := by
  obtain ⟨w, e, lt, f0, f1, f2, f3, f4⟩ := shape2 0xA0080000 20 2 t rfl (by decide) (by decide)
  exact of_word w (congrArg some e) lt (by simp [Decode.word, Decode.wordPlain, Decode.wordTile, Decode.zeros, f0, f1, f2, f3, f4])

theorem tdrain (t : SReg) : Statement (.tdrain t) := by
  obtain ⟨w, e, lt, f0, f1, f2, f3, f4⟩ := shape2 0xA00C0000 20 3 t rfl (by decide) (by decide)
  exact of_word w (congrArg some e) lt (by simp [Decode.word, Decode.wordPlain, Decode.wordTile, Decode.zeros, f0, f1, f2, f3, f4])

theorem trel (t : SReg) : Statement (.trel t) := by
  obtain ⟨w, e, lt, f0, f1, f2, f3, f4⟩ := shape2 0xA0100000 20 4 t rfl (by decide) (by decide)
  exact of_word w (congrArg some e) lt (by simp [Decode.word, Decode.wordPlain, Decode.wordTile, Decode.zeros, f0, f1, f2, f3, f4])

theorem tstate (d : SReg) (t : SReg) : Statement (.tstate d t) := by
  obtain ⟨w, e, lt, f0, f1, f2, f3, f4⟩ := shape14 0xA0140000 20 5 d t rfl (by decide) (by decide)
  exact of_word w (congrArg some e) lt (by simp [Decode.word, Decode.wordPlain, Decode.wordTile, Decode.zeros, f0, f1, f2, f3, f4])

theorem tstAon (t : SReg) (m : SReg) : Statement (.tstAon t m) := by
  obtain ⟨w, e, lt, f0, f1, f2, f3, f4⟩ := shape7 0xA0180000 20 6 t m rfl (by decide) (by decide)
  exact of_word w (congrArg some e) lt (by simp [Decode.word, Decode.wordPlain, Decode.wordTile, Decode.zeros, f0, f1, f2, f3, f4])

theorem tldVer (d : SReg) (t : SReg) (c : SReg) : Statement (.tldVer d t c) := by
  obtain ⟨w, e, lt, f0, f1, f2, f3, f4⟩ := shape13 0xA01C0000 20 7 d t c rfl (by decide) (by decide)
  exact of_word w (congrArg some e) lt (by simp [Decode.word, Decode.wordPlain, Decode.wordTile, f0, f1, f2, f3, f4])

theorem cbdef (b : SReg) (a : SReg) : Statement (.cbdef b a) := by
  obtain ⟨w, e, lt, f0, f1, f2, f3, f4⟩ := shape7 0xA0200000 20 8 b a rfl (by decide) (by decide)
  exact of_word w (congrArg some e) lt (by simp [Decode.word, Decode.wordPlain, Decode.wordTile, Decode.zeros, f0, f1, f2, f3, f4])

theorem cbpush (b : SReg) (n : SReg) : Statement (.cbpush b n) := by
  obtain ⟨w, e, lt, f0, f1, f2, f3, f4⟩ := shape7 0xA0240000 20 9 b n rfl (by decide) (by decide)
  exact of_word w (congrArg some e) lt (by simp [Decode.word, Decode.wordPlain, Decode.wordTile, Decode.zeros, f0, f1, f2, f3, f4])

theorem cbpop (b : SReg) (n : SReg) : Statement (.cbpop b n) := by
  obtain ⟨w, e, lt, f0, f1, f2, f3, f4⟩ := shape7 0xA0280000 20 10 b n rfl (by decide) (by decide)
  exact of_word w (congrArg some e) lt (by simp [Decode.word, Decode.wordPlain, Decode.wordTile, Decode.zeros, f0, f1, f2, f3, f4])

theorem cbwait (b : SReg) (n : SReg) (m : SReg) : Statement (.cbwait b n m) := by
  obtain ⟨w, e, lt, f0, f1, f2, f3, f4⟩ := shape13 0xA02C0000 20 11 b n m rfl (by decide) (by decide)
  exact of_word w (congrArg some e) lt (by simp [Decode.word, Decode.wordPlain, Decode.wordTile, f0, f1, f2, f3, f4])

theorem cbpeek (d : SReg) (b : SReg) (f : SReg) : Statement (.cbpeek d b f) := by
  obtain ⟨w, e, lt, f0, f1, f2, f3, f4⟩ := shape13 0xA0300000 20 12 d b f rfl (by decide) (by decide)
  exact of_word w (congrArg some e) lt (by simp [Decode.word, Decode.wordPlain, Decode.wordTile, f0, f1, f2, f3, f4])

theorem fence (c : Scope) (k : BitVec 4) : Statement (.fence c k) := by
  obtain ⟨w, e, lt, f0, f1, f2, f3, f4, f5⟩ := shape52 0xA8000000 21 0 c k rfl (by decide) (by decide)
  exact of_word w (congrArg some e) lt (by simp [Decode.word, Decode.wordPlain, Decode.wordFence, Decode.zeros, Decode.onScope, scope_code c, f0, f1, f2, f3, f4, f5])

theorem pfence (u : BitVec 6) (d : BitVec 6) : Statement (.pfence u d) := by
  obtain ⟨w, e, lt, f0, f1, f2, f3, f4⟩ := shape53 0xA8040000 21 1 u d rfl (by decide) (by decide)
  exact of_word w (congrArg some e) lt (by simp [Decode.word, Decode.wordPlain, Decode.wordFence, Decode.zeros, f0, f1, f2, f3, f4])

theorem swrel (w : SReg) (g : SReg) : Statement (.swrel w g) := by
  obtain ⟨w, e, lt, f0, f1, f2, f3, f4⟩ := shape7 0xA8080000 21 2 w g rfl (by decide) (by decide)
  exact of_word w (congrArg some e) lt (by simp [Decode.word, Decode.wordPlain, Decode.wordFence, Decode.zeros, f0, f1, f2, f3, f4])

theorem swacq (w : SReg) (g : SReg) : Statement (.swacq w g) := by
  obtain ⟨w, e, lt, f0, f1, f2, f3, f4⟩ := shape7 0xA80C0000 21 3 w g rfl (by decide) (by decide)
  exact of_word w (congrArg some e) lt (by simp [Decode.word, Decode.wordPlain, Decode.wordFence, Decode.zeros, f0, f1, f2, f3, f4])

theorem mfmt (i : Fin 64) (p : Fin 64) (q : Fin 64) (r : SReg) : Statement (.mfmt i p q r) := by
  obtain ⟨w, e, lt, f0, f1, f2, f3, f4, f5⟩ := shape54 0xB0000000 22 0 i p q r rfl (by decide) (by decide)
  exact of_word w (congrArg some e) lt (by simp [Decode.word, Decode.wordPlain, Decode.wordMtx, f0, f1, f2, f3, f4, f5])

theorem wld (i : Fin 64) (p : Fin 64) (q : Fin 64) (r : SReg) : Statement (.wld i p q r) := by
  obtain ⟨w, e, lt, f0, f1, f2, f3, f4, f5⟩ := shape54 0xB1000000 22 1 i p q r rfl (by decide) (by decide)
  exact of_word w (congrArg some e) lt (by simp [Decode.word, Decode.wordPlain, Decode.wordMtx, f0, f1, f2, f3, f4, f5])

theorem mloop (i : Fin 64) (p : Fin 64) (q : Fin 64) (r : SReg) : Statement (.mloop i p q r) := by
  obtain ⟨w, e, lt, f0, f1, f2, f3, f4, f5⟩ := shape54 0xB2000000 22 2 i p q r rfl (by decide) (by decide)
  exact of_word w (congrArg some e) lt (by simp [Decode.word, Decode.wordPlain, Decode.wordMtx, f0, f1, f2, f3, f4, f5])

theorem mzero (i : Fin 64) (p : Fin 64) (q : Fin 64) (r : SReg) : Statement (.mzero i p q r) := by
  obtain ⟨w, e, lt, f0, f1, f2, f3, f4, f5⟩ := shape54 0xB3000000 22 3 i p q r rfl (by decide) (by decide)
  exact of_word w (congrArg some e) lt (by simp [Decode.word, Decode.wordPlain, Decode.wordMtx, f0, f1, f2, f3, f4, f5])

theorem mld (i : Fin 64) (p : Fin 64) (q : Fin 64) (r : SReg) : Statement (.mld i p q r) := by
  obtain ⟨w, e, lt, f0, f1, f2, f3, f4, f5⟩ := shape54 0xB4000000 22 4 i p q r rfl (by decide) (by decide)
  exact of_word w (congrArg some e) lt (by simp [Decode.word, Decode.wordPlain, Decode.wordMtx, f0, f1, f2, f3, f4, f5])

theorem mst (i : Fin 64) (p : Fin 64) (q : Fin 64) (r : SReg) : Statement (.mst i p q r) := by
  obtain ⟨w, e, lt, f0, f1, f2, f3, f4, f5⟩ := shape54 0xB5000000 22 5 i p q r rfl (by decide) (by decide)
  exact of_word w (congrArg some e) lt (by simp [Decode.word, Decode.wordPlain, Decode.wordMtx, f0, f1, f2, f3, f4, f5])

theorem mwait (i : Fin 64) : Statement (.mwait i) := by
  obtain ⟨w, e, lt, f0, f1, f2, f3⟩ := shape55 0xB6000000 22 6 i rfl (by decide) (by decide)
  exact of_word w (congrArg some e) lt (by simp [Decode.word, Decode.wordPlain, Decode.wordMtx, Decode.zeros, f0, f1, f2, f3])

theorem mquery (i : Fin 64) (d : SReg) : Statement (.mquery i d) := by
  obtain ⟨w, e, lt, f0, f1, f2, f3, f4⟩ := shape56 0xB7000000 22 7 i d rfl (by decide) (by decide)
  exact of_word w (congrArg some e) lt (by simp [Decode.word, Decode.wordPlain, Decode.wordMtx, Decode.zeros, f0, f1, f2, f3, f4])

theorem launch (d : SReg) (r : SReg) : Statement (.launch d r) := by
  obtain ⟨w, e, lt, f0, f1, f2, f3, f4⟩ := shape14 0xB8000000 23 0 d r rfl (by decide) (by decide)
  exact of_word w (congrArg some e) lt (by simp [Decode.word, Decode.wordPlain, Decode.wordLnch, Decode.zeros, f0, f1, f2, f3, f4])

theorem lwait (d : SReg) (h : SReg) : Statement (.lwait d h) := by
  obtain ⟨w, e, lt, f0, f1, f2, f3, f4⟩ := shape14 0xB8040000 23 1 d h rfl (by decide) (by decide)
  exact of_word w (congrArg some e) lt (by simp [Decode.word, Decode.wordPlain, Decode.wordLnch, Decode.zeros, f0, f1, f2, f3, f4])

theorem exit : Statement (.exit) := by
  obtain ⟨w, e, lt, f0, f1, f2⟩ := shape0 0xB8080000 23 2 rfl (by decide) (by decide)
  exact of_word w (congrArg some e) lt (by simp [Decode.word, Decode.wordPlain, Decode.wordLnch, Decode.zeros, f0, f1, f2])

theorem dsp (d : SReg) (l : Fin 8) : Statement (.dsp d l) := by
  obtain ⟨w, e, lt, f0, f1, f2, f3, f4, f5⟩ := shape18 0xB80C0000 23 3 d l rfl (by decide) (by decide)
  exact of_word w (congrArg some e) lt (by simp [Decode.word, Decode.wordPlain, Decode.wordLnch, Decode.zeros, f0, f1, f2, f3, f4, f5])

theorem gbind (d : SReg) (g : SReg) (b : SReg) : Statement (.gbind d g b) := by
  obtain ⟨w, e, lt, f0, f1, f2, f3, f4⟩ := shape13 0xB8100000 23 4 d g b rfl (by decide) (by decide)
  exact of_word w (congrArg some e) lt (by simp [Decode.word, Decode.wordPlain, Decode.wordLnch, f0, f1, f2, f3, f4])

theorem gstart (h : SReg) : Statement (.gstart h) := by
  obtain ⟨w, e, lt, f0, f1, f2, f3, f4⟩ := shape2 0xB8140000 23 5 h rfl (by decide) (by decide)
  exact of_word w (congrArg some e) lt (by simp [Decode.word, Decode.wordPlain, Decode.wordLnch, Decode.zeros, f0, f1, f2, f3, f4])

theorem gstop (h : SReg) (m : SReg) : Statement (.gstop h m) := by
  obtain ⟨w, e, lt, f0, f1, f2, f3, f4⟩ := shape7 0xB8180000 23 6 h m rfl (by decide) (by decide)
  exact of_word w (congrArg some e) lt (by simp [Decode.word, Decode.wordPlain, Decode.wordLnch, Decode.zeros, f0, f1, f2, f3, f4])

theorem grebind (d : SReg) (h : SReg) (g : SReg) : Statement (.grebind d h g) := by
  obtain ⟨w, e, lt, f0, f1, f2, f3, f4⟩ := shape13 0xB81C0000 23 7 d h g rfl (by decide) (by decide)
  exact of_word w (congrArg some e) lt (by simp [Decode.word, Decode.wordPlain, Decode.wordLnch, f0, f1, f2, f3, f4])

theorem qput (t : SReg) (q : SReg) : Statement (.qput t q) := by
  obtain ⟨w, e, lt, f0, f1, f2, f3, f4⟩ := shape14 0xB8200000 23 8 t q rfl (by decide) (by decide)
  exact of_word w (congrArg some e) lt (by simp [Decode.word, Decode.wordPlain, Decode.wordLnch, Decode.zeros, f0, f1, f2, f3, f4])

theorem rep (n : Fin 64) (m : BitVec 3) : Statement (.rep n m) := by
  obtain ⟨w, e, lt, f0, f1, f2, f3⟩ := shape57 0xC0000000 24 n m rfl (by decide)
  exact of_word w (congrArg some e) lt (by simp [Decode.word, Decode.wordRep, Decode.zeros, f0, f1, f2, f3])

theorem limm (i : BitVec 27) : Statement (.limm i) := by
  obtain ⟨w, e, lt, f0, f1⟩ := shape58 0xC8000000 25 i rfl (by decide)
  exact of_word w (congrArg some e) lt (by simp [Decode.word, Decode.wordLimm, f0, f1])

theorem gbarUnblock (slot : Nat) (path : Nat) : Statement (.gbarUnblock slot path) := wordless rfl

theorem regroupTimeout (slot : Nat) : Statement (.regroupTimeout slot) := wordless rfl

theorem fusionComplete (keep : Nat) (absorbed : Nat) : Statement (.fusionComplete keep absorbed) := wordless rfl

theorem resultArrival (slot : Nat) (entry : Nat) : Statement (.resultArrival slot entry) := wordless rfl

theorem cntwWake (slot : Nat) (path : Nat) : Statement (.cntwWake slot path) := wordless rfl

theorem cbwaitWake (slot : Nat) (path : Nat) : Statement (.cbwaitWake slot path) := wordless rfl

theorem swacqWake (slot : Nat) (path : Nat) : Statement (.swacqWake slot path) := wordless rfl

theorem lwaitWake (slot : Nat) (path : Nat) : Statement (.lwaitWake slot path) := wordless rfl

theorem mwaitWake (slot : Nat) (path : Nat) : Statement (.mwaitWake slot path) := wordless rfl

theorem tcommitWake (slot : Nat) (path : Nat) : Statement (.tcommitWake slot path) := wordless rfl

theorem trelWake (slot : Nat) (path : Nat) : Statement (.trelWake slot path) := wordless rfl

theorem tstAonOpenWake (slot : Nat) (path : Nat) : Statement (.tstAonOpenWake slot path) := wordless rfl

theorem tstAonCloseWake (slot : Nat) (path : Nat) : Statement (.tstAonCloseWake slot path) := wordless rfl

theorem tldVerWake (slot : Nat) (path : Nat) : Statement (.tldVerWake slot path) := wordless rfl

theorem tileStoreWake (slot : Nat) (path : Nat) : Statement (.tileStoreWake slot path) := wordless rfl

theorem tornBracketClose (core : Nat) (tile : Nat) : Statement (.tornBracketClose core tile) := wordless rfl

theorem launchWaitWake (slot : Nat) (path : Nat) : Statement (.launchWaitWake slot path) := wordless rfl

theorem qputWaitWake (slot : Nat) (path : Nat) : Statement (.qputWaitWake slot path) := wordless rfl

theorem mtxPostWake (slot : Nat) (path : Nat) : Statement (.mtxPostWake slot path) := wordless rfl

theorem gbindAnswer (slot : Nat) (path : Nat) : Statement (.gbindAnswer slot path) := wordless rfl

theorem gstopWaitWake (slot : Nat) (path : Nat) : Statement (.gstopWaitWake slot path) := wordless rfl

theorem matrixCommandIssue (quad : Nat) (index : Nat) : Statement (.matrixCommandIssue quad index) := wordless rfl

theorem mloopStep (quad : Nat) : Statement (.mloopStep quad) := wordless rfl

theorem wldImage (quad : Nat) : Statement (.wldImage quad) := wordless rfl

theorem mstRow (quad : Nat) : Statement (.mstRow quad) := wordless rfl

theorem mldTransfer (quad : Nat) : Statement (.mldTransfer quad) := wordless rfl

theorem matrixOperandAbandon (quad : Nat) (index : Nat) : Statement (.matrixOperandAbandon quad index) := wordless rfl

theorem copyLineOperation (index : Nat) : Statement (.copyLineOperation index) := wordless rfl

theorem tileCopyLine (index : Nat) : Statement (.tileCopyLine index) := wordless rfl

theorem czPack (index : Nat) : Statement (.czPack index) := wordless rfl

theorem czExpandCheck (index : Nat) : Statement (.czExpandCheck index) := wordless rfl

theorem czExpandLine (index : Nat) (line : Nat) : Statement (.czExpandLine index line) := wordless rfl

theorem atomicRequestAccept (cluster : Nat) : Statement (.atomicRequestAccept cluster) := wordless rfl

theorem hotStoreFill (cluster : Nat) (line : Nat) : Statement (.hotStoreFill cluster line) := wordless rfl

theorem pageWalkFill (cluster : Nat) (walk : Nat) : Statement (.pageWalkFill cluster walk) := wordless rfl

theorem eccReadRetry (read : EccRead) : Statement (.eccReadRetry read) := wordless rfl

theorem cacheLineExpiry (core : Nat) (index : Nat) : Statement (.cacheLineExpiry core index) := wordless rfl

theorem remoteLineExpiry (core : Nat) (index : Nat) : Statement (.remoteLineExpiry core index) := wordless rfl

theorem bandwidthWindow (channel : Nat) : Statement (.bandwidthWindow channel) := wordless rfl

theorem leaseBoundary (die : Nat) : Statement (.leaseBoundary die) := wordless rfl

theorem logReplay (slot : Nat) (entry : Nat) : Statement (.logReplay slot entry) := wordless rfl

theorem faultRecordWrite (part : Nat) : Statement (.faultRecordWrite part) := wordless rfl

theorem launchQueueDoorbell (part : Nat) (queue : Nat) (tail : Word) : Statement (.launchQueueDoorbell part queue tail) := wordless rfl

theorem queueRecordSkip (part : Nat) (queue : Nat) : Statement (.queueRecordSkip part queue) := wordless rfl

theorem queueRecordLaunch (part : Nat) (queue : Nat) : Statement (.queueRecordLaunch part queue) := wordless rfl

theorem queueRecordTemplate (part : Nat) (queue : Nat) : Statement (.queueRecordTemplate part queue) := wordless rfl

theorem queueRecordTaskQueue (part : Nat) (queue : Nat) : Statement (.queueRecordTaskQueue part queue) := wordless rfl

theorem bindStart (slot : Nat) (record : BindRecord) : Statement (.bindStart slot record) := wordless rfl

theorem bindRestore (slot : Nat) (record : BindRecord) : Statement (.bindRestore slot record) := wordless rfl

theorem bindPreempt (slot : Nat) (record : BindRecord) : Statement (.bindPreempt slot record) := wordless rfl

theorem bindInvalid (slot : Nat) (record : BindRecord) : Statement (.bindInvalid slot record) := wordless rfl

theorem preemptAtBoundary (slot : Nat) : Statement (.preemptAtBoundary slot) := wordless rfl

theorem boundarySave (slot : Nat) : Statement (.boundarySave slot) := wordless rfl

theorem resultRedirect (slot : Nat) : Statement (.resultRedirect slot) := wordless rfl

theorem saveComplete (slot : Nat) : Statement (.saveComplete slot) := wordless rfl

theorem restoreComplete (slot : Nat) : Statement (.restoreComplete slot) := wordless rfl

theorem drainReport (core : Nat) (launch : Word) : Statement (.drainReport core launch) := wordless rfl

theorem launchCompletion (launch : Word) : Statement (.launchCompletion launch) := wordless rfl

theorem deadlineWorkExpiry (slot : Nat) : Statement (.deadlineWorkExpiry slot) := wordless rfl

theorem taskDispatch (part : Nat) (queue : Nat) : Statement (.taskDispatch part queue) := wordless rfl

theorem graphFiringStart (part : Nat) (handle : Word) : Statement (.graphFiringStart part handle) := wordless rfl

theorem graphFiringEnd (part : Nat) (handle : Word) (stage : Nat) : Statement (.graphFiringEnd part handle stage) := wordless rfl

theorem graphAllowExpiry (part : Nat) (handle : Word) (stage : Nat) : Statement (.graphAllowExpiry part handle stage) := wordless rfl

theorem faultDoorbellReplay (part : Nat) (seq : Word) : Statement (.faultDoorbellReplay part seq) := wordless rfl

theorem faultDoorbellDeliver (part : Nat) (seq : Word) : Statement (.faultDoorbellDeliver part seq) := wordless rfl

theorem faultDoorbellKill (part : Nat) (seq : Word) : Statement (.faultDoorbellKill part seq) := wordless rfl

theorem faultDoorbellIgnore (part : Nat) (seq : Word) : Statement (.faultDoorbellIgnore part seq) := wordless rfl

theorem create (page : Nat) (choice : KilnChoice) : Statement (.create page choice) := wordless rfl

theorem createInitDone (part : Nat) : Statement (.createInitDone part) := wordless rfl

theorem destroy (page : Nat) : Statement (.destroy page) := wordless rfl

theorem update (page : Nat) : Statement (.update page) := wordless rfl

theorem shootdown (page : Nat) : Statement (.shootdown page) := wordless rfl

theorem shootdownAck (index : Nat) : Statement (.shootdownAck index) := wordless rfl

theorem propose (page : Nat) : Statement (.propose page) := wordless rfl

theorem accept (page : Nat) (choice : KilnChoice) : Statement (.accept page choice) := wordless rfl

theorem close (page : Nat) : Statement (.close page) := wordless rfl

theorem attest (page : Nat) : Statement (.attest page) := wordless rfl

theorem life (page : Nat) : Statement (.life page) := wordless rfl

theorem kilnBadOp (page : Nat) : Statement (.kilnBadOp page) := wordless rfl

theorem loadCodeObject (request : LoadRequest) : Statement (.loadCodeObject request) := wordless rfl

theorem hostMemoryRead (part : Nat) (addr : Nat) (size : Nat) : Statement (.hostMemoryRead part addr size) := wordless rfl

theorem hostMemoryWrite (part : Nat) (addr : Nat) (data : List Byte) : Statement (.hostMemoryWrite part addr data) := wordless rfl

theorem registerWrite (offset : Nat) (data : List Byte) : Statement (.registerWrite offset data) := wordless rfl

theorem powerLimitSet (value : Word) : Statement (.powerLimitSet value) := wordless rfl

theorem warmReset : Statement (.warmReset) := wordless rfl

theorem coldReset : Statement (.coldReset) := wordless rfl

theorem devsetLock (value : Word) : Statement (.devsetLock value) := wordless rfl

theorem isoWrite (entry : Nat) (value : Word) : Statement (.isoWrite entry value) := wordless rfl

theorem collectiveSlotConsume (part : Nat) : Statement (.collectiveSlotConsume part) := wordless rfl

theorem collectiveComplete (index : Nat) : Statement (.collectiveComplete index) := wordless rfl

theorem collectiveTimeout (index : Nat) : Statement (.collectiveTimeout index) := wordless rfl

theorem remoteRequest (index : Nat) : Statement (.remoteRequest index) := wordless rfl

theorem remoteAck (index : Nat) : Statement (.remoteAck index) := wordless rfl

theorem flitReceive (port : Nat) (good : Bool) : Statement (.flitReceive port good) := wordless rfl

theorem portSilenceTimeout (port : Nat) : Statement (.portSilenceTimeout port) := wordless rfl

theorem idleFlitTimer (port : Nat) : Statement (.idleFlitTimer port) := wordless rfl

theorem powerEstimateWindow (watts : Nat) : Statement (.powerEstimateWindow watts) := wordless rfl

theorem idleTimeout : Statement (.idleTimeout) := wordless rfl

theorem thermalAlarm : Statement (.thermalAlarm) := wordless rfl

theorem thermalTrip : Statement (.thermalTrip) := wordless rfl

theorem illegalInstructionWord (w : Word) : Statement (.illegalInstructionWord w) := wordless rfl

theorem arithmeticClock : Statement (.arithmeticClock) := wordless rfl

theorem mzeroMfmtRetire (quad : Nat) : Statement (.mzeroMfmtRetire quad) := wordless rfl

theorem thermalStateEnd : Statement (.thermalStateEnd) := wordless rfl

theorem portUp (port : Nat) : Statement (.portUp port) := wordless rfl

end Sys2Proof.Laws.RoundTrip
end

