-- ==== Sys2Proof/Machine/Glaze.lean ====
section
/-!
DEFINITION. What Glaze keeps in a bulk channel (R443 to R446): counter blocks and tags of lines, and the nodes of the counter tree. State
holds the counters and the versions; the bytes below follow from them, and `State.tampered` says where memory holds others.
-/
namespace Sys2Proof.Machine

/-! ## Places (R349, R443) -/

/-- Offset of a line's data, of a block's metadata unit, and of the tag of a line in a channel (R443). -/
def lineOffset (n : Nat) : Nat := 128 * n
def unitOffset (block : Nat) : Nat := 0x5A000000 + 512 * block
def tagOffset (n : Nat) : Nat := unitOffset (n / 64) + 64 + 7 * (n % 64)

/-- The partition that holds a channel, and its channel groups. -/
def channelOwner (s : State) (ch : Nat) : Option (Nat × List Nat) :=
  (List.find? (fun e : Nat × Partition => e.2.groups.contains (ch / 8)) s.parts).map fun e => (e.1, e.2.groups)

/-- The physical address of a line of a channel: `glazeLine` takes it back. -/
def linePa (s : State) (ch n : Nat) : Nat :=
  let lines := Config.bulkChannelData / 128
  match channelOwner s ch with
  | none => Config.bulkBase + Config.bulkChannelBytes * ch + 128 * n
  | some (_, gs) =>
    let i := n * (8 * gs.length) + 8 * gs.idxOf (ch / 8) + ch % 8
    Config.bulkBase + Config.bulkChannelBytes * (8 * gs.getD (i / lines / 8) 0 + i / lines % 8) + 128 * (i % lines)

/-! ## Counters (R443, R445, R446) -/

/-- A counter block or a node as its 64 bytes: MAJOR, then the 7-bit MINORs. -/
def CounterBlock.bytes (c : CounterBlock) : List Byte :=
  leBytes 64 (c.major % 2 ^ 57 + (List.range 64).foldl (fun n k => n + c.minor.getD k 0 % 128 * 2 ^ (64 + 7 * k)) 0)

/-- The counter of a child: MAJOR × 128 + MINOR. -/
def CounterBlock.count (c : CounterBlock) (k : Nat) : Nat := 128 * c.major + c.minor.getD k 0

/-- The counter block of a channel's block. -/
def counterBlock (s : State) (ch block : Nat) : CounterBlock := s.glaze.getD (2 ^ 18 * ch + block) CounterBlock.zero

/-- A node of a channel's tree: level 1, 2, or 3 for the root. -/
def treeNode (s : State) (level ch idx : Nat) : CounterBlock := s.glazeTree.getD (2 ^ 40 * level + 2 ^ 18 * ch + idx) CounterBlock.zero

/-- The counter of a line, and the version of a counter block (level 0) or of a node, which its parent holds. -/
def lineCounter (s : State) (ch n : Nat) : Nat := (counterBlock s ch (n / 64)).count (n % 64)
def version (s : State) (level ch idx : Nat) : Nat := (treeNode s (level + 1) ch (idx / 64)).count (idx % 64)

/-! ## Ciphertext and tags (R444, R446) -/

def beBytes (n v : Nat) : List Byte := (leBytes n v).reverse

/-- The IV of a line: its identity and its counter, both big-endian (R444). -/
def lineIv (ch n counter : Nat) : List Byte := beBytes 4 (2 ^ 24 * ch + n) ++ beBytes 8 counter

/-- The numbers of the data key and the metadata key of a partition (R442); a window's line has the window's data key (R448). -/
def dataKey (s : State) (ch pa : Nat) : Nat :=
  match List.find? (fun e : Nat × Window => (e.2.working ++ e.2.published).contains (pa / pageBytes * pageBytes)) s.windows with
  | some e => (s.keys.getD (128 + e.1) (0, 0)).1
  | none => (s.keys.getD (((channelOwner s ch).map Prod.fst).getD 0) (0, 0)).1
def metadataKey (s : State) (ch : Nat) : Nat := (s.keys.getD (((channelOwner s ch).map Prod.fst).getD 0) (0, 0)).2

/-- The plaintext of a line. -/
def plainLine (s : State) (ch n : Nat) : List Byte := s.mem.bytes (linePa s ch n) 128

/-- Its ciphertext, and the first 56 bits of its tag; a line that has never been written has zeros. -/
def cipherLine (s : State) (ch n : Nat) : List Byte :=
  if everWritten s ch n then Config.gcmCipher (dataKey s ch (linePa s ch n)) (lineIv ch n (lineCounter s ch n)) (plainLine s ch n)
  else List.replicate 128 0
def lineTag (s : State) (ch n : Nat) : Nat :=
  if everWritten s ch n then
    Config.gcmTag (dataKey s ch (linePa s ch n)) (lineIv ch n (lineCounter s ch n)) (plainLine s ch n) % 2 ^ 56
  else 0

/-- The metadata unit of a block: the counter block, then the tags of its 64 lines (R443). -/
def metadataUnit (s : State) (ch block : Nat) : List Byte :=
  (counterBlock s ch block).bytes ++ (List.range 64).flatMap fun k => leBytes 7 (lineTag s ch (64 * block + k))

/-- The IV of a counter block or a node: from its level, channel, index and version (R446, log 6). -/
def nodeIv (level ch idx v : Nat) : List Byte := beBytes 4 (2 ^ 28 * level + 2 ^ 20 * ch + idx) ++ beBytes 8 v

/-- The tag of a counter block (level 0) or of a non-root node: the GMAC of its 64 bytes (R446). -/
def nodeTag (s : State) (level ch idx : Nat) : Nat :=
  Config.gcmTag (metadataKey s ch) (nodeIv level ch idx (version s level ch idx))
    (if level = 0 then (counterBlock s ch idx).bytes else (treeNode s level ch idx).bytes) % 2 ^ 56

end Sys2Proof.Machine
end

