-- ==== Sys2Proof/Machine/Slip.lean ====
section
/-!
DEFINITION. What a slipcode body does, thread by thread (R120, R121), and what its translation promises (R123). The machine runs the
native words that the loader has placed (R119); they are the translator's, free but for the promises, which `TranslationKeeps` states
(log 53).
-/
namespace Sys2Proof.Machine

/-! ## Native operations on one thread -/

/-- A value with its type: an i32 or f32 in the low word, or an f64. -/
structure SlipValue where
  typ  : ValType
  bits : DWord
  deriving DecidableEq, Repr

/-- The ET code of a value type (R155). -/
def slipET (t : ValType) : Nat := if t = 2 then 8 else if t = 3 then 9 else 4

/-- A band of one thread that holds three values in v0, v2 and v4, with an ET, RM = rne, SAT = 0 and SUB = 0 (R123). -/
def slipBand (et : Nat) (d a b : DWord) : Band :=
  let put (t : Tab Word) (r : Nat) (x : DWord) : Tab Word := (t.put (96 * r) (x.extractLsb' 0 32)).put (96 * (r + 1)) (x.extractLsb' 32 32)
  { fetchBand with mr := w32 et, vregs := put (put (put [] 0 d) 2 a) 4 b }

/-- The band after the native instruction of a word. -/
def slipNativeUnit (et : Nat) (w : Nat) (d a b : DWord) : Option Band :=
  match decodePlain w with
  | .error _ => none
  | .ok i => match exec i { State.reset with bands := [(0, slipBand et d a b)] } with
    | .next t => some t.band
    | .fault _ | .refused _ => none

/-- What it leaves in v0, as a value of a type. -/
def slipResult (t : ValType) (b : Band) : SlipValue :=
  let lo := b.vregs.getD 0 0
  { typ := t, bits := if t = 3 then b.vregs.getD 96 0 ++ lo else lo.zeroExtend 64 }

/-- The word of a value operation: the operands lie in v2 and v4, the third of vfma, vfms and vfnma and the dividend of vdiv in v0 (R121). -/
def slipWord (op n : Nat) : Nat :=
  let b := if n = 1 then 0 else 4
  if op < 0x50 then 0x30000000 + (op - 0x20) * 2 ^ 21 + 2 * 2 ^ 7 + b
  else if op < 0x68 then 0x40000000 + (op - 0x50) * 2 ^ 21 + 2 * 2 ^ 7 + b
  else 0x48000000 + (op - 0x68) * 2 ^ 18 + 2 * 2 ^ 4

/-- A value operation on its operands, first to last as they were pushed: the bits that its native instruction gives (R123). -/
def slipOperate (op : Nat) (xs : List SlipValue) : Option SlipValue :=
  let x (k : Nat) : DWord := ((xs[k]?).map SlipValue.bits).getD 0
  let t := ((xs.head?).map SlipValue.typ).getD 1
  let out := if op = 0x5F then 1 else t
  let r := if op = 0x6B then slipNativeUnit (slipET t) (slipWord op 2) (x 0) (x 1) 0
    else slipNativeUnit (slipET t) (slipWord op xs.length) (x 2) (x 0) (x 1)
  r.map (slipResult out)

/-- A compare (R79): 1 or 0, by the native compare into p0. -/
def slipCompare (op : Nat) (a b : SlipValue) : Option SlipValue :=
  let kind := if op < 0x88 then 0 else if op < 0x90 then 1 else 2
  let w := 0x60000000 + kind * 2 ^ 24 + op % 8 * 2 ^ 21 + 2 * 2 ^ 7 + 4
  (slipNativeUnit (slipET a.typ) w 0 a.bits b.bits).map fun r => { typ := 1, bits := if (r.pred 0).getLsbD 0 then 1 else 0 }

/-- A conversion: vcvt, vcvti or vcvtf under the MR of the destination type (R123). -/
def slipConvert (src dst : ValType) (x : SlipValue) : Option SlipValue :=
  let fn := if (src = 1) = (dst = 1) then 0 else if dst = 1 then 2 else 3
  (slipNativeUnit (slipET dst) (0x50000000 + fn * 2 ^ 21 + 2 * 2 ^ 7 + slipET src) 0 x.bits 0).map (slipResult dst)

/-! ## A thread in a body -/

/-- A block that the thread is in: whether it is a loop, whether it has a result, the height of the stack at its entry, and the code
after its opening. -/
structure SlipBlock where
  loop   : Bool
  result : Bool
  height : Nat
  start  : List Byte
  deriving DecidableEq, Repr

/-- A thread: the code that is left, the stack (top first), the locals, and the blocks, innermost first. -/
structure SlipThread where
  rest   : List Byte
  stack  : List SlipValue
  locals : List SlipValue
  blocks : List SlipBlock
  deriving DecidableEq, Repr

/-- How a thread leaves its body: it exits, takes `trap 0`, or an access faults; `stuck` is no outcome of a body that the
verifier has passed (R122). -/
inductive SlipEnd where
  | exits
  | trap0
  | faults (f : FaultAt)
  | stuck
  deriving DecidableEq, Repr

/-- What a thread meets: its TID, and the values of the object's symbols, with which the loader has its body translated. -/
structure SlipEnv where
  tid     : Word
  symbols : List Nat
  deriving DecidableEq, Repr

/-- Locals start at zero (R120). -/
def slipLocals (body : List Byte) : List SlipValue :=
  (List.range (leAt body 4 2)).map fun k => { typ := leAt body (8 + k) 1, bits := 0 }

/-- A thread at the start of a body. The body is itself a block. -/
def slipEnter (body : List Byte) : SlipThread :=
  let code := body.drop (8 + leAt body 4 2)
  { rest := code, stack := [], locals := slipLocals body, blocks := [{ loop := false, result := false, height := 0, start := code }] }

/-- A signed LEB128 constant, as an i32. -/
def slipConst (bs : List Byte) : Option (Nat × List Byte) :=
  (uleb 10 bs).map fun r =>
    let n := bs.length - r.2.length
    ((wrapInt r.1 true (7 * n) % 2 ^ 32).toNat, r.2)

/-- The code after the immediates of an opcode (R121). -/
def slipImmediates (op : Nat) (bs : List Byte) : Option (List Byte) :=
  if [0x02, 0x03, 0x04].contains op then some (bs.drop 1)
  else if op = 0x15 then some (bs.drop 4)
  else if op = 0x16 then some (bs.drop 8)
  else if op = 0x78 then some (bs.drop 2)
  else if op = 0x18 || op = 0x19 then (uleb 10 (bs.drop 1)).map Prod.snd
  else if [0x07, 0x08, 0x10, 0x11, 0x12, 0x14, 0x1A, 0x1B].contains op then (uleb 10 bs).map Prod.snd
  else some bs

/-- The code after the end that closes `nest` blocks more than the innermost, or after an else of the innermost if that is asked for;
with whether it was the else. The fuel is the bytes. -/
def slipSkip : Nat → Nat → Bool → List Byte → Option (Bool × List Byte)
  | 0, _, _, _ | _ + 1, _, _, [] => none
  | n + 1, nest, orElse, b :: bs =>
    let op := b.toNat
    if op = 0x06 then (if nest = 0 then some (false, bs) else slipSkip n (nest - 1) orElse bs)
    else if op = 0x05 && nest = 0 && orElse then some (true, bs)
    else (slipImmediates op bs).bind fun rest => slipSkip n (if [0x02, 0x03, 0x04].contains op then nest + 1 else nest) orElse rest

/-- The stack with only what a block found on it. -/
def SlipThread.down (t : SlipThread) (h : Nat) : List SlipValue := t.stack.drop (t.stack.length - h)

/-- A branch out of d blocks: back to the start of a loop, or past the end of another block with its result. -/
def slipBranch (d : Nat) (t : SlipThread) : Except SlipEnd SlipThread :=
  match t.blocks[d]? with
  | none => .error .stuck
  | some b =>
    if b.loop then .ok { t with rest := b.start, stack := t.down b.height, blocks := t.blocks.drop d }
    else match slipSkip (t.rest.length + 1) d false t.rest with
    | none => .error .stuck
    | some (_, rest) =>
      if d + 1 = t.blocks.length then .error .exits
      else .ok { t with rest := rest, stack := t.stack.take (if b.result then 1 else 0) ++ t.down b.height, blocks := t.blocks.drop (d + 1) }

/-- Opens a block after its type byte. -/
def slipOpen (loop : Bool) (t : SlipThread) : SlipThread :=
  let rest := t.rest.drop 1
  { t with rest := rest, blocks := { loop := loop, result := (t.rest.headD 0) ≠ 0, height := t.stack.length, start := rest } :: t.blocks }

/-- An if whose condition is zero goes on after its else, or after its end. -/
def slipElse (t : SlipThread) : Except SlipEnd SlipThread :=
  match slipSkip (t.rest.length + 1) 0 true t.rest with
  | none => .error .stuck
  | some (true, rest) => .ok { t with rest := rest }
  | some (false, rest) => .ok { t with rest := rest, blocks := t.blocks.drop 1 }

def slipPop (t : SlipThread) (k : SlipValue → SlipThread → Except SlipEnd (SlipThread × State)) : Except SlipEnd (SlipThread × State) :=
  match t.stack with
  | [] => .error .stuck
  | x :: xs => k x { t with stack := xs }

def slipPush (x : SlipValue) (t : SlipThread) (s : State) : Except SlipEnd (SlipThread × State) := .ok ({ t with stack := x :: t.stack }, s)

/-- A value of an i32. -/
def slipI32 (w : Nat) : SlipValue := { typ := 1, bits := BitVec.ofNat 64 (w % 2 ^ 32) }

/-- A plain load of a word by the band of `cur`. -/
def slipLoad (a : Nat) (t : SlipThread) (s : State) : Except SlipEnd (SlipThread × State) :=
  let u := s.issuer 0
  match access s u a (.read 4) false with
  | .error f => .error (.faults f)
  | .ok (l, ord) => slipPush (slipI32 (leNat (readAt s u l ord 4))) t s

/-- A plain store of a word. -/
def slipStore (a : Nat) (x : SlipValue) (t : SlipThread) (s : State) : Except SlipEnd (SlipThread × State) :=
  let u := s.issuer 0
  match access s u a (.write 4) false with
  | .error f => .error (.faults f)
  | .ok (l, ord) => .ok (t, writeAt s u s.me l (leBytes 4 x.bits.toNat) ord)

/-- The symbol of an immediate plus 4 times an index, which counts as signed (log 53). -/
def slipAddress (e : SlipEnv) (sym : Nat) (index : SlipValue) : Nat := ea (e.symbols.getD sym 0) (4 * wrapInt index.bits.toNat true 32)

/-- The opcodes with one number after them. -/
def slipNumbered (e : SlipEnv) (op n : Nat) (t : SlipThread) (s : State) : Except SlipEnd (SlipThread × State) :=
  match op with
  | 0x07 => (slipBranch n t).map fun t => (t, s)
  | 0x08 => slipPop t fun c t => if c.bits = 0 then .ok (t, s) else (slipBranch n t).map fun t => (t, s)
  | 0x10 => match t.locals[n]? with
    | none => .error .stuck
    | some x => slipPush x t s
  | 0x11 => slipPop t fun x t => .ok ({ t with locals := t.locals.set n x }, s)
  | 0x12 => match t.stack with
    | [] => .error .stuck
    | x :: _ => .ok ({ t with locals := t.locals.set n x }, s)
  | 0x1A => slipPop t fun i t => slipLoad (slipAddress e n i) t s
  | _ => slipPop t fun x t => slipPop t fun i t => slipStore (slipAddress e n i) x t s

/-- A frame access (R190). -/
def slipFrameOp (op level off : Nat) (t : SlipThread) (s : State) : Except SlipEnd (SlipThread × State) :=
  match lexical s level off (op = 0x19) with
  | .error f => .error (.faults f)
  | .ok a => if op = 0x18 then slipLoad a t s else slipPop t fun x t => slipStore a x t s

/-- Takes n operands, first to last as they were pushed, and pushes what is made of them. -/
def slipApply (n : Nat) (f : List SlipValue → Option SlipValue) (t : SlipThread) (s : State) : Except SlipEnd (SlipThread × State) :=
  if t.stack.length < n then .error .stuck
  else match f (t.stack.take n).reverse with
    | none => .error .stuck
    | some x => slipPush x { t with stack := t.stack.drop n } s

/-- The opcodes without immediates that take values. -/
def slipValues (op : Nat) (t : SlipThread) (s : State) : Except SlipEnd (SlipThread × State) :=
  if 0x80 ≤ op then slipApply 2 (fun xs => match xs with | [a, b] => slipCompare op a b | _ => none) t s
  else if 0x68 ≤ op then slipApply (if op = 0x6B then 2 else 1) (slipOperate op) t s
  else match (if 0x50 ≤ op then slipFloat (op - 0x50) else slipInt (op - 0x20)) with
    | none => .error .stuck
    | some n => slipApply n (slipOperate op) t s

/-- One opcode of a thread of the band of `cur` (R121). The end of the body is its exit (log 53). -/
def slipRunStep (e : SlipEnv) (t : SlipThread) (s : State) : Except SlipEnd (SlipThread × State) :=
  match t.rest with
  | [] => .error .stuck
  | b :: rest =>
    let op := b.toNat
    let t := { t with rest := rest }
    match op with
    | 0x00 => .error .trap0
    | 0x01 => .ok (t, s)
    | 0x02 => .ok (slipOpen false t, s)
    | 0x03 => .ok (slipOpen true t, s)
    | 0x04 => slipPop t fun c t =>
        if c.bits = 0 then (slipElse (slipOpen false t)).map fun t => (t, s) else .ok (slipOpen false t, s)
    | 0x05 => match slipSkip (rest.length + 1) 0 false rest with
      | none => .error .stuck
      | some (_, r) => .ok ({ t with rest := r, blocks := t.blocks.drop 1 }, s)
    | 0x06 => if t.blocks.length ≤ 1 then .error .exits else .ok ({ t with blocks := t.blocks.drop 1 }, s)
    | 0x09 => .error .exits
    | 0x13 => slipPop t fun _ t => .ok (t, s)
    | 0x14 => match slipConst rest with
      | none => .error .stuck
      | some (x, r) => slipPush (slipI32 x) { t with rest := r } s
    | 0x15 => slipPush { typ := 2, bits := BitVec.ofNat 64 (leAt rest 0 4) } { t with rest := rest.drop 4 } s
    | 0x16 => slipPush { typ := 3, bits := BitVec.ofNat 64 (leAt rest 0 8) } { t with rest := rest.drop 8 } s
    | 0x17 => slipPop t fun c t => slipPop t fun b t => slipPop t fun a t => slipPush (if c.bits = 0 then b else a) t s
    | 0x1C => slipPush (slipI32 e.tid.toNat) t s
    | 0x78 => slipApply 1 (fun xs => (xs.head?).bind fun x => slipConvert (leAt rest 0 1) (leAt rest 1 1) x) { t with rest := rest.drop 2 } s
    | _ =>
      if op = 0x18 || op = 0x19 then match uleb 10 (rest.drop 1) with
        | none => .error .stuck
        | some (o, r) => slipFrameOp op (leAt rest 0 1) o { t with rest := r } s
      else if [0x07, 0x08, 0x10, 0x11, 0x12, 0x1A, 0x1B].contains op then match uleb 10 rest with
        | none => .error .stuck
        | some (n, r) => slipNumbered e op n { t with rest := r } s
      else slipValues op t s

/-- Up to n opcodes of a thread, to its end and the state there; none where it has not come to its end. -/
def slipRun (e : SlipEnv) : Nat → SlipThread → State → Option (SlipEnd × State)
  | 0, _, _ => none
  | n + 1, t, s => match slipRunStep e t s with
    | .error x => some (x, s)
    | .ok (t, s) => slipRun e n t s

/-! ## What a translation promises (R123) -/

/-- Clocks and issues of a machine that nothing else acts on. -/
def runAlone : Nat → State → Option State
  | 0, s => some s
  | n + 1, s => match clockTurn s with
    | .next t => runAlone n t
    | .fault _ | .refused _ => none

/-- A band alone stands at the first of some native words with the threads of some lanes, and nothing is under way. -/
structure AtNative (s : State) (ws : List Word) (lanes : Lanes) : Prop where
  alone   : s.bands.map Prod.fst = [s.cur]
  runs    : (s.slot s.cur).state = 1 ∧ (s.slot s.cur).preq = false
  threads : s.band.occ = lanes ∧ s.band.mask = lanes ∧ s.band.inTrap = false ∧ s.band.valid = [s.band.ix]
  quiet   : s.band.results = [] ∧ s.band.olog = [] ∧ s.band.board = [] ∧ s.remotes = [] ∧ allRequests s = [] ∧ s.agenda = []
  words   : ∀ k w, ws[k]? = some w → fetchWord s (s.band.pc + BitVec.ofNat 48 (4 * k)) = .ok w
  handler : (s.part s.band.part).handler ≠ 0

/-- The memory and the scratchpads of two states are the same. -/
def sameBytes (s t : State) : Prop := s.mem = t.mem ∧ s.spad = t.spad ∧ s.rmem = t.rmem

/-- The opcodes of some code, in order. The fuel is the bytes. -/
def slipOpcodes : Nat → List Byte → List Nat
  | 0, _ | _ + 1, [] => []
  | n + 1, b :: bs => b.toNat :: ((slipImmediates b.toNat bs).map (slipOpcodes n)).getD []

/-- Some word of a list is a form. -/
def hasForm (ws : List Word) (p : Instr → Bool) : Bool :=
  ws.any fun w => match decodePlain w.toNat with | .ok i => p i | .error _ => false

/-- A machine that nothing else acts on comes, in order, to the bytes of each of some states. -/
def follows : State → List State → Prop
  | _, [] => True
  | u, t :: ts => ∃ n v, runAlone n u = some v ∧ sameBytes v t ∧ follows v ts

/-- The states after each of up to n opcodes of a thread, and its end; none where it has not come to its end. -/
def slipTrace (e : SlipEnv) : Nat → SlipThread → State → Option (List State × SlipEnd)
  | 0, _, _ => none
  | n + 1, t, s => match slipRunStep e t s with
    | .error x => some ([s], x)
    | .ok (t, s) => (slipTrace e n t s).map fun r => (s :: r.1, r.2)

/-- Threads of several lanes that run one opcode each in the order of a list of lanes: the threads that are left, and the state;
none where one takes a trap or a fault. -/
def slipLanes (env : Nat → SlipEnv) : List Nat → Tab SlipThread → State → Option (Tab SlipThread × State)
  | [], ts, s => some (ts, s)
  | l :: ls, ts, s => match ts.find? l with
    | none => none
    | some t => match slipRunStep (env l) t s with
      | .error .exits => slipLanes env ls (ts.del l) s
      | .error _ => none
      | .ok (t, s) => slipLanes env ls (ts.put l t) s

/-- How the machine shows the end of a thread: the band is gone; its handler has the trap or the fault; or the log holds the
instruction of a translation fault, which is replayed (R409). -/
def showsEnd (s u : State) : SlipEnd → Prop
  | .exits => ∃ m v, runAlone m u = some v ∧ v.bands.find? s.cur = none
  | .trap0 => u.band.inTrap = true ∧ u.band.tcause = 0x10000
  | .faults f => if isTranslation f.code then (u.band.olog.any fun e => e.2.wait && e.2.code = f.code) = true
      else u.band.inTrap = true ∧ u.band.tcause.toNat % 2 ^ 16 = f.code
  | .stuck => True

/-- The promises of a translation (R123), for a body with the level, the allocation and the symbol values that the loader gives it.
A thread that runs alone, its locals zero at its start (R120), leaves in memory what its opcodes leave, in program order, and comes
to the same end. A band of several threads leaves what its threads leave in some order of their opcodes. A body with an if or a
br_if is translated to PBR and RCV. That one body has one translation is in the type. -/
structure SlipPromise (native : List Byte → Nat → Nat → List Nat → List Word) : Prop where
  thread : ∀ (body : List Byte) (rf fuel : Nat) (symbols : List Nat) (s : State) (ts : List State) (x : SlipEnd),
    AtNative s (native body s.band.level rf symbols) 1 →
    slipTrace { tid := s.band.tids.getD 0 0, symbols := symbols } fuel (slipEnter body) s = some (ts, x) →
    follows s ts ∧ ∃ n u, runAlone n s = some u ∧ (∃ t, ts.getLast? = some t ∧ sameBytes u t) ∧ showsEnd s u x
  band : ∀ (body : List Byte) (rf n : Nat) (symbols : List Nat) (lanes : Lanes) (s u : State),
    AtNative s (native body s.band.level rf symbols) lanes →
    runAlone n s = some u → u.bands.find? s.cur = none →
    (∀ k v, k ≤ n → runAlone k s = some v → v.band.inTrap = false) →
    ∃ order t, sameBytes u t ∧
      slipLanes (fun l => { tid := s.band.tids.getD l 0, symbols := symbols }) order
        ((laneList lanes).map fun l => (l, slipEnter body)) s = some ([], t)
  diverge : ∀ (body : List Byte) (level rf : Nat) (symbols : List Nat),
    (slipOpcodes body.length (slipEnter body).rest).any (fun op => op = 0x04 || op = 0x08) = true →
    hasForm (native body level rf symbols) (fun i => match i with | .pbr _ _ _ => true | _ => false) = true
      ∧ hasForm (native body level rf symbols) (fun i => match i with | .rcv => true | _ => false) = true

/-- What the spec promises of the translator that the loader has (R123): a claim about a slipcode body takes it as a premise. -/
def TranslationKeeps : Prop := SlipPromise Config.slipNative

end Sys2Proof.Machine
end

