-- ==== Sys2Proof/Tests/Slice0.lean ====
section
/-!
SUPPORT. The model's own tests: ill-formed instructions, words with what they decode to, results from the spec's tables, and
for each statement with hypotheses a state and operands that meet them.
-/
set_option Elab.async false

open Sys2Proof Sys2Proof.Machine

namespace Sys2Proof.Tests

/-- The machine with one band of one lane in slot 0, whose tensor heap maps the first 2 MiB to themselves (log 1). -/
def here (b : Band) : State := { State.reset.withFetchWord 32 0 with bands := [(0, b)] }

/-- That band with scalar registers. -/
def withS (rs : Tab Word) : Band := { fetchBand with sregs := rs }

def isOk {ε α : Type} : Except ε α → Bool
  | .ok _ => true
  | .error _ => false

theorem ok_of {ε α : Type} {x : Except ε α} (h : isOk x = true) : ∃ p, x = .ok p := by
  cases x with
  | ok p => exact ⟨p, rfl⟩
  | error e => cases h

theorem reach_of {s : State} {u : Issuer} {m : Lanes} {k : Want} {a : Bool} {ea : Nat → Nat}
    (h : ((laneList m).all fun l => isOk (access s u (ea l) k a)) = true) : Claims.lanesReach s u m k a ea :=
  fun l hl => ok_of (List.all_eq_true.mp h l hl)

theorem some_of {α : Type} {x : Option α} {p : α → Bool} (h : x.any p = true) : ∃ y, x = some y ∧ p y = true := by
  cases x with
  | none => cases h
  | some y => exact ⟨y, rfl, h⟩

theorem elements_reach {s : State} {b : Band} {r : Stream} {k : Want}
    (h : ((laneList b.enabled).all fun l => !(r.rcd.inRange (r.pos + l)) || isOk (Claims.elementAt s (s.issuer 3) r.rcd (r.pos + l) k))
      = true) : Claims.elementsReach s b r k := fun l hl hr => by
  have := List.all_eq_true.mp h l hl
  rw [hr] at this
  exact ok_of (by simpa using this)

/-! ## Well-formed instructions

One ill-formed instruction for each check of `Instr.wf`, which refuses it. -/

def blankBind : BindRecord :=
  { lnchid := 0, bid := 0, ctx := 0, save := 0, v := true, pre := false, unit := 0, rf := 0, cls := 0, role := 0, owner := 0, work := 0 }
def blankChoice : KilnChoice := { root2 := 0, entries := [], window := 0 }
def blankLoad : LoadRequest := { part := 1, addr := 0, size := 0, text := 0, rodata := 0, data := 0 }

theorem test_ill_formed_words_a : ∀ i ∈ [
    Instr.mfsr 4 8, .mtsr 4 0, .mtsr 4 8, .rwp 0 17, .rwp 4 0, .rwp 62 9, .caps 4 256, .vcmp .un 4 .set 1 2,
    .vcmpn .un 4 .set 1 2, .vcvt 1 2 11, .vcvti 1 2 11, .vcvtf 1 2 11, .vcvtef 3 2 3, .fla 0 5 0, .spat 5 0, .stx 127 4 0,
    .stx 4 5 0, .cpy4 5 6 8, .cpy4 4 7 8, .cpy4 4 6 9, .cpy8 5 6 8, .cpy8 4 7 8, .cpy8 4 6 9, .cpy16 5 6 8, .cpy16 4 7 8,
    .cpy16 4 6 9, .cpt 4 7 8, .cpt 4 6 9, .cpz 5 8, .cpz 4 9, .cntadd 5 4, .cntw 5 4, .cntw 4 5, .cntrd 5 4, .cntrd 4 5, .tdef 5,
    .cbdef 4 5, .fence .core 0, .pfence 0 1, .pfence 1 0, .swrel 5 4, .swacq 5 4, .mfmt 63 0 0 4, .mzero 63 0 0 4, .wld 63 0 0 4,
    .wld 1 0 0 5, .wld 1 0 0 58, .mloop 63 0 0 4, .mloop 1 0 0 58, .mld 63 0 0 4, .mld 1 0 0 5, .mld 1 0 0 62, .mst 63 0 0 4,
    .mst 1 0 0 5, .mst 1 0 0 60, .mquery 1 63, .launch 4 5, .launch 4 58, .dsp 5 0, .qput 63 4], i.wf = false := by decide

theorem test_ill_formed_words_b : ∀ i ∈ [
    Instr.ldb 0 1 5 0, .ldbs 0 1 5 0, .ldh 0 1 5 0, .ldhs 0 1 5 0, .ldw 0 1 5 0, .ldx 0 1 5 0, .ldwAcq 0 1 5 .core, .lds 0 2 5 0,
    .ldsAcq 0 2 5 .core, .sts none 2 5 0, .stb none 2 5 0, .sth none 2 5 0, .stw none 2 5 0, .ldd 0 3 4 0, .ldd 0 2 5 0,
    .std none 3 4 0, .std none 2 5 0, .lddAcq 0 3 4 .core, .lddAcq 0 2 5 .core, .ldq 0 2 4 0, .ldq 0 4 5 0, .stq none 2 4 0,
    .stq none 4 5 0, .aadd 0 127 4 0, .aadd 0 2 5 0, .aaddNr none 127 4 0, .aaddNr none 2 5 0, .amin 0 127 4 0, .amin 0 2 5 0,
    .aminNr none 127 4 0, .aminNr none 2 5 0, .amax 0 127 4 0, .amax 0 2 5 0, .amaxNr none 127 4 0, .amaxNr none 2 5 0,
    .aminn 0 127 4 0, .aminn 0 2 5 0, .aminnNr none 127 4 0, .aminnNr none 2 5 0, .amaxn 0 127 4 0, .amaxn 0 2 5 0,
    .amaxnNr none 127 4 0, .amaxnNr none 2 5 0, .aand 0 127 4 0, .aand 0 2 5 0, .aandNr none 127 4 0, .aandNr none 2 5 0,
    .aor 0 127 4 0, .aor 0 2 5 0, .aorNr none 127 4 0, .aorNr none 2 5 0, .axor 0 127 4 0, .axor 0 2 5 0, .axorNr none 127 4 0,
    .axorNr none 2 5 0, .axchg 0 127 4 0, .axchg 0 2 5 0, .axchgNr none 127 4 0, .axchgNr none 2 5 0, .acas 0 126 4 0,
    .acas 0 2 5 0, .acasNr none 126 4 0, .acasNr none 2 5 0, .ainc 0 127 4 0, .ainc 0 2 5 0, .aincNr none 127 4 0,
    .aincNr none 2 5 0, .afadd 0 127 4 0, .afadd 0 2 5 0, .afaddNr none 127 4 0, .afaddNr none 2 5 0], i.wf = false := by decide

theorem test_ill_formed_steps_a : ∀ i ∈ [
    Instr.gbarUnblock 4096 0, .gbarUnblock 0 8, .regroupTimeout 4096, .fusionComplete 4096 0, .fusionComplete 0 4096,
    .resultArrival 4096 0, .resultArrival 0 8, .cntwWake 4096 0, .cntwWake 0 8, .cbwaitWake 4096 0, .cbwaitWake 0 8,
    .swacqWake 4096 0, .swacqWake 0 8, .lwaitWake 4096 0, .lwaitWake 0 8, .mwaitWake 4096 0, .mwaitWake 0 8, .tcommitWake 4096 0,
    .tcommitWake 0 8, .trelWake 4096 0, .trelWake 0 8, .tstAonOpenWake 4096 0, .tstAonOpenWake 0 8, .tstAonCloseWake 4096 0,
    .tstAonCloseWake 0 8, .tldVerWake 4096 0, .tldVerWake 0 8, .tileStoreWake 4096 0, .tileStoreWake 0 8, .tornBracketClose 128 0,
    .tornBracketClose 0 1024, .launchWaitWake 4096 0, .launchWaitWake 0 8, .qputWaitWake 4096 0, .qputWaitWake 0 8,
    .mtxPostWake 4096 0, .mtxPostWake 0 8, .gbindAnswer 4096 0, .gbindAnswer 0 8, .gstopWaitWake 4096 0, .gstopWaitWake 0 8,
    .matrixCommandIssue 512 0, .mloopStep 512, .wldImage 512, .mstRow 512, .mldTransfer 512, .matrixOperandAbandon 512 0,
    .atomicRequestAccept 16, .hotStoreFill 16 0, .pageWalkFill 16 0, .pageWalkFill 0 16, .cacheLineExpiry 128 0,
    .remoteLineExpiry 128 0, .bandwidthWindow 256, .leaseBoundary 2, .logReplay 4096 0, .logReplay 0 4, .faultRecordWrite 0,
    .faultRecordWrite 128, .launchQueueDoorbell 0 0 0], i.wf = false := by decide

theorem test_ill_formed_steps_b : ∀ i ∈ [
    Instr.launchQueueDoorbell 128 0 0, .launchQueueDoorbell 1 32 0, .queueRecordSkip 0 0, .queueRecordSkip 128 0,
    .queueRecordSkip 1 32, .queueRecordLaunch 0 0, .queueRecordLaunch 128 0, .queueRecordLaunch 1 32, .queueRecordTemplate 0 0,
    .queueRecordTemplate 128 0, .queueRecordTemplate 1 32, .queueRecordTaskQueue 0 0, .queueRecordTaskQueue 128 0,
    .queueRecordTaskQueue 1 32, .bindStart 4096 blankBind, .bindRestore 4096 blankBind, .bindPreempt 4096 blankBind,
    .bindInvalid 4096 blankBind, .preemptAtBoundary 4096, .boundarySave 4096, .resultRedirect 4096, .saveComplete 4096,
    .restoreComplete 4096, .drainReport 128 0, .deadlineWorkExpiry 4096, .taskDispatch 0 0, .taskDispatch 128 0,
    .taskDispatch 1 64, .graphFiringStart 0 0, .graphFiringStart 128 0, .graphFiringEnd 0 0 0, .graphFiringEnd 128 0 0,
    .graphFiringEnd 1 0 32, .graphAllowExpiry 0 0 0, .graphAllowExpiry 128 0 0, .graphAllowExpiry 1 0 32,
    .faultDoorbellReplay 128 0, .faultDoorbellDeliver 128 0, .faultDoorbellKill 128 0, .faultDoorbellIgnore 128 0,
    .create 128 blankChoice, .createInitDone 0, .createInitDone 128, .destroy 128, .update 128, .shootdown 128, .propose 128,
    .accept 128 blankChoice, .close 128, .attest 128, .life 128, .kilnBadOp 128, .loadCodeObject { blankLoad with part := 128 },
    .hostMemoryRead 128 0 0, .hostMemoryWrite 128 0 [], .registerWrite (2 ^ 21) [], .isoWrite 64 0, .collectiveSlotConsume 0,
    .collectiveSlotConsume 128, .flitReceive 24 true], i.wf = false := by decide

theorem test_ill_formed_steps_c : ∀ i ∈ [
    Instr.portSilenceTimeout 24, .idleFlitTimer 24, .mzeroMfmtRetire 512, .portUp 24], i.wf = false := by decide

/-! ## Words

For every instruction with a word, one word written out from the fields of its row of the opcode table: it decodes to the
instruction, and the instruction is encoded as it. The groups are those of bits 31 to 27. -/

theorem test_words_00 : ∀ e ∈ [
    (0x00000000, Instr.nop), (0x000409F8, .trap 2552), (0x00080000, .tret), (0x000C0100, .mode 4), (0x0011065F, .modei 524 95),
    (0x00143180, .fmtset 3 6), (0x00184100, .fmtget 4 4), (0x001C40C3, .mfsr 4 195), (0x002040C3, .mtsr 4 195),
    (0x00240108, .rwp 4 8), (0x00280F15, .brk 3861), (0x002C4064, .caps 4 100)],
    decode? e.1 = some e.2 ∧ encode e.2 = some e.1 ∧ e.2.wf = true := by decide

theorem test_words_01 : ∀ e ∈ [
    (0x0802F5A8, Instr.br 193960), (0x09129BAF, .bz 4 170927), (0x0A13B076, .bnz 4 241782), (0x0B121EC3, .bneg 4 138947),
    (0x0C101DB4, .bnneg 4 7604), (0x0D035C85, .call 220293), (0x0E31DCCD, .pbr true 4 122061), (0x0F100000, .jr 4),
    (0x0F108000, .jl 4), (0x0F010000, .ret)],
    decode? e.1 = some e.2 ∧ encode e.2 = some e.1 ∧ e.2.wf = true := by decide

theorem test_words_02 : ∀ e ∈ [
    (0x10004188, Instr.add 4 6 8), (0x10044188, .sub 4 6 8), (0x10084188, .mul24 4 6 8), (0x100C4188, .mul 4 6 8),
    (0x10104188, .mulh 4 6 8), (0x10144188, .mulhn 4 6 8), (0x10204188, .and 4 6 8), (0x10244188, .or 4 6 8),
    (0x10284188, .xor 4 6 8), (0x102C4188, .andn 4 6 8), (0x10304188, .orn 4 6 8), (0x10404188, .sll 4 6 8),
    (0x10444188, .srl 4 6 8), (0x10484188, .sra 4 6 8), (0x104C4188, .rol 4 6 8), (0x10504188, .ror 4 6 8),
    (0x10604188, .min 4 6 8), (0x10644188, .max 4 6 8), (0x10684188, .minn 4 6 8), (0x106C4188, .maxn 4 6 8),
    (0x10804188, .slt 4 6 8), (0x10844188, .sltn 4 6 8), (0x10884188, .eq 4 6 8), (0x10A04180, .popc 4 6), (0x10A44180, .clz 4 6),
    (0x10A84180, .ctz 4 6), (0x10AC4180, .brev 4 6), (0x10B04180, .bswap 4 6), (0x10C04180, .sxb 4 6), (0x10C44180, .sxh 4 6),
    (0x10C84180, .zxb 4 6), (0x10CC4180, .zxh 4 6)],
    decode? e.1 = some e.2 ∧ encode e.2 = some e.1 ∧ e.2.wf = true := by decide

theorem test_words_03 : ∀ e ∈ [
    (0x18106C6B, Instr.addi 4 6 3179), (0x19106F18, .andi 4 6 3864), (0x1A1063FD, .ori 4 6 1021), (0x1B106A63, .xori 4 6 2659),
    (0x1C1060D5, .slti 4 6 213), (0x1D106E6B, .sltni 4 6 3691), (0x1E106006, .slli 4 6 6), (0x1E106404, .srli 4 6 4),
    (0x1E10680C, .srai 4 6 12), (0x1E106C10, .rori 4 6 16), (0x1F106DE6, .muli 4 6 3558)],
    decode? e.1 = some e.2 ∧ encode e.2 = some e.1 ∧ e.2.wf = true := by decide

theorem test_words_04 : ∀ e ∈ [
    (0x2083F1F7, Instr.sli 4 258551), (0x20961796, .slu 4 399254)],
    decode? e.1 = some e.2 ∧ encode e.2 = some e.1 ∧ e.2.wf = true := by decide

theorem test_words_05 : ∀ e ∈ [
    (0x28000100, Instr.join 4), (0x28040000, .leave), (0x28080000, .gbar), (0x280C0000, .regroup), (0x28100000, .rcv),
    (0x28204100, .voteAny 4 4), (0x28244100, .voteAll 4 4), (0x28284100, .voteCnt 4 4), (0x282C3100, .voteBal 3 4),
    (0x28408800, .lid 17), (0x28448800, .tid 17), (0x28484000, .bid 4)],
    decode? e.1 = some e.2 ∧ encode e.2 = some e.1 ∧ e.2.wf = true := by decide

theorem test_words_06 : ∀ e ∈ [
    (0x30045144, Instr.vadd 17 34 68), (0x30245144, .vsub 17 34 68), (0x30445144, .vmul24 17 34 68),
    (0x30645144, .vmul32 17 34 68), (0x30845144, .vmulh32 17 34 68), (0x30A45144, .vmulhn32 17 34 68),
    (0x31045144, .vand 17 34 68), (0x31245144, .vor 17 34 68), (0x31445144, .vxor 17 34 68), (0x31645144, .vandn 17 34 68),
    (0x32045144, .vsll 17 34 68), (0x32245144, .vsrl 17 34 68), (0x32445144, .vsra 17 34 68), (0x32645144, .vrol 17 34 68),
    (0x33045144, .vmin 17 34 68), (0x33245144, .vmax 17 34 68), (0x33445144, .vabsd 17 34 68), (0x34045100, .vpopc 17 34),
    (0x34245100, .vclz 17 34), (0x34445100, .vctz 17 34), (0x34645100, .vbrev 17 34), (0x35045144, .vsel 17 34 68),
    (0x35245100, .vmov 17 34)],
    decode? e.1 = some e.2 ∧ encode e.2 = some e.1 ∧ e.2.wf = true := by decide

theorem test_words_07 : ∀ e ∈ [
    (0x38114517, Instr.vaddi 17 34 279), (0x38914435, .vmuli24 17 34 53), (0x39114526, .vandi 17 34 294),
    (0x39914480, .vori 17 34 128), (0x3A114407, .vxori 17 34 7), (0x3A914418, .vslli 17 34 24), (0x3B114407, .vsrli 17 34 7),
    (0x3B91440E, .vsrai 17 34 14), (0x3C114490, .vmini 17 34 144), (0x3C91445E, .vmaxi 17 34 94), (0x3D1101D6, .vmovi 17 470)],
    decode? e.1 = some e.2 ∧ encode e.2 = some e.1 ∧ e.2.wf = true := by decide

theorem test_words_08 : ∀ e ∈ [
    (0x40045144, Instr.vfadd 17 34 68), (0x40245144, .vfsub 17 34 68), (0x40445144, .vfmul 17 34 68),
    (0x40645144, .vfma 17 34 68), (0x40845144, .vfms 17 34 68), (0x40A45144, .vfnma 17 34 68), (0x41045144, .vfmin 17 34 68),
    (0x41245144, .vfmax 17 34 68), (0x41845100, .vfabs 17 34), (0x41A45100, .vfneg 17 34), (0x41C45144, .vfcpys 17 34 68),
    (0x41E45100, .vfclass 17 34), (0x42045100, .vfrnd 17 34)],
    decode? e.1 = some e.2 ∧ encode e.2 = some e.1 ∧ e.2.wf = true := by decide

theorem test_words_09 : ∀ e ∈ [
    (0x4A811440, Instr.vrcp 5 34 68), (0x4A851440, .vrsq 5 34 68), (0x4A891440, .vsqrt 5 34 68), (0x4A8D1440, .vdiv 5 34 68),
    (0x4A911440, .vexp2 5 34 68), (0x4A951440, .vlog2 5 34 68), (0x4A991440, .vsin 5 34 68), (0x4A9D1440, .vcos 5 34 68),
    (0x4AA11440, .vtanh 5 34 68)],
    decode? e.1 = some e.2 ∧ encode e.2 = some e.1 ∧ e.2.wf = true := by decide

theorem test_words_10 : ∀ e ∈ [
    (0x50045103, Instr.vcvt 17 34 3), (0x50245144, .vcvtef 17 34 68), (0x50445109, .vcvti 17 34 9), (0x50645107, .vcvtf 17 34 7),
    (0x50845144, .vpk 17 34 68), (0x50A45101, .vupk 17 34 1), (0x50C45144, .vscale 17 34 68)],
    decode? e.1 = some e.2 ∧ encode e.2 = some e.1 ∧ e.2.wf = true := by decide

theorem test_words_11 : ∀ e ∈ [
    (0x58044300, Instr.vbs 17 6), (0x58211108, .vrd 4 34 8), (0x58444308, .vwr 17 6 8), (0x58645144, .vshfl 17 34 68),
    (0x58845144, .vshfx 17 34 68), (0x58A45108, .vrot 17 34 8), (0x59011100, .vredadd 4 34), (0x59211100, .vredmin 4 34),
    (0x59411100, .vredmax 4 34), (0x59611108, .vredminx 4 34 8), (0x59811108, .vredmaxx 4 34 8), (0x59A45100, .vscan 17 34),
    (0x59C11100, .vredand 4 34), (0x59E11100, .vredor 4 34), (0x5A011100, .vredxor 4 34)],
    decode? e.1 = some e.2 ∧ encode e.2 = some e.1 ∧ e.2.wf = true := by decide

theorem test_words_12 : ∀ e ∈ [
    (0x6050AD11, Instr.vcmp .lt 4 .or 90 17), (0x6150AD11, .vcmpn .lt 4 .or 90 17), (0x6250AD11, .vfcmp .lt 4 .or 90 17),
    (0x6350AD11, .vfcmpn .lt 4 .or 90 17)],
    decode? e.1 = some e.2 ∧ encode e.2 = some e.1 ∧ e.2.wf = true := by decide

theorem test_words_13 : ∀ e ∈ [
    (0x6A822231, Instr.ldb 5 34 8 49), (0x6A8A2234, .ldbs 5 34 8 52), (0x6A922205, .ldh 5 34 8 5), (0x6A9A2209, .ldhs 5 34 8 9),
    (0x6AA22228, .ldw 5 34 8 40), (0x6AAA2228, .ldd 5 34 8 40), (0x6AB4421D, .ldq 5 68 8 29), (0x6AB86209, .lds 5 6 8 9),
    (0x6AC22209, .ldx 5 34 8 9), (0x6AE22220, .ldwAcq 5 34 8 .cluster), (0x6AEA2220, .lddAcq 5 34 8 .cluster),
    (0x6AF06220, .ldsAcq 5 6 8 .cluster)],
    decode? e.1 = some e.2 ∧ encode e.2 = some e.1 ∧ e.2.wf = true := by decide

theorem test_words_14 : ∀ e ∈ [
    (0x76822201, Instr.stb (some .device) 34 8 1), (0x7692223F, .sth (some .device) 34 8 63),
    (0x76A22238, .stw (some .device) 34 8 56), (0x76AA2201, .std (some .device) 34 8 1),
    (0x76B4420E, .stq (some .device) 68 8 14), (0x76B86232, .sts (some .device) 6 8 50), (0x7041118E, .stx 17 6 14)],
    decode? e.1 = some e.2 ∧ encode e.2 = some e.1 ∧ e.2.wf = true := by decide

theorem test_words_15 : ∀ e ∈ [
    (0x7AA237D6, Instr.fld 5 2 8 14294)],
    decode? e.1 = some e.2 ∧ encode e.2 = some e.1 ∧ e.2.wf = true := by decide

theorem test_words_16 : ∀ e ∈ [
    (0x86A21284, Instr.fst (some .device) 2 8 4740)],
    decode? e.1 = some e.2 ∧ encode e.2 = some e.1 ∧ e.2.wf = true := by decide

theorem test_words_17 : ∀ e ∈ [
    (0x88000041, Instr.spat 4 1), (0x8A851003, .sld 5 34 3), (0x88080113, .sst 17 3), (0x880C0003, .sreset 3)],
    decode? e.1 = some e.2 ∧ encode e.2 = some e.1 ∧ e.2.wf = true := by decide

theorem test_words_18 : ∀ e ∈ [
    (0x92822207, Instr.aadd 5 34 8 7), (0x96822226, .aaddNr (some .device) 34 8 6), (0x928A221F, .amin 5 34 8 31),
    (0x968A223F, .aminNr (some .device) 34 8 31), (0x92922217, .amax 5 34 8 23), (0x96922227, .amaxNr (some .device) 34 8 7),
    (0x929A221F, .aminn 5 34 8 31), (0x969A223F, .aminnNr (some .device) 34 8 31), (0x92A2221D, .amaxn 5 34 8 29),
    (0x96A2222D, .amaxnNr (some .device) 34 8 13), (0x92AA220A, .aand 5 34 8 10), (0x96AA2221, .aandNr (some .device) 34 8 1),
    (0x92B2220C, .aor 5 34 8 12), (0x96B2222E, .aorNr (some .device) 34 8 14), (0x92BA2206, .axor 5 34 8 6),
    (0x96BA223E, .axorNr (some .device) 34 8 30), (0x92C22205, .axchg 5 34 8 5), (0x96C22229, .axchgNr (some .device) 34 8 9),
    (0x92CA2203, .acas 5 34 8 3), (0x96CA222B, .acasNr (some .device) 34 8 11), (0x92D2220A, .ainc 5 34 8 10),
    (0x96D2223B, .aincNr (some .device) 34 8 27), (0x92DA2214, .afadd 5 34 8 20), (0x96DA2233, .afaddNr (some .device) 34 8 19)],
    decode? e.1 = some e.2 ∧ encode e.2 = some e.1 ∧ e.2.wf = true := by decide

theorem test_words_19 : ∀ e ∈ [
    (0x98004188, Instr.cpy4 4 6 8), (0x98044188, .cpy8 4 6 8), (0x98084188, .cpy16 4 6 8), (0x98104188, .cpt 4 6 8),
    (0x98144180, .cpz 4 6), (0x98204180, .cntadd 4 6), (0x98244180, .cntw 4 6), (0x98284180, .cntrd 4 6)],
    decode? e.1 = some e.2 ∧ encode e.2 = some e.1 ∧ e.2.wf = true := by decide

theorem test_words_20 : ∀ e ∈ [
    (0xA0000100, Instr.tdef 4), (0xA0040100, .tfill 4), (0xA0080100, .tcommit 4), (0xA00C0100, .tdrain 4), (0xA0100100, .trel 4),
    (0xA0144180, .tstate 4 6), (0xA0180106, .tstAon 4 6), (0xA01C4188, .tldVer 4 6 8), (0xA0200106, .cbdef 4 6),
    (0xA0240106, .cbpush 4 6), (0xA0280106, .cbpop 4 6), (0xA02C4188, .cbwait 4 6 8), (0xA0304188, .cbpeek 4 6 8)],
    decode? e.1 = some e.2 ∧ encode e.2 = some e.1 ∧ e.2.wf = true := by decide

theorem test_words_21 : ∀ e ∈ [
    (0xA8000101, Instr.fence .cluster 1), (0xA80409EC, .pfence 39 44), (0xA8080106, .swrel 4 6), (0xA80C0106, .swacq 4 6)],
    decode? e.1 = some e.2 ∧ encode e.2 = some e.1 ∧ e.2.wf = true := by decide

theorem test_words_22 : ∀ e ∈ [
    (0xB0B9614C, Instr.mfmt 46 22 5 12), (0xB1517D4C, .wld 20 23 53 12), (0xB251FB4C, .mloop 20 31 45 12),
    (0xB354C7CC, .mzero 21 12 31 12), (0xB47EE30C, .mld 31 46 12 12), (0xB5111FCC, .mst 4 17 63 12), (0xB6F40000, .mwait 61),
    (0xB7080006, .mquery 2 6)],
    decode? e.1 = some e.2 ∧ encode e.2 = some e.1 ∧ e.2.wf = true := by decide

theorem test_words_23 : ∀ e ∈ [
    (0xB8004180, Instr.launch 4 6), (0xB8044180, .lwait 4 6), (0xB8080000, .exit), (0xB80C4180, .dsp 4 6),
    (0xB8104188, .gbind 4 6 8), (0xB8140100, .gstart 4), (0xB8180106, .gstop 4 6), (0xB81C4188, .grebind 4 6 8),
    (0xB8204180, .qput 4 6)],
    decode? e.1 = some e.2 ∧ encode e.2 = some e.1 ∧ e.2.wf = true := by decide

theorem test_words_24 : ∀ e ∈ [
    (0xC2FC0000, Instr.rep 23 7)],
    decode? e.1 = some e.2 ∧ encode e.2 = some e.1 ∧ e.2.wf = true := by decide

theorem test_words_25 : ∀ e ∈ [
    (0xCB3BFE8A, Instr.limm 54263434)],
    decode? e.1 = some e.2 ∧ encode e.2 = some e.1 ∧ e.2.wf = true := by decide

theorem test_words_26 : ∀ e ∈ [
    (0xD031BD89, Instr.fla 3 6 15753)],
    decode? e.1 = some e.2 ∧ encode e.2 = some e.1 ∧ e.2.wf = true := by decide
/-- The same machine with bytes in memory. -/
def hereM (b : Band) (a : Nat) (bs : List Byte) : State := { here b with mem := (here b).mem.setBytes a bs }

/-- The band with another MR. -/
def withMR (m : Word) : Band := { fetchBand with mr := m }

/-! ## Witnesses: states and operands that meet the hypotheses of the statements, clause by clause -/

theorem witness_ScalarRegisterForms : (here fetchBand).holds fetchBand
    ∧ ((Instr.add 60 2 3).wf = true ∧ ∃ e, Claims.salu fetchBand (.add 60 2 3) = some e)
    ∧ ((Instr.addi 0 2 5).wf = true ∧ ∃ e, Claims.salui fetchBand (.addi 0 2 5) = some e) :=
  ⟨rfl, ⟨rfl, _, rfl⟩, rfl, _, rfl⟩

theorem witness_VectorIntegerForms : (here fetchBand).holds fetchBand
    ∧ ((Instr.vadd 1 2 31).wf = true ∧ ∃ e, Claims.valu fetchBand (.vadd 1 2 31) = some e ∧ e.legal = true)
    ∧ ((Instr.vmovi 1 5).wf = true ∧ ∃ e, Claims.valui fetchBand (.vmovi 1 5) = some e ∧ e.legal = true) :=
  ⟨rfl, ⟨rfl, _, rfl, rfl⟩, rfl, _, rfl, rfl⟩

theorem witness_VectorFloatForms : (here (withMR 8)).holds (withMR 8)
    ∧ ((Instr.vfma 1 2 3).wf = true ∧ ∃ e, Claims.vfp (withMR 8) (.vfma 1 2 3) = some e ∧ e.legal = true)
    ∧ ((Instr.vcvtf 1 2 4).wf = true ∧ ∃ e, Claims.vcvt (withMR 8) (.vcvtf 1 2 4) = some e ∧ e.legal = true) :=
  ⟨rfl, ⟨rfl, _, rfl, rfl⟩, rfl, _, rfl, rfl⟩

theorem witness_SpecialFunctions : (here (withMR 9)).holds (withMR 9)
    ∧ ((Instr.vrcp 15 2 4).wf = true ∧ ∃ la e, Claims.vsf (withMR 9) (.vrcp 15 2 4) = some (la, e) ∧ e.legal = true)
    ∧ Claims.specialValue .nan (.zero true) (.vrcp 0 1 2) = some (.inf true) :=
  ⟨rfl, ⟨rfl, _, _, rfl, rfl⟩, rfl⟩

theorem witness_LaneAndReductionForms : (here fetchBand).holds fetchBand
    ∧ ((Instr.vrd 1 2 3).wf = true ∧ ∃ e, Claims.vlane fetchBand (.vrd 1 2 3) = some e ∧ e.legal = true)
    ∧ ((Instr.vredadd 1 2).wf = true ∧ ∃ e, Claims.vred fetchBand (.vredadd 1 2) = some e ∧ e.legal = true)
    ∧ ((Instr.vredminx 1 2 3).wf = true ∧ ∃ e, Claims.vredx fetchBand (.vredminx 1 2 3) = some e ∧ e.legal = true) :=
  ⟨rfl, ⟨rfl, _, rfl, rfl⟩, ⟨rfl, _, rfl, rfl⟩, rfl, _, rfl, rfl⟩

theorem witness_Compares : (here fetchBand).holds fetchBand ∧ (Instr.vcmp .ge 7 .xor 1 2).wf = true
    ∧ ∃ e, Claims.vcmp fetchBand (.vcmp .ge 7 .xor 1 2) = some e ∧ e.legal = true := ⟨rfl, rfl, _, rfl, rfl⟩

theorem witness_QueryForms : (here fetchBand).holds fetchBand ∧ (Instr.caps 1 255).wf = true
    ∧ ∃ e, Claims.query (here fetchBand) fetchBand (.caps 1 255) = some e ∧ e.legal = true := ⟨rfl, rfl, _, rfl, rfl⟩

theorem witness_IllegalOperandsTrap : (here (withMR 8)).holds (withMR 8)
    ∧ ∃ e, Claims.valu (withMR 8) (.vadd 1 2 3) = some e ∧ ((Instr.vadd 1 2 3).wf && e.legal) = false := ⟨rfl, _, rfl, rfl⟩

theorem witness_LaneLoads : let b := withS [(4, 0x2000)]
    (here b).holds b ∧ (Instr.ldwAcq 3 1 4 .device).wf = true
    ∧ ∃ x, Claims.laneLoad b (.ldwAcq 3 1 4 .device) = some x ∧ b.vregs? x.reg x.regs = true
      ∧ Claims.address b x.pair = some 0x2000
      ∧ Claims.lanesReach (Claims.acquired (here b) x.scope ((laneList b.enabled).map (x.ea 0x2000))) ((here b).issuer 0) b.enabled
          (.read x.size) false (x.ea 0x2000) :=
  ⟨rfl, rfl, _, rfl, rfl, rfl, reach_of (by decide)⟩

theorem witness_UniformLoads : let b := withS [(4, 0x1FFFFC)]
    (here b).holds b ∧ (Instr.lds 0 2 4 0).wf = true
    ∧ (∃ la d a c f p, Claims.uniformLoad (here b) b (.lds 0 2 4 0) = some (la, d, some a, c, f)
      ∧ access (Claims.acquired (here b) c [a]) ((here b).issuer 0) a (.read 4) false = .ok p)
    ∧ (let f : Band := { b with disp := [(0, 0x3000)] }
      let s := hereM f (headerOf 0x3000 + 12) [1]
      s.holds f ∧ (Instr.fla 0 2 15).wf = true ∧ Claims.lexicalAt s f 0 15 = some 0x303C) :=
  ⟨rfl, rfl, ⟨_, _, _, _, _, _, rfl, rfl⟩, rfl, rfl, by decide +kernel⟩

theorem witness_PlainStores : let b := withS [(4, 0x1FFE80)]
    (here b).holds b
    ∧ ((Instr.stw none 1 4 0).wf = true ∧ ∃ x, Claims.laneStore b (.stw none 1 4 0) = some x ∧ b.vregs? x.reg x.regs = true
      ∧ Claims.address b x.pair = some 0x1FFE80
      ∧ Claims.lanesReach (here b) ((here b).issuer 0) b.enabled (.write x.size) false (x.ea 0x1FFE80)
      ∧ ∀ w ∈ Claims.laneWrites (here b) b x 0x1FFE80, busyLoc (here b) x.size w.1 = false)
    ∧ ((Instr.sts none 2 4 0).wf = true ∧ ∃ a v p, Claims.uniformStore (here b) b (.sts none 2 4 0) = some (some a, v)
      ∧ access (here b) ((here b).issuer 0) a (.write 4) false = .ok p ∧ busyLoc (here b) 4 p.1 = false) :=
  ⟨rfl, ⟨rfl, _, rfl, rfl, rfl, reach_of (by decide), by decide⟩, rfl, _, _, _, rfl, rfl, rfl⟩

/-- A stream of a row of n words, and its record. -/
def rowOf (n : Nat) : StreamRec :=
  { base := 0x2000, ibase := 0, n := [n, 1, 1, 1], lim := [0, 0, 0, 0], st := [4, 0, 0, 0], esz := 2, sx := false, ind := false
    bnd := false, ilvl := 0 }
def rowBytes (n : Nat) : List Byte :=
  leBytes 8 0x2000 ++ leBytes 8 0 ++ leBytes 2 n ++ leBytes 2 1 ++ leBytes 2 1 ++ leBytes 2 1 ++ leBytes 8 0 ++ leBytes 4 4
    ++ leBytes 12 0 ++ leBytes 1 2 ++ leBytes 15 0

theorem witness_Streams :
    (let b := withS [(4, 0x2000)]
      let s := hereM b 0x2000 (rowBytes 96)
      s.holds b ∧ (Instr.spat 4 3).wf = true ∧ Claims.address b 4 = some 0x2000
      ∧ ∃ p, access s (s.issuer 3) (0x2000 % 2 ^ 48) (.read 64) false = .ok p
        ∧ streamRecord (readAt s (s.issuer 3) p.1 p.2 64) = some (rowOf 96))
    ∧ (let r : Stream := { rcd := rowOf 97, pos := 96 }
      let b : Band := { fetchBand with streams := [(3, r)] }
      (here b).holds b ∧ b.streams.find? 3 = some r
      ∧ ((Instr.sld 1 2 3).wf = true ∧ b.vregs? 2 (if r.rcd.esz = 3 then 2 else 1) = true
        ∧ Claims.elementsReach (here b) b r (.read (2 ^ r.rcd.esz)))
      ∧ (Instr.sst 2 3).wf = true ∧ Claims.elementsReach (here b) b r (.write (2 ^ r.rcd.esz))
      ∧ ∀ w ∈ Claims.elementWrites (here b) b r 2, busyLoc (here b) (2 ^ r.rcd.esz) w.1 = false) := by
  refine ⟨⟨rfl, rfl, rfl, _, rfl, by decide +kernel⟩, rfl, rfl, ⟨rfl, rfl, elements_reach (by decide)⟩, rfl, elements_reach (by decide), by decide⟩

theorem witness_AtomicRequests : let b := withS [(4, 0x2000)]
    (here b).holds b ∧ (Instr.acas 1 2 4 31).wf = true
    ∧ ∃ x, Claims.atomic (.acas 1 2 4 31) = some x ∧ b.vregs? x.v x.regs = true ∧ Claims.address b x.pair = some 0x2000
      ∧ Claims.lanesReach (here b) ((here b).issuer 5) b.enabled (.rmw 4) true (x.ea b 0x2000) :=
  ⟨rfl, rfl, _, rfl, rfl, rfl, reach_of (by decide)⟩

/-- A request of one lane, and a cluster that holds it. -/
def oneReq : LineReq :=
  { seq := 1, orig := 1, ref := { lnch := 1, bid := 0, slot := 0 }, part := 1, core := 0, cls := 5, line := 0x2000, dev := none, op := .add
    lanes := [{ lane := 0, pa := 0x2000, x := 1, y := 0, ord := 1 }], entry := none, owners := 0 }

theorem witness_AtomicPerformance :
    (let s : State := { State.reset with clusters := [(0, { ClusterState.init with fifos := [(0, [oneReq])] })] };
      (s.cluster 0).busy = 0 ∧ fifo s 0 0 = [oneReq] ∧ (∀ o ∈ oneReq.lanes, windowAt s o.pa = none)
      ∧ ((List.range 10).map fun (k : Nat) => ((s.cluster 0).port + 1 + k) % 10).find? (fun q =>
          match fifo s 0 q with
          | [] => false
          | r :: _ => isHot (s.cluster 0) r.line || !missRefused (s.cluster 0) r.part) = some 0)
    ∧ (let s : State := { State.reset with clusters := [(0, { ClusterState.init with miss := [oneReq] })] };
      (s.cluster 0).miss.filter (fun r => r.line = 0x2000) = [oneReq] ∧ (∀ q ∈ [oneReq], ∀ o ∈ q.lanes, windowAt s o.pa = none)
      ∧ roomHot (s.cluster 0) = true) :=
  ⟨⟨rfl, rfl, by decide, by decide⟩, by decide, by decide, rfl⟩

/-- A page of another device. -/
def farPage : TlbEntry :=
  { unit := 512, part := 1, va := 0x200000, size := 0x10000, pa := 0x40000, dev := some 7, ord := 1, rights1 := 3, rights2 := 3 }

theorem witness_CounterForms : let b := withS [(4, 0x2000), (6, 0x200000), (8, 5)]
    (here b).holds b
    ∧ (Claims.address b 4 = some 0x2000 ∧ isSpad 0x2000 = false ∧ (Instr.cntadd 4 8).wf = true
      ∧ ∃ p ord, access (here b) ((here b).issuer 5) 0x2000 (.rmw 8) true = .ok (.mem p, ord))
    ∧ ((Instr.cntadd 6 8).wf = true ∧ Claims.address b 6 = some 0x200000
      ∧ ∃ d p ord, access { here b with tlb := [farPage], ports := [(0, { up := true, failed := 0, silent := 0, idle := 0 })] }
          ((here b).issuer 5) 0x200000 (.rmw 8) true = .ok (.remote d p, ord))
    ∧ ((Instr.cntrd 10 4).wf = true ∧ (Instr.cntw 4 8).wf = true
      ∧ ∃ p line, access (here b) ((here b).issuer 5) 0x2000 (.read 8) true = .ok p ∧ Claims.homeLine p.1 = some (none, line)
        ∧ ¬ (b.sreg 8).toNat + 2 ^ 32 * (b.sreg 9).toNat ≤ counterRead (here b) ((here b).issuer 5) p.1
        ∧ (b.sreg 10).toNat + 2 ^ 32 * (b.sreg 11).toNat ≤ counterRead (here b) ((here b).issuer 5) p.1
        ∧ engineTurn (here b) (owningCluster line) (corePort (here b).myCore (owningCluster line)) line b.part = true) :=
  ⟨rfl, ⟨rfl, rfl, rfl, _, _, rfl⟩, ⟨rfl, rfl, _, _, _, rfl⟩, rfl, rfl, _, _, rfl, rfl, by decide, by decide, rfl⟩

/-- A core with a tile, and the machine with that core. -/
def tiled (b : Band) (k : Nat) (x : Tile) : State :=
  (here b).setCore 0 { (here b).core 0 with tiles := [(k, x)] }
def tileOf (state ver : Nat) : Tile := { base := 0, len := 24, state := state, readers := 0, ver := ver, torn := false, opener := 0 }

theorem witness_CopyIssues :
    (let b : Band := { withS [(4, 0x2000)] with vregs := [(96 * 2, 0x3000), (96 * 4, 0x4000)] }
      let place : Nat → CopyPart := fun _ => { src := 0x4000, dst := 0x3000, n := 16 }
      (here b).holds b ∧ (Instr.cpy16 2 4 4).wf = true ∧ b.vregs? (2 : VReg) 2 = true ∧ b.vregs? (4 : VReg) 2 = true
      ∧ Claims.address b 4 = some 0x2000 ∧ isSpad 0x2000 = false
      ∧ ∀ l ∈ laneList b.enabled, (place l).n = 16
        ∧ (b.vlane 3 l).toNat < 2 ^ 16 ∧ (b.vlane 5 l).toNat < 2 ^ 16
        ∧ (place l).dst = (b.vlane 2 l).toNat + 2 ^ 32 * (b.vlane 3 l).toNat ∧ (place l).dst % 16 = 0
        ∧ (place l).src = (b.vlane 4 l).toNat + 2 ^ 32 * (b.vlane 5 l).toNat ∧ (place l).src % 16 = 0)
    ∧ (let b := withS [(4, 0x2000), (6, 0x3000), (8, 1023)]
      let s : State := { tiled b 1023 (tileOf 1 0) with
                         mem := (here b).mem.setBytes 0x2000 (rowBytes 96)
                         quads := [(0, { Quad.init with owner := 1 }), (3, { Quad.init with owner := 1 })] };
      s.holds b ∧ (Instr.cpt 8 4 6).wf = true ∧ (b.sreg 8).toNat = 1023 ∧ sliceOwner s s.myCore (1023 / 256) = b.part
      ∧ Claims.address b 4 = some 0x2000 ∧ Claims.address b 6 = some 0x3000 ∧ isSpad 0x3000 = false
      ∧ (tileAt s s.myCore 1023).state = 1 ∧ (rowOf 96).total * 2 ^ (rowOf 96).esz ≤ 16 * (tileAt s s.myCore 1023).len
      ∧ ∃ p, access s (s.issuer 0) 0x2000 (.read 64) false = .ok p
        ∧ streamRecord (readAt s (s.issuer 0) p.1 p.2 64) = some (rowOf 96))
    ∧ (let b := withS [(4, 0x2000), (6, 0x3000)]
      let s := hereM b 0x2000 (leBytes 8 0x4000 ++ leBytes 8 0x8000 ++ leBytes 4 1 ++ leBytes 4 48 ++ leBytes 1 0 ++ List.replicate 7 0)
      s.holds b ∧ (Instr.cpz 4 6).wf = true ∧ Claims.address b 4 = some 0x2000 ∧ Claims.address b 6 = some 0x3000
      ∧ ∃ p, access s (s.issuer 0) 0x2000 (.read 32) false = .ok p ∧ (readAt s (s.issuer 0) p.1 p.2 32)
        = leBytes 8 0x4000 ++ leBytes 8 0x8000 ++ leBytes 4 1 ++ leBytes 4 48 ++ leBytes 1 0 ++ List.replicate 7 0) := by
  refine ⟨⟨rfl, rfl, rfl, rfl, rfl, rfl, by decide⟩, ⟨rfl, rfl, rfl, rfl, rfl, rfl, rfl, rfl, by decide, _, rfl, by decide +kernel⟩,
    rfl, rfl, rfl, rfl, _, rfl, by decide +kernel⟩

/-- An engine's user, a line operation, and a machine whose partition holds engines of every kind. -/
def user : Issuer :=
  { part := 1, core := 0, quad := 0, thb := 0, thl := 2 ^ 21, tho := 0, cls := 1, heap := true, deadline := false }
def lineOp (src : Nat) : CopyOp :=
  { seq := 5, ref := { lnch := 1, bid := 0, slot := 0 }, u := user, parts := [{ src := src, dst := 0x3000, n := 4 }], tile := none
    count := 4, cnt := 0x2000, pc := 0, word := 0 }
def withEngines (s : State) : State := { s with engines := [(0, 1), (32, 1), (64, 1)] }

theorem witness_CopyLines :
    (let s := withEngines { here fetchBand with copies := [lineOp 0x4000] };
      s.copies[0]? = some (lineOp 0x4000) ∧ Claims.lineEvent (lineOp 0x4000) 0 (.copyLineOperation 0)
      ∧ holdsEngine s (lineOp 0x4000).u.core 0 (lineOp 0x4000).u.part = true ∧ portsDown s user (copyPieces s (lineOp 0x4000)) = false
      ∧ (∃ ws, Claims.lineMoves s (lineOp 0x4000) = some ws ∧ ∀ w ∈ ws, busyLoc s w.2.length w.1 = false)
      ∧ ∃ p, counterAt s user 0x2000 = .ok p)
    ∧ (let o : CopyOp := { lineOp 0 with parts := [], tile := some { rcd := rowOf 4, base := 0, toTile := true, elems := [0, 3] } }
      let s := withEngines { here fetchBand with copies := [o] }
      Claims.lineEvent o 0 (.tileCopyLine 0) ∧ portsDown s o.u (copyPieces s o) = false ∧ (∃ ws, Claims.lineMoves s o = some ws ∧ ∀ w ∈ ws, busyLoc s w.2.length w.1 = false))
    ∧ (let o := lineOp 0x300000
      let s := withEngines { here fetchBand with copies := [o] }
      s.copies[0]? = some o ∧ portsDown s o.u (copyPieces s o) = false ∧ Claims.lineMoves s o = none ∧ s.parts.has o.u.part = true
      ∧ ((s.part o.u.part).waiting.filter (fun r => !r.kept)).length < 256)
    ∧ (let o : CopyOp := { lineOp 0x4000 with cnt := 0x300000 }
      ∃ f, counterAt (withEngines { here fetchBand with copies := [o] }) o.u o.cnt = .error f) := by
  refine ⟨⟨rfl, .inl ⟨rfl, rfl⟩, by decide, by decide, ⟨_, rfl, by decide⟩, _, rfl⟩, ⟨.inr ⟨rfl, by decide⟩, by decide, _, rfl, by decide⟩,
    ⟨rfl, by decide, by decide +kernel, rfl, by decide⟩, _, rfl⟩

/-- A pack or an expand of one line. -/
def packOp (expand checked : Bool) (lines : List (Nat × List Byte)) : CzOp :=
  { seq := 5, ref := { lnch := 1, bid := 0, slot := 0 }, u := user, cls := 1, src := 0x4000, dst := 0x8000, nline := 1, cap := 48
    expand := expand, cnt := 0x2000, checked := checked, lines := lines, pc := 0, word := 0 }

/-- The premises of the check of an expand's stream. -/
def expandable (s : State) (o : CzOp) : Bool :=
  match readBlocks s o.u 16 o.src 2 with
  | .error _ => false
  | .ok hd => streamOk o hd.flatten && !portsDown s o.u ((List.range 2).map fun k => (o.src + 16 * k, 16))
    && !portsDown s o.u ((List.range ((leAt hd.flatten 4 4 + 15) / 16)).map fun k => (o.src + 16 * k, 16))
    && match readBlocks s o.u 16 o.src ((leAt hd.flatten 4 4 + 15) / 16) with
    | .error _ => false
    | .ok bs => (expandStream o.nline (bs.flatten.take (leAt hd.flatten 4 4))).isSome

theorem witness_PackSteps :
    (let o := packOp false false []
      let s := withEngines { here fetchBand with czs := [o] }
      s.czs[0]? = some o ∧ holdsEngine s o.u.core 1 o.u.part = true ∧ (∃ p, counterAt s o.u o.cnt = .ok p)
      ∧ portsDown s o.u ((List.range o.nline).map fun k => (o.src + 128 * k, 128)) = false
      ∧ ∃ lines ws, readBlocks s o.u 128 o.src o.nline = .ok lines
        ∧ writeBlocks s o.u o.dst (blocks16 (packStream lines o.cap)) = .ok ws ∧ ∀ w ∈ ws, busyLoc s 16 w.1 = false)
    ∧ (let o := packOp true false []
      let s := withEngines { hereM fetchBand 0x4000 (packStream [List.replicate 128 0] 48) with czs := [o] }
      expandable s o = true)
    ∧ (let o := packOp true true [(0, List.replicate 128 7)]
      let s := withEngines { here fetchBand with czs := [o] }
      o.lines.find? (fun e => e.1 = 0) = some (0, List.replicate 128 7)
      ∧ ∃ l, access s o.u ((o.dst + 128 * 0) % 2 ^ 48) (.write 128) false = .ok l ∧ busyLoc s 128 l.1 = false)
    ∧ (packStream [List.replicate 128 0] 48).length ≠ 32 := by
  refine ⟨⟨rfl, by decide, ⟨_, rfl⟩, by decide, _, _, rfl, rfl, by decide +kernel⟩, by decide +kernel, ⟨rfl, _, rfl, by decide⟩, by decide +kernel⟩

theorem witness_TileForms :
    (let b := withS [(4, 0x2000)]
      let s := hereM b 0x2000 (leBytes 2 3 ++ leBytes 2 0 ++ leBytes 2 17407 ++ leBytes 2 1)
      s.holds b ∧ (Instr.tdef 4).wf = true ∧ Claims.address b 4 = some 0x2000
      ∧ sliceOwner s s.myCore (3 / 256) = b.part ∧ (tileAt s s.myCore 3).state = 0 ∧ graphTile s s.myCore 3 = false
      ∧ ∃ p, access s (s.issuer 0) 0x2000 (.read 8) false = .ok p
        ∧ readAt s (s.issuer 0) p.1 p.2 8 = leBytes 2 3 ++ leBytes 2 0 ++ leBytes 2 17407 ++ leBytes 2 1)
    ∧ (let b := withS [(8, 255)];
      (∀ i ∈ [Instr.tfill 8, .tcommit 8, .tdrain 8, .trel 8], i.wf = true ∧ ∃ f t, Claims.tileStep i = some (8, f, t)
        ∧ (tileAt (tiled b 255 (tileOf f 0)) 0 255).state = f ∧ graphTile (tiled b 255 (tileOf f 0)) 0 255 = false)
      ∧ storesPending (tiled b 255 (tileOf 1 0)) 255 (tileOf 1 0) = false
      ∧ Claims.namesTile (tiled b 255 (tileOf 1 0)) b 8 255 ∧ (Instr.tstate 9 8).wf = true)
    ∧ (let b := withS [(8, 255), (9, 1)];
      (Instr.tstAon 8 9).wf = true ∧ (Instr.tstAon 8 10).wf = true ∧ b.sreg 9 = 1 ∧ b.sreg 10 = 0
      ∧ (tileOf 2 0).ver % 2 = 0 ∧ (tileOf 2 1).ver % 2 = 1
      ∧ Claims.namesTile (tiled b 255 (tileOf 2 1)) b 8 255 ∧ tileAt (tiled b 255 (tileOf 2 1)) 0 255 = tileOf 2 1)
    ∧ (let b := withS [(8, 255), (9, 0xF0000140)];
      (Instr.tldVer 16 8 9).wf = true ∧ b.sreg 9 = BitVec.ofNat 32 (0x140 + 2 ^ 28 * (16 - 1)) ∧ 0x140 + 4 * 16 ≤ 16 * (tileOf 2 0).len
      ∧ ∀ j, j < 4 * 16 → (tiled b 255 (tileOf 2 0)).spadPoison.has ((tileBase 0 255 (tileOf 2 0) + 0x140 + j) / 16) = false)
    ∧ (let x : Tile := { tileOf 2 1 with opener := 4096 };
      tileAt (tiled fetchBand 3 x) 0 3 = x ∧ x.ver % 2 = 1) := by
  refine ⟨⟨rfl, rfl, rfl, rfl, rfl, rfl, _, rfl, by decide +kernel⟩, ⟨?_, by decide, ⟨by decide, rfl, rfl⟩, rfl⟩,
    ⟨rfl, rfl, rfl, rfl, rfl, rfl, ⟨by decide, rfl, rfl⟩, rfl⟩, ⟨rfl, rfl, by decide, fun j _ => rfl⟩, rfl, rfl⟩
  intro i hi
  simp only [List.mem_cons, List.not_mem_nil, or_false] at hi
  obtain rfl | rfl | rfl | rfl := hi <;> exact ⟨rfl, _, _, rfl, rfl, rfl⟩

/-- A machine whose core has a circular buffer of two records, one of them there. -/
def buffered (b : Band) : State :=
  let x : CircBuf := { tile0 := 0, nslot := 2, recsz := 16, pp := 1, cp := 0, prod := none, cons := none }
  (here b).setCore 0 { (here b).core 0 with cbs := [(7, x)] }

theorem witness_BufferForms :
    (let b := withS [(4, 0x2000), (8, 7)]
      let s : State := { tiled b 0 (tileOf 0 0) with
                         mem := (here b).mem.setBytes 0x2000 (leBytes 2 0 ++ leBytes 2 1 ++ leBytes 4 384 ++ List.replicate 8 0) };
      s.holds b ∧ (Instr.cbdef 8 4).wf = true ∧ (b.sreg 8).toNat = 7 ∧ sliceOwner s s.myCore (7 / 8) = b.part
      ∧ (∀ k, k < 1 → (0 + k) / 256 = 7 / 8 ∧ 384 ≤ 16 * (tileAt s s.myCore (0 + k)).len ∧ graphTile s s.myCore (0 + k) = false)
      ∧ (∀ x, (s.core s.myCore).cbs.find? 7 = some x → x.available = 0 ∧ x.prod = none ∧ x.cons = none)
      ∧ ∃ p, access s (s.issuer 0) 0x2000 (.read 16) false = .ok p
        ∧ readAt s (s.issuer 0) p.1 p.2 16 = leBytes 2 0 ++ leBytes 2 1 ++ leBytes 4 384 ++ List.replicate 8 0)
    ∧ (let b := withS [(8, 7), (9, 1), (10, 2), (11, 3)];
      (buffered b).holds b ∧ ∃ x, Claims.namesBuffer (buffered b) b 8 7 x
        ∧ 1 ≤ (b.sreg 9).toNat ∧ (b.sreg 10).toNat ≤ x.nslot ∧ endBusy (buffered b) x.prod = false ∧ endBusy (buffered b) x.cons = false
        ∧ (Instr.cbpush 8 9).wf = true ∧ (b.sreg 9).toNat ≤ x.room ∧ (Instr.cbpop 8 9).wf = true ∧ (b.sreg 9).toNat ≤ x.available
        ∧ (Instr.cbwait 8 10 9).wf = true ∧ b.sreg 9 = 1 ∧ ¬ (b.sreg 10).toNat ≤ x.room
        ∧ (Instr.cbpeek 12 8 11).wf = true ∧ (b.sreg 11).toNat ≤ 3) := by
  refine ⟨⟨rfl, rfl, rfl, rfl, ?_, ?_, _, rfl, by decide +kernel⟩, rfl, _, ⟨rfl, by decide, rfl, rfl⟩, ?_⟩
  · intro k hk
    obtain rfl : k = 0 := by omega
    exact ⟨rfl, by decide, rfl⟩
  · intro x hx
    cases hx
  · exact ⟨by decide, by decide, rfl, rfl, rfl, by decide, rfl, by decide, rfl, rfl, by decide, rfl, by decide⟩

/-- A window of the partition's, with a line that it has written. -/
def window7 : Window :=
  { a := 1, b := 2, working := [0x10000], published := [0x20000], gen := 4, dirtyA := [1], dirtyB := [], keyA := 9, keyB := 8
    mapA := 0, mapB := 0, leaves := [] }

theorem witness_OrderingForms : (Instr.fence .fabric 15).wf = true ∧ (Instr.pfence 63 63).wf = true
    ∧ (let b := withS [(4, 9), (5, 7), (6, 5), (7, 6)]
      let s : State := { here b with windows := [(7, window7)] }
      s.holds b ∧ windowOf s b.part (b.sreg 4) (b.sreg 5) = some (7, window7) ∧ (Instr.swrel 4 6).wf = true ∧ b.sreg 6 = window7.gen + 1
      ∧ (∀ j ∈ window7.dirtyA, ∀ k ∈ window7.dirtyA,
        imageAt window7.published (128 * j) + 128 ≤ imageAt window7.working (128 * k)
          ∨ imageAt window7.working (128 * k) + 128 ≤ imageAt window7.published (128 * j))
      ∧ (Instr.swacq 4 6).wf = true) := ⟨rfl, rfl, rfl, rfl, rfl, rfl, by decide, rfl⟩

/-- The machine with a trap handler. -/
def handled (b : Band) : State := (here b).modPart 1 fun p => { p with handler := 0x4000 }

theorem witness_UniformFaults :
    (let b := withS [(4, 2), (5, 0x10000), (6, 255), (8, 7), (9, 2), (10, 1)];
      (handled b).holds b ∧ Claims.canFault (handled b) b ∧ (Instr.lds 0 2 4 0).wf = true ∧ Claims.address b 4 = none
      ∧ Claims.address b 8 = some 0x200000007 ∧ b.path.limm = none ∧ ((0x200000007 + 4 * 0) % 2 ^ 48) % 4 ≠ 0
      ∧ b.streams.find? 3 = none ∧ Claims.tileStep (.tfill 6) = some (6, 0, 1) ∧ Claims.namesTile (handled b) b 6 255
      ∧ sliceOwner (handled b) (handled b).myCore (7 / 8) = b.part ∧ ((handled b).core (handled b).myCore).cbs.find? 7 = none
      ∧ windowOf (handled b) b.part (b.sreg 4) (b.sreg 5) = none)
    ∧ (let b := withS [(6, 255), (8, 7), (9, 2)]
      let s := (buffered b).modPart 1 fun p => { p with handler := 0x4000 }
      Claims.canFault s b ∧ ∃ x, Claims.namesBuffer s b 8 7 x ∧ 1 ≤ (b.sreg 9).toNat ∧ (b.sreg 9).toNat ≤ x.nslot
        ∧ x.room < (b.sreg 9).toNat ∧ x.available < (b.sreg 9).toNat)
    ∧ (let b := withS [(6, 255)];
      Claims.namesTile (tiled b 255 (tileOf 2 0)) b 6 255 ∧ (tileAt (tiled b 255 (tileOf 2 0)) 0 255).state ≠ 0)
    ∧ (let b := withS [(4, 9), (5, 7), (6, 6)];
      windowOf { handled b with windows := [(7, window7)] } b.part (b.sreg 4) (b.sreg 5) = some (7, window7)
      ∧ b.sreg 6 ≠ window7.gen + 1) := by
  refine ⟨⟨rfl, ⟨rfl, by decide, rfl⟩, rfl, rfl, rfl, rfl, by decide, rfl, rfl, ⟨by decide, rfl, rfl⟩, rfl, rfl, rfl⟩,
    ⟨⟨rfl, by decide, rfl⟩, _, ⟨rfl, by decide, rfl, rfl⟩, by decide⟩, ⟨⟨by decide, rfl, rfl⟩, by decide⟩, rfl, by decide⟩

/-- A frame of 64 bytes, and one level too many: R190. -/
theorem witness_UniformFaults_frames :
    let b : Band := { fetchBand with disp := [(0, 0x3000)] }
    let s : State := { handled b with mem := (here b).mem.setBytes (headerOf 0x3000 + 12) [1] };
    s.holds b ∧ Claims.canFault s b ∧ (Instr.fld 0 1 5 0).wf = true ∧ (Instr.fst none 1 5 0).wf = true ∧ (Instr.fla 1 4 0).wf = true
    ∧ b.level < (1 : Fin 8).val ∧ (Instr.fld 0 0 5 16).wf = true ∧ (0 : Fin 8).val ≤ b.level
    ∧ ∃ n, frameSize s 0 = .ok n ∧ n < 4 * (16 : BitVec 14).toNat + 4 :=
  ⟨rfl, ⟨rfl, by decide, rfl⟩, rfl, rfl, rfl, by decide, rfl, by decide, 64, rfl, by decide⟩

/-- Addresses of `sts` beyond the scratchpad, in a slice of another owner, in a unit of another partition, and in a frame's header; and a
counter in the scratchpad. -/
theorem witness_UniformFaults_places :
    (∀ e ∈ [((0x0010FFFC : Word), Config.spadBytes), (0x00110000, 0), (3 * 0x44000, 1)],
      let b := withS [(4, e.1), (5, 0xFFFF)]
      let x := 2 ^ 48 - 2 ^ 32 + e.1.toNat;
      (handled b).holds b ∧ Claims.canFault (handled b) b ∧ (Instr.sts none 2 4 0).wf = true ∧ Claims.address b 4 = some x ∧ b.path.limm = none
      ∧ isSpad x = true ∧ x % 4 = 0
      ∧ (e.2 = 0 → Config.spadBytes < x % 2 ^ 32 + 4)
      ∧ (e.2 ≠ 0 → x % 2 ^ 32 + 4 ≤ Config.spadBytes ∧ sliceOwner (handled b) (handled b).myCore (x % 2 ^ 32 / Config.sliceBytes) ≠ b.part))
    ∧ (let b : Band := { withS [(4, 0x2000)] with tho := 2 ^ 30 };
      Claims.canFault (handled b) b ∧ isSpad 0x2000 = false ∧ b.thb ≤ 0x2000 ∧ 0x2000 - b.thb < b.thl
      ∧ granted (handled b) b.part ((0x2000 + b.tho) % 2 ^ 48) = false)
    ∧ (let b := withS [(4, 0x2000)]
      let s : State := { handled b with headers := [(0x2000, ())] };
      s.holds b ∧ Claims.canFault s b ∧ granted s b.part ((0x2000 + b.tho) % 2 ^ 48) = true ∧ b.cls ≠ 0
      ∧ touchesHeader s ((0x2000 + b.tho) % 2 ^ 48) 4 = true)
    ∧ (let b := withS [(4, 0), (5, 0xFFFF)];
      (handled b).holds b ∧ Claims.address b 4 = some (2 ^ 48 - 2 ^ 32) ∧ isSpad (2 ^ 48 - 2 ^ 32) = true ∧ (Instr.cntadd 4 6).wf = true
      ∧ (Instr.cntw 4 6).wf = true ∧ (Instr.cntrd 6 4).wf = true) := by
  refine ⟨?_, ⟨⟨rfl, by decide, rfl⟩, by decide, by decide, by decide, by decide⟩, ⟨rfl, ⟨rfl, by decide, rfl⟩, by decide, by decide,
    by decide⟩, rfl, rfl, by decide, rfl, rfl, rfl⟩
  intro e h
  simp only [List.mem_cons, List.not_mem_nil, or_false] at h
  obtain rfl | rfl | rfl := h <;> exact ⟨rfl, ⟨rfl, by decide, rfl⟩, rfl, rfl, rfl, by decide, by decide, by decide, by decide⟩

/-- Records that define nothing: a stream of no element, a tile that ends one unit too far, a buffer whose tile is short, and one that is in
use; and buffers with an end that another band holds. -/
theorem witness_UniformFaults_records :
    (let b := withS [(4, 0x2000)]
      let s : State := { handled b with mem := (here b).mem.setBytes 0x2000 (rowBytes 0) };
      s.holds b ∧ Claims.canFault s b ∧ (Instr.spat 4 3).wf = true ∧ ∃ p, access s (s.issuer 3) (0x2000 % 2 ^ 48) (.read 64) false = .ok p
        ∧ streamRecord (readAt s (s.issuer 3) p.1 p.2 64) = none)
    ∧ (let b := withS [(4, 0x2000)]
      let bs := leBytes 2 3 ++ leBytes 2 0 ++ leBytes 2 17407 ++ leBytes 2 2
      let s : State := { handled b with mem := (here b).mem.setBytes 0x2000 bs };
      s.holds b ∧ Claims.canFault s b ∧ (tileAt s s.myCore 3).state = 0 ∧ graphTile s s.myCore 3 = false
      ∧ ∃ p, access s (s.issuer 0) 0x2000 (.read 8) false = .ok p ∧ readAt s (s.issuer 0) p.1 p.2 8 = bs)
    ∧ (∀ sz ∈ [384, 400],
      let b := withS [(4, 0x2000), (8, 7)]
      let bs := leBytes 2 0 ++ leBytes 2 1 ++ leBytes 4 sz ++ List.replicate 8 0
      let x : CircBuf := { tile0 := 0, nslot := 2, recsz := 16, pp := 1, cp := 0, prod := none, cons := none }
      let s := ({ (handled b).setCore 0 { (here b).core 0 with tiles := [(0, tileOf 0 0)], cbs := [(7, x)] } with
        mem := (here b).mem.setBytes 0x2000 bs } : State);
      s.holds b ∧ Claims.canFault s b ∧ sliceOwner s s.myCore (7 / 8) = b.part ∧ sz % 16 = 0
      ∧ (sz = 400 → 16 * (tileAt s s.myCore 0).len < sz)
      ∧ (sz = 384 → sz ≤ 16 * (tileAt s s.myCore 0).len ∧ graphTile s s.myCore 0 = false ∧ (s.core s.myCore).cbs.find? 7 = some x
          ∧ 0 < x.available)
      ∧ ∃ p, access s (s.issuer 0) 0x2000 (.read 16) false = .ok p ∧ readAt s (s.issuer 0) p.1 p.2 16 = bs)
    ∧ (let b := withS [(8, 7), (9, 1)]
      let o : EndOwner := .band { lnch := 1, bid := 1, slot := 1 }
      let x : CircBuf := { tile0 := 0, nslot := 2, recsz := 16, pp := 1, cp := 0, prod := some o, cons := some o }
      let s := (handled b).setCore 0 { (here b).core 0 with cbs := [(7, x)] };
      s.holds b ∧ Claims.canFault s b ∧ Claims.namesBuffer s b 8 7 x ∧ endBusy s x.prod = true ∧ endBusy s x.cons = true
      ∧ (Instr.cbpush 8 9).wf = true ∧ (Instr.cbpop 8 9).wf = true) := by
  refine ⟨⟨rfl, ⟨rfl, by decide, rfl⟩, rfl, _, rfl, by decide +kernel⟩, ⟨rfl, ⟨rfl, by decide, rfl⟩, rfl, rfl, _, rfl, by decide +kernel⟩, ?_,
    rfl, ⟨rfl, by decide, rfl⟩, ⟨rfl, by decide, rfl, rfl⟩, rfl, rfl, rfl, rfl⟩
  intro sz h
  simp only [List.mem_cons, List.not_mem_nil, or_false] at h
  obtain rfl | rfl := h <;> exact ⟨rfl, ⟨rfl, by decide, rfl⟩, rfl, rfl, by decide, by decide, _, rfl, by decide +kernel⟩

/-- A launch at the last level, and one of a class above that of its band. -/
theorem witness_UniformFaults_launch :
    ∀ e ∈ [((7 : Nat), (0x20001 : Word)), (0, 0x10001)],
      let b : Band := { withS [(8, 0x4000), (10, 97), (11, e.2)] with level := e.1, cls := 2 };
      (handled b).holds b ∧ Claims.canFault (handled b) b ∧ (Instr.launch 1 8).wf = true
      ∧ launchOk ((List.range 8).map fun k => b.sreg (8 + k)) = true ∧ (e.1 = 0 → (e.2.extractLsb' 16 2).toNat < b.cls) := by
  intro e h
  simp only [List.mem_cons, List.not_mem_nil, or_false] at h
  obtain rfl | rfl := h <;> exact ⟨rfl, ⟨rfl, by decide, rfl⟩, rfl, by decide, by decide⟩

/-- A load and a store of two lanes of which the second lies behind the scratchpad's end. -/
theorem witness_UniformFaults_lanes :
    let b : Band := { withS [(4, 0x0010FFFC), (5, 0xFFFF)] with occ := 3, mask := 3 }
    let s : State := { handled b with quads := [(0, { Quad.init with owner := 1 }), (3, { Quad.init with owner := 1 })] };
    s.holds b ∧ Claims.canFault s b ∧ Claims.address b 4 = some (2 ^ 48 - 2 ^ 32 + 0x10FFFC) ∧ b.vregs? 2 1 = true
    ∧ (Instr.ldw 0 2 4 0).wf = true ∧ (∃ x, Claims.laneLoad b (.ldw 0 2 4 0) = some x ∧ x.la.val = 0 ∧ x.scope = none ∧ x.pair = 4
      ∧ Claims.failing s (s.issuer 0) b.enabled (.read x.size) (x.ea (2 ^ 48 - 2 ^ 32 + 0x10FFFC)) = [1]
      ∧ ∃ f, access s (s.issuer 0) (x.ea (2 ^ 48 - 2 ^ 32 + 0x10FFFC) 1) (.read x.size) false = .error f ∧ isTranslation f.code = false)
    ∧ (Instr.stw none 2 4 0).wf = true ∧ (∃ x, Claims.laneStore b (.stw none 2 4 0) = some x ∧ x.pair = 4
      ∧ Claims.failing s (s.issuer 0) b.enabled (.write x.size) (x.ea (2 ^ 48 - 2 ^ 32 + 0x10FFFC)) = [1]
      ∧ (∃ f, access s (s.issuer 0) (x.ea (2 ^ 48 - 2 ^ 32 + 0x10FFFC) 1) (.write x.size) false = .error f ∧ isTranslation f.code = false)
      ∧ ∀ w ∈ Claims.laneWrites s b x (2 ^ 48 - 2 ^ 32 + 0x10FFFC), busyLoc s x.size w.1 = false) :=
  ⟨rfl, ⟨rfl, by decide, rfl⟩, rfl, rfl, rfl, ⟨_, rfl, rfl, rfl, rfl, by decide, _, rfl, rfl⟩, rfl, _, rfl, rfl, by decide, ⟨_, rfl, rfl⟩,
    by decide⟩

/-- A band in trap mode, at the first word of its handler. -/
def trapped : Band :=
  { fetchBand with inTrap := true, trp := [(0, { PathEntry.empty with v := true, pc := 0x1000, mask := 1 })], tmask := 1, tmr := 5
                   tpc := 0x1000 }

theorem witness_TrapEntries : (handled fetchBand).holds fetchBand ∧ fetchBand.inTrap = false
    ∧ ((handled fetchBand).part fetchBand.part).handler ≠ 0 := ⟨rfl, rfl, by decide⟩

theorem witness_UnhandledTrapKills :
    ((here trapped).holds trapped ∧ trapped.inTrap = true)
    ∧ ((here fetchBand).holds fetchBand ∧ ((here fetchBand).part fetchBand.part).handler = 0)
    ∧ (∃ l, (here fetchBand).launches.find? fetchBand.lnch.toNat = some l ∧ l.killed = none)
    ∧ (∀ t ∈ [false, true],
      let b : Band := { withS [(4, 2), (5, 0x10000)] with inTrap := t, trp := trapped.trp };
      (here b).holds b ∧ (b.inTrap = true ∨ ((here b).part b.part).handler = 0) ∧ (Instr.lds 0 2 4 0).wf = true
      ∧ Claims.address b 4 = none ∧ (b.olog.free? 4).isSome = true)
    ∧ (let b : Band := { trapped with trp := (List.range 2).map fun k => (k, { PathEntry.empty with v := true, pc := 0x1000, mask := 1 }) };
      (here b).holds b ∧ b.inTrap = true ∧ 1 < b.valid.length) := by
  refine ⟨⟨rfl, rfl⟩, ⟨rfl, rfl⟩, ⟨_, rfl, rfl⟩, ?_, rfl, rfl, by decide⟩
  intro t h
  simp only [List.mem_cons, List.not_mem_nil, or_false] at h
  obtain rfl | rfl := h
  · exact ⟨rfl, .inr rfl, rfl, rfl, rfl⟩
  · exact ⟨rfl, .inl rfl, rfl, rfl, rfl⟩

theorem witness_TrapReturn : (here trapped).holds trapped ∧ trapped.inTrap = true ∧ trapped.valid.length ≤ 1
    ∧ trapped.results.all (fun e => !e.inTrap || e.pending = 0) = true ∧ trapped.mfaults = [] :=
  ⟨rfl, rfl, by decide, rfl, rfl⟩

theorem witness_SystemRegisters :
    ((here fetchBand).holds fetchBand ∧ fetchBand.inTrap = false ∧ (Instr.mfsr 1 0x0C6).wf = true ∧ Claims.privileged (0x0C6 : BitVec 12).toNat
      ∧ Claims.sysValue (here fetchBand) fetchBand (0x0C6 : BitVec 12).toNat ≠ none ∧ (Instr.mtsr 1 0x010).wf = true
      ∧ (Instr.mfsr 1 0x05F).wf = false ∧ ¬ Claims.privileged (0x050 : BitVec 12).toNat
      ∧ ∃ v, Claims.sysValue (here fetchBand) fetchBand (0x050 : BitVec 12).toNat = some v)
    ∧ ((here trapped).holds trapped ∧ (∃ c, Claims.sysWritten (here trapped) trapped (0x021 : BitVec 12).toNat 0 = some c)
      ∧ Claims.sysWritten (here trapped) trapped (0x0C5 : BitVec 12).toNat 1 ≠ none
      ∧ Claims.sysWritten (here trapped) trapped (0x0C2 : BitVec 12).toNat 15 = none) :=
  ⟨⟨rfl, rfl, rfl, ⟨by decide, by decide⟩, nofun, rfl, rfl, fun h => absurd h.1 (by decide), _, rfl⟩, rfl, ⟨_, rfl⟩, nofun, rfl⟩

theorem witness_ModeForms :
    (let b := withS [(1, 0x0004), (2, 0x0B)];
      (here b).holds b ∧ (Instr.mode 1).wf = true ∧ Claims.validMode (b.sreg 1) ∧ ¬ Claims.validMode (b.sreg 2)
      ∧ (Instr.modei 0 4).wf = true ∧ Claims.validMode ((0 : BitVec 13) ++ (0 : BitVec 11) ++ (0 : BitVec 1) ++ (4 : BitVec 7))
      ∧ ¬ Claims.validMode ((0 : BitVec 13) ++ (1 : BitVec 11) ++ (0 : BitVec 1) ++ (4 : BitVec 7)))
    ∧ (let b := withS [(1, 0x39), (2, 0)];
      (here b).holds b ∧ (Instr.fmtset 15 1).wf = true ∧ Claims.validFormat (b.sreg 1) ∧ ¬ Claims.validFormat (b.sreg 2)) := by
  refine ⟨⟨rfl, rfl, ?_, ?_, rfl, ?_, ?_⟩, rfl, rfl, ?_, ?_⟩ <;> simp only [Claims.validMode, Claims.validFormat] <;> decide

theorem witness_RewindPoints :
    (let b := withS [(4, 0x80)];
      (here b).holds b ∧ (Instr.rwp 4 1).wf = true ∧ b.inTrap = false
      ∧ (b.sreg 4).toNat / 2 ^ (8 * (0 % 4)) % 2 ^ 8 = 128 ∧ 128 - 128 < b.rf)
    ∧ ((Instr.rwp 4 16).wf = true ∧ (Instr.rwp 4 17).wf = false)
    ∧ (let b := withS [(4, 61)];
      (b.sreg 4).toNat / 2 ^ (8 * (0 % 4)) % 2 ^ 8 = 61)
    ∧ (here trapped).holds trapped := ⟨⟨rfl, rfl, rfl, rfl, by decide⟩, ⟨rfl, rfl⟩, rfl, rfl⟩

theorem witness_Branches : (here fetchBand).holds fetchBand
    ∧ ((Instr.bz 1 0x20000).wf = true ∧ Claims.branch fetchBand (.bz 1 0x20000) = some (0x20000, true))
    ∧ Claims.branch fetchBand (.bnz 1 5) = some (5, false) ∧ (Instr.call 5).wf = true
    ∧ ((Instr.jl 1).wf = true ∧ Claims.registerBranch (.jl 1) = some (1, true) ∧ (fetchBand.sreg 1).toNat % 4 = 0)
    ∧ (Claims.registerBranch .ret = some (1, false) ∧ ((withS [(1, 2)]).sreg 1).toNat % 4 ≠ 0) :=
  ⟨rfl, ⟨rfl, rfl⟩, rfl, rfl, ⟨rfl, rfl, rfl⟩, rfl, by decide⟩

/-- A band of two lanes on two paths, and one with a full table. -/
def pathAt (a : BitVec 46) (m : Lanes) (w : Option Wait) : PathEntry :=
  { v := true, pc := a, mask := m, age := 0, wait := w, rep := none, limm := none }
def aWait (k : WaitKind) : Wait :=
  { order := 0, kind := k, cap := capture fetchBand 1 0 [] [] 0, phases := [], left := 0, rid := 0, seq := none, rcd := [] }
def twoPaths (a : BitVec 46) (w : Option Wait) : Band :=
  { fetchBand with occ := 3, mask := 1, prog := [(0, pathAt 0x400 1 none), (1, pathAt a 2 w)] }
def fullTable : Band :=
  { fetchBand with occ := 3, mask := 3, sregs := [(36, 1)], prog := (List.range 8).map fun k => (k, pathAt 0x400 3 none) }

theorem witness_PathForms :
    (let b : Band := { fetchBand with occ := 3, mask := 3, sregs := [(36, 1)] };
      (here b).holds b ∧ (Instr.pbr false 0 9).wf = true ∧ b.mask &&& b.pred 1 = 0 ∧ b.mask &&& ~~~(b.pred 1) = b.mask
      ∧ b.mask &&& b.pred 0 ≠ 0 ∧ b.mask &&& b.pred 0 ≠ b.mask
      ∧ (List.range b.tableSize).find? (fun k => !(b.entry k).v) = some 1 ∧ 1 ≠ b.ix)
    ∧ (fullTable.mask &&& fullTable.pred 0 ≠ 0 ∧ fullTable.mask &&& fullTable.pred 0 ≠ fullTable.mask
      ∧ (handled fullTable).holds fullTable ∧ (∀ k, k < fullTable.tableSize → (fullTable.entry k).v = true)
      ∧ ((handled fullTable).part fullTable.part).handler ≠ 0
      ∧ (here fullTable).holds fullTable ∧ ((here fullTable).part fullTable.part).handler = 0)
    ∧ (let b := twoPaths 0x400 none;
      (here b).holds b ∧ b.valid.filter (fun k => k ≠ b.ix && (b.entry k).pc = b.path.pc) ≠ [])
    ∧ (fetchBand.valid.filter (fun k => k ≠ fetchBand.ix && (fetchBand.entry k).pc = fetchBand.path.pc) = []
      ∧ fetchBand.valid.length ≤ 1)
    ∧ (let b := twoPaths 0x500 none;
      b.valid.filter (fun k => k ≠ b.ix && (b.entry k).pc = b.path.pc) = [] ∧ 1 < b.valid.length ∧ b.path.v = true ∧ b.ix < b.tableSize
      ∧ ∃ k ∈ b.valid, k ≠ b.ix ∧ (b.entry k).wait.map (·.kind) ≠ some .rcv)
    ∧ (let b := twoPaths 0x500 (some (aWait .rcv));
      1 < b.valid.length ∧ ∀ k ∈ b.valid, k ≠ b.ix → (b.entry k).wait.map (·.kind) = some .rcv) := by
  refine ⟨⟨rfl, rfl, by decide⟩, ⟨by decide, by decide, rfl, by decide, by decide, rfl, rfl⟩, ⟨rfl, by decide⟩, by decide, by decide, by decide⟩

/-- A band on two lanes, and a machine whose core has a gang. -/
def ganged (g : Tab Nat) : Band := { withS [(4, 63)] with gang := g, occ := 3, mask := 3 }
def gangCore (b : Band) (es : Tab GangEntry) : State :=
  { (here b).setCore 0 { (here b).core 0 with gangs := es } with
    quads := [(0, { Quad.init with owner := 1 }), (3, { Quad.init with owner := 1 })] }

theorem witness_GangForms :
    (let b := ganged []
      let s := gangCore b []
      s.holds b ∧ (Instr.join 4).wf = true ∧ (b.sreg 4).toNat = 63 ∧ sliceOwner s s.myCore (63 / 16) = b.part
      ∧ (∀ l ∈ laneList b.enabled, ∀ h, b.gang.find? l = some h → h = 63)
      ∧ (laneList b.enabled).filter (fun l => (b.gang.find? l).isNone) ≠ [] ∧ (∀ l ∈ laneList b.enabled, b.gang.find? l = none))
    ∧ (let b := ganged [(0, 63), (1, 63)]
      let s := gangCore b [(63, { count := 3072, arrivals := 0, phase := true })]
      s.holds b ∧ (∀ l ∈ laneList b.enabled, ∀ h, b.gang.find? l = some h → h = 63)
      ∧ (laneList b.enabled).filter (fun l => (b.gang.find? l).isNone) = []
      ∧ ∃ l ∈ laneList b.enabled, ∃ g, g < 64 ∧ b.gang.find? l = some g) := by
  refine ⟨⟨rfl, rfl, rfl, rfl, ?_, by decide, by decide⟩, rfl, ?_, by decide, 1, by decide, 63, by decide, rfl⟩
  · intro l hl h e
    cases e
  · have ls : laneList (ganged [(0, 63), (1, 63)]).enabled = [0, 1] := by decide
    intro l hl h e
    rw [ls] at hl
    simp only [List.mem_cons, List.not_mem_nil, or_false] at hl
    obtain rfl | rfl := hl <;> exact (Option.some.inj e).symm

/-- Two bands of a launch at one regroup: one that waits there, and one that has come to it. -/
def waiter (n k : Nat) (left : Nat) (f : Option Nat) : Band :=
  { fetchBand with bid := BitVec.ofNat 32 k, slot := n, fusing := f
                   prog := [(0, pathAt 0x400 1 (some { aWait .regroup with left := left }))] }

theorem witness_Regrouping :
    (let b : Band := { fetchBand with children := [1] };
      (here b).holds b ∧ eligible (here b) 0 b = false)
    ∧ ((here fetchBand).holds fetchBand ∧ eligible (here fetchBand) 0 fetchBand = true
      ∧ regroupPartner (here fetchBand) fetchBand = none)
    ∧ (let s : State := { here fetchBand with bands := [(0, fetchBand), (3, waiter 3 5 256 none)] };
      s.holds fetchBand ∧ eligible s s.cur fetchBand = true ∧ regroupPartner s fetchBand = some (3, waiter 3 5 256 none))
    ∧ (let b := waiter 0 0 0 none;
      ∃ w, Claims.pathWaits (here b) 0 b.ix b w .regroup ∧ b.fusing = none ∧ (w.left = 0 ∨ ((here b).slot 0).preq = true))
    ∧ (let s : State := { here fetchBand with bands := [(0, waiter 0 0 0 (some 3)), (3, waiter 3 5 0 (some 0))] };
      s.bands.find? 0 = some (waiter 0 0 0 (some 3)) ∧ s.bands.find? 3 = some (waiter 3 5 0 (some 0))
      ∧ (waiter 0 0 0 (some 3)).inTrap = false ∧ (waiter 0 0 0 (some 3)).fusing = some 3 ∧ (waiter 3 5 0 (some 0)).fusing = some 0
      ∧ ((waiter 0 0 0 (some 3)).path.wait.all fun w => w.left = 0) = true
      ∧ (waiter 0 0 0 (some 3)).bid.toNat < (waiter 3 5 0 (some 0)).bid.toNat
      ∧ (laneList (waiter 0 0 0 (some 3)).occ).length + (laneList (waiter 3 5 0 (some 0)).occ).length ≤ 96) :=
  ⟨⟨rfl, by decide⟩, ⟨rfl, by decide, by decide⟩, ⟨rfl, by decide, by decide⟩, ⟨_, ⟨rfl, rfl, rfl, rfl, rfl, rfl⟩, rfl, .inl rfl⟩, rfl, rfl,
    rfl, rfl, rfl, by decide, by decide, by decide⟩

/-- A band whose path waits with some phases. -/
def waiting (w : Wait) : Band := { fetchBand with prog := [(0, pathAt 0x400 1 (some w))] }

/-- A form waits in a band b0 of a machine g b0, and what it waits for is there in a machine f, in which the band is b but waits. -/
def Ends (i e : Instr) (g f : Band → State) (b0 b : Band) : Prop :=
  ∃ w, (g b0).holds b0 ∧ Claims.wakeStep 0 b.ix i e ∧ Claims.wakeKind e = some w.kind
    ∧ let s := f (b.setPath { b.path with wait := some w })
      let s' := Claims.again s 0 b w b0.streams
      Claims.waitsIn s 0 b i w b0.streams ∧ Claims.sameRecord s' w i ∧ Claims.waitOver s' { b with streams := b0.streams } i

/-- The wait that a form leaves. -/
def waitOfForm (i : Instr) (s : State) : Wait :=
  match exec i s with
  | .next t => (t.band.path.wait).getD (aWait .rcv)
  | .fault _ | .refused _ => aWait .rcv

theorem witness_WaitEnds :
    (let w : Wait := { aWait .gbar with phases := [(7, false)] }
      let s := gangCore (waiting w) [(7, { count := 2, arrivals := 0, phase := true })]
      Claims.pathWaits s 0 0 (waiting w) w .gbar
      ∧ ∀ e ∈ w.phases, ((s.core (coreOf 0)).gangs.find? e.1).any (·.phase) ≠ e.2)
    ∧ (let w : Wait := { aWait .mwait with phases := [(7, false)] };
      Claims.pathWaits (here (waiting w)) 0 0 (waiting w) w .mwait ∧ ((here (waiting w)).quad (quadOf 0)).queue = [])
    ∧ (let w := aWait .gstop;
      Claims.pathWaits (here (waiting w)) 0 0 (waiting w) w .gstop ∧ w.cap.la = 0
      ∧ ((here (waiting w)).part 1).graphs.find? (w.cap.scalars.getD 0 0).toNat = none) := by
  refine ⟨⟨⟨rfl, rfl, rfl, rfl, rfl, rfl⟩, by decide⟩, ⟨⟨rfl, rfl, rfl, rfl, rfl, rfl⟩, rfl⟩, ⟨⟨rfl, rfl, rfl, rfl, rfl, rfl⟩, rfl, rfl⟩⟩

theorem ends_of {i e : Instr} {g f : Band → State} {b0 b : Band} (w : Wait) (h1 : Claims.wakeStep 0 b.ix i e)
    (h2 : Claims.wakeKind e = some w.kind) (h3 : { b0 with children := b.children, streams := b.streams } = b)
    (h4 : ∃ t0, exec i (g b0) = .next t0
      ∧ t0.bands.find? 0 = some ({ b0 with streams := b.streams }.setPath { b0.path with wait := some w }))
    (h5 : (g b0).cur = 0) (h6 : (g b0).holds b0) (h7 : b.stopped = false ∧ b.path.v = true)
    (h8 : ∀ x, ((f x).slot 0).state = 1 ∧ (f x).bands.find? 0 = some x ∧ (f x).bands.put 0 x = (f x).bands)
    (h9 : Claims.sameRecord (Claims.again (f (b.setPath { b.path with wait := some w })) 0 b w b0.streams) w i)
    (h : Claims.waitOver (Claims.again (f (b.setPath { b.path with wait := some w })) 0 b w b0.streams) { b with streams := b0.streams } i) :
    Ends i e g f b0 b := by
  obtain ⟨a, c, d⟩ := h8 (b.setPath { b.path with wait := some w })
  obtain ⟨t0, e1, e2⟩ := h4
  have hk : b0.kills = b.kills ∧ b0.killsExtra = b.killsExtra := by rw [← h3]; exact ⟨rfl, rfl⟩
  refine ⟨w, h6, h1, h2, ⟨a, h7.1, h7.2, c, d, g b0, t0, b0, h5, h6, ?_, rfl, e1, e2⟩, h9, h⟩
  rw [← hk.1, ← hk.2]
  exact h3

theorem next_of {o : Host.Outcome State Fault Refusal} {x : Option Band}
    (h : (match o with | .next t => decide (t.bands.find? 0 = x) | .fault _ | .refused _ => false) = true) :
    ∃ t, o = .next t ∧ t.bands.find? 0 = x := by
  match o with
  | .next t => exact ⟨t, rfl, of_decide_eq_true h⟩

theorem ok_eq {ε α : Type} [DecidableEq α] {x : Except ε α} {y : α}
    (h : (match x with | .ok z => decide (z = y) | .error _ => false) = true) : x = .ok y := by
  match x with
  | .ok z => exact congrArg _ (of_decide_eq_true h)

theorem witness_WaitEnds_memory :
    (let b := withS [(4, 0x2000), (6, 1)];
      Ends (.cntw 4 6) (.cntwWake 0 0) here (fun b => { here b with mem := (here b).mem.setBytes 0x2000 [1] }) b b)
    ∧ (let b := withS [(4, 9), (5, 7), (6, 5)]
      let at_ (w : Window) (b : Band) : State := { here b with windows := [(7, w)] }
      Ends (.swacq 4 6) (.swacqWake 0 0) (at_ window7) (at_ { window7 with gen := 5 }) b b)
    ∧ (let b := withS [(8, 7), (10, 2)]
      let x : CircBuf := { tile0 := 0, nslot := 2, recsz := 16, pp := 2, cp := 0, prod := none, cons := none }
      Ends (.cbwait 8 10 9) (.cbwaitWake 0 0) buffered (fun b => (here b).setCore 0 { (here b).core 0 with cbs := [(7, x)] }) b b) :=
  ⟨ends_of (waitOfForm (.cntw 4 6) (here (withS [(4, 0x2000), (6, 1)]))) rfl rfl rfl ⟨_, rfl, rfl⟩ rfl rfl ⟨rfl, rfl⟩ (fun _ => ⟨rfl, rfl, rfl⟩)
      trivial ⟨0x2000, _, rfl, rfl, rfl, rfl, by decide, fun _ h => by cases h; rfl⟩,
    ends_of (waitOfForm (.swacq 4 6) { here (withS [(4, 9), (5, 7), (6, 5)]) with windows := [(7, window7)] }) rfl rfl rfl ⟨_, rfl, rfl⟩ rfl
      rfl ⟨rfl, rfl⟩ (fun _ => ⟨rfl, rfl, rfl⟩) trivial ⟨7, _, rfl, by decide⟩,
    ends_of (waitOfForm (.cbwait 8 10 9) (buffered (withS [(8, 7), (10, 2)]))) rfl rfl rfl ⟨_, rfl, rfl⟩ rfl rfl ⟨rfl, rfl⟩
      (fun _ => ⟨rfl, rfl, rfl⟩) trivial ⟨7, _, ⟨rfl, by decide, rfl, rfl⟩, by decide, by decide, .inl ⟨rfl, by decide⟩⟩⟩

/-- A tile of 24 records that commands read. -/
def readTile (state ver readers : Nat) (b : Band) : State := tiled b 255 { tileOf state ver with readers := readers }

theorem witness_WaitEnds_tiles :
    (let b := withS [(8, 255)];
      Ends (.trel 8) (.trelWake 0 0) (readTile 3 0 1) (readTile 3 0 0) b b)
    ∧ (let b := withS [(8, 255), (9, 1)];
      Ends (.tstAon 8 9) (.tstAonOpenWake 0 0) (readTile 1 0 0) (readTile 2 0 0) b b)
    ∧ (let b := withS [(8, 255), (9, 0xF0000140)];
      Ends (.tldVer 16 8 9) (.tldVerWake 0 0) (readTile 2 1 0) (readTile 2 0 0) b b)
    ∧ (let b := withS [(5, 0xFFFF)];
      Ends (.sts none 2 4 0) (.tileStoreWake 0 0) (fun b => tiled b 0 { tileOf 2 0 with readers := 1 }) (fun b => tiled b 0 (tileOf 2 0)) b b) :=
  ⟨ends_of (waitOfForm (.trel 8) (readTile 3 0 1 (withS [(8, 255)]))) rfl rfl rfl ⟨_, rfl, rfl⟩ rfl rfl ⟨rfl, rfl⟩ (fun _ => ⟨rfl, rfl, rfl⟩) trivial
      ⟨255, _, ⟨by decide, rfl, rfl⟩, rfl, rfl, rfl, rfl⟩,
    ends_of (waitOfForm (.tstAon 8 9) (readTile 1 0 0 (withS [(8, 255), (9, 1)]))) (.inl rfl) rfl rfl ⟨_, rfl, rfl⟩ rfl rfl ⟨rfl, rfl⟩
      (fun _ => ⟨rfl, rfl, rfl⟩) trivial ⟨255, _, ⟨by decide, rfl, rfl⟩, rfl, .inl ⟨rfl, rfl, rfl⟩⟩,
    ends_of (waitOfForm (.tldVer 16 8 9) (readTile 2 1 0 (withS [(8, 255), (9, 0xF0000140)]))) rfl rfl rfl ⟨_, rfl, rfl⟩ rfl rfl ⟨rfl, rfl⟩
      (fun _ => ⟨rfl, rfl, rfl⟩) trivial ⟨255, _, 0x140, 16, ⟨by decide, rfl, rfl⟩, rfl, by decide, by decide, by decide, rfl, rfl, by decide,
        rfl, by decide, rfl, rfl, fun _ _ => rfl⟩,
    ends_of (waitOfForm (.sts none 2 4 0) (tiled (withS [(5, 0xFFFF)]) 0 { tileOf 2 0 with readers := 1 })) rfl rfl rfl ⟨_, rfl, rfl⟩ rfl rfl
      ⟨rfl, rfl⟩ (fun _ => ⟨rfl, rfl, rfl⟩) trivial ⟨_, _, _, rfl, rfl, rfl⟩⟩

/-- A tile whose bytes another tile shares, which commands read, and a band with a path that waits to store there. -/
def sharedTile (state ver readers : Nat) (b : Band) : State :=
  (here b).setCore 0 { (here b).core 0 with tiles := [(0, { tileOf 2 0 with readers := readers }), (255, tileOf state ver)] }
def storing : Band := { twoPaths 0x500 (some (aWait .tileStore)) with sregs := [(8, 255)] }

theorem witness_WaitEnds_brackets :
    Ends (.tcommit 8) (.tcommitWake 0 0) (sharedTile 1 0 1) (sharedTile 1 0 0) storing storing
    ∧ Ends (.tstAon 8 10) (.tstAonCloseWake 0 0) (sharedTile 2 1 1) (sharedTile 2 1 0) storing storing :=
  ⟨ends_of (waitOfForm (.tcommit 8) (sharedTile 1 0 1 storing)) rfl rfl rfl ⟨_, rfl, rfl⟩ rfl rfl ⟨rfl, rfl⟩ (fun _ => ⟨rfl, rfl, rfl⟩) trivial
      ⟨255, _, ⟨by decide, rfl, rfl⟩, rfl, rfl, rfl, by decide⟩,
    ends_of (waitOfForm (.tstAon 8 10) (sharedTile 2 1 1 storing)) (.inr rfl) rfl rfl ⟨_, rfl, rfl⟩ rfl rfl ⟨rfl, rfl⟩
      (fun _ => ⟨rfl, rfl, rfl⟩) trivial ⟨255, _, ⟨by decide, rfl, rfl⟩, rfl, .inr ⟨rfl, rfl, by decide⟩⟩⟩

theorem witness_WaitEnds_stores :
    (let b := withS [(5, 0xFFFF)];
      Ends (.stw none 2 4 0) (.tileStoreWake 0 0) (fun b => tiled b 0 { tileOf 2 0 with readers := 1 }) (fun b => tiled b 0 (tileOf 2 0)) b b)
    ∧ (let at_ (n : Nat) : Band := { fetchBand with streams := [(3, { rcd := { rowOf 1 with base := 0xFFFF00000000 }, pos := n })] };
      Ends (.sst 2 3) (.tileStoreWake 0 0) (fun b => tiled b 0 { tileOf 2 0 with readers := 1 }) (fun b => tiled b 0 (tileOf 2 0))
        (at_ 0) (at_ 1))
    ∧ (let b := withS [(4, 0x2000), (6, 0x3000), (8, 255)]
      let at_ (n : Nat) (b : Band) : State := { readTile 2 0 n b with
        mem := (here b).mem.setBytes 0x2000 (rowBytes 4), quads := [(0, { Quad.init with owner := 1 })] }
      Ends (.cpt 8 4 6) (.tileStoreWake 0 0) (at_ 1) (at_ 0) b b) :=
  ⟨ends_of (waitOfForm (.stw none 2 4 0) (tiled (withS [(5, 0xFFFF)]) 0 { tileOf 2 0 with readers := 1 })) rfl rfl rfl ⟨_, rfl, rfl⟩ rfl rfl
      ⟨rfl, rfl⟩ (fun _ => ⟨rfl, rfl, rfl⟩) trivial ⟨_, _, rfl, rfl, reach_of (by decide), by decide⟩,
    ends_of (waitOfForm (.sst 2 3) (tiled { fetchBand with streams := [(3, { rcd := { rowOf 1 with base := 0xFFFF00000000 }, pos := 0 })] } 0
      { tileOf 2 0 with readers := 1 })) rfl rfl rfl ⟨_, rfl, rfl⟩ rfl rfl ⟨rfl, rfl⟩ (fun _ => ⟨rfl, rfl, rfl⟩) trivial
      ⟨_, rfl, nofun, rfl, elements_reach (by decide), by decide⟩,
    ends_of (waitOfForm (.cpt 8 4 6) { readTile 2 0 1 (withS [(4, 0x2000), (6, 0x3000), (8, 255)]) with
        mem := (here fetchBand).mem.setBytes 0x2000 (rowBytes 4), quads := [(0, { Quad.init with owner := 1 })] }) rfl (by decide +kernel) rfl
      (next_of (by decide +kernel)) rfl rfl ⟨rfl, rfl⟩ (fun _ => ⟨rfl, rfl, rfl⟩) (ok_eq (by decide +kernel)) ⟨0x2000, 0x3000, _, rowOf 4, 255, rfl,
        by decide, rfl, rfl, rfl, by decide +kernel, rfl, rfl, rfl, by decide, .inr ⟨rfl, rfl⟩⟩⟩

/-- A wait of a form with the scalars and the vectors that it has captured. -/
def waitFor (k : WaitKind) (i : Instr) (xs : List Word) (vs : List (Tab Word)) : Wait :=
  let w := aWait k
  { w with cap := { w.cap with word := wordOf i, scalars := xs, vecs := vs, lanes := 1, la := 0, wide := none, mr := 4 } }

/-- A path that waits has what it waits for: counters, a window and a child; a buffer of records, and one with room. -/
theorem witness_WaitEnds_now :
    (let w := waitFor .cntw (.cntw 4 6) [0x2000, 0, 1, 0] []
      let s : State := { here (waiting w) with mem := (here (waiting w)).mem.setBytes 0x2000 [1] }
      let r := Claims.resumed s 0 0 (waiting w) w
      let u := Claims.waitIssuer 0 (waiting w) w 5;
      (w.cap.la = 0 ∧ Claims.pathWaits s 0 0 (waiting w) w .cntw) ∧ Claims.waitAddress w 0 = some 0x2000 ∧ isSpad 0x2000 = false
      ∧ ∃ p, access r u 0x2000 (.read 8) true = .ok p ∧ 1 ≤ counterRead r u p.1
        ∧ ∀ l, Claims.homeLine p.1 = some (none, l) → engineTurn r (owningCluster l) (corePort (coreOf 0) (owningCluster l)) l 1 = true)
    ∧ (∀ m ∈ [((0 : Word), (1 : Nat)), (1, 0)],
      let w := waitFor .cbwait (.cbwait 8 10 9) [7, 1, m.1] []
      let x : CircBuf := { tile0 := 0, nslot := 2, recsz := 16, pp := m.2, cp := 0, prod := none, cons := none }
      let s := (here (waiting w)).setCore 0 { (here (waiting w)).core 0 with cbs := [(7, x)] }
      (w.cap.la = 0 ∧ Claims.pathWaits s 0 0 (waiting w) w .cbwait)
      ∧ Claims.waitBuffer (Claims.resumed s 0 0 (waiting w) w) 0 1 7 x ∧ (m.1 = 0 ∧ 1 ≤ x.available ∨ m.1 = 1 ∧ 1 ≤ x.room))
    ∧ (let w := waitFor .swacq (.swacq 4 6) [9, 7, 5] []
      let s : State := { here (waiting w) with windows := [(7, { window7 with gen := 5 })] };
      (w.cap.la = 0 ∧ Claims.pathWaits s 0 0 (waiting w) w .swacq)
      ∧ windowOf (Claims.resumed s 0 0 (waiting w) w) 1 9 7 = some (7, { window7 with gen := 5 }))
    ∧ (∀ x ∈ [(0 : Word), 9],
      let w := waitFor .lwait (.lwait 2 1) [x] []
      let b : Band := { waiting w with kills := [9] }
      (w.cap.la = 0 ∧ Claims.pathWaits (here b) 0 0 b w .lwait) ∧ b.children = [] ∧ Claims.plainDest (destOf w.cap.word)) := by
  refine ⟨⟨⟨rfl, rfl, rfl, rfl, rfl, rfl, rfl⟩, rfl, rfl, _, rfl, by decide, fun l h => by cases h; rfl⟩, ?_,
    ⟨⟨rfl, rfl, rfl, rfl, rfl, rfl, rfl⟩, rfl⟩, ?_⟩
  · intro m hm
    simp only [List.mem_cons, List.not_mem_nil, or_false] at hm
    obtain rfl | rfl := hm <;> exact ⟨⟨rfl, rfl, rfl, rfl, rfl, rfl, rfl⟩, ⟨by decide, rfl, rfl⟩, by decide⟩
  · intro x hx
    simp only [List.mem_cons, List.not_mem_nil, or_false] at hx
    obtain rfl | rfl := hx <;> exact ⟨⟨rfl, rfl, rfl, rfl, rfl, rfl, rfl⟩, rfl, by unfold Claims.plainDest; decide⟩

/-- Tiles in the state that a waiting form needs, without readers and without stores that wait. -/
theorem witness_WaitEnds_tileNow :
    (∀ x ∈ [(WaitKind.tcommit, Instr.tcommit 8, [(255 : Word)], tileOf 1 0), (.trel, .trel 8, [255], tileOf 3 0),
        (.tstOpen, .tstAon 8 9, [255, 1], tileOf 2 0), (.tstClose, .tstAon 8 9, [255, 0], tileOf 2 1),
        (.tldVer, .tldVer 16 8 9, [255, 0xF0000140], tileOf 2 0)],
      let w := waitFor x.1 x.2.1 x.2.2.1 []
      let s := tiled (waiting w) 255 x.2.2.2
      let r := Claims.resumed s 0 0 (waiting w) w;
      (w.cap.la = 0 ∧ Claims.pathWaits s 0 0 (waiting w) w x.1) ∧ Claims.waitTile r 0 1 255 255 x.2.2.2
      ∧ graphTile r 0 255 = false ∧ storesPending r 255 x.2.2.2 = false)
    ∧ (let w := waitFor .tldVer (.tldVer 16 8 9) [255, 0xF0000140] [];
      (0xF0000140 : Word) = BitVec.ofNat 32 (0x140 + 2 ^ 28 * (16 - 1)) ∧ 0x140 + 4 * 16 ≤ 16 * (tileOf 2 0).len
      ∧ ∀ j, j < 16 → Claims.plainDest ((destOf w.cap.word).val + j)) := by
  refine ⟨?_, by decide, by decide, ?_⟩
  · intro x hx
    simp only [List.mem_cons, List.not_mem_nil, or_false] at hx
    obtain rfl | rfl | rfl | rfl | rfl := hx <;> exact ⟨⟨rfl, rfl, rfl, rfl, rfl, rfl, rfl⟩, ⟨by decide, rfl, rfl, rfl⟩, by decide, by decide⟩
  · intro j hj
    have : (destOf (waitFor .tldVer (.tldVer 16 8 9) [255, 0xF0000140] []).cap.word).val = 16 := by decide
    rw [this]
    unfold Claims.plainDest
    omega

/-- A result that arrives. -/
def resultOf (windows : Tab Nat) : ResultEntry :=
  { id := 3, order := 3, inTrap := false, path := 0, long := true, weight := some 7, windows := windows, writes := [], arrived := false
    pending := 0 }

theorem occ_ne : (1 : Lanes) ≠ 0 := by decide

theorem witness_ResultArrivals :
    (∀ n ∈ [0, 15], ∃ b e, (here b).bands.find? 0 = some b ∧ e.weight = some 7 ∧ b.results[0]? = some e ∧ e.closed = decide (n = 0) ∧ e.arrived = false
      ∧ e.pending = 0 ∧ b.occ ≠ 0 ∧ (b.results.map (·.id)).Nodup ∧ ∀ x ∈ b.results, x.arrived = true → x.closed = false)
    ∧ ∃ b e, (here b).bands.find? 0 = some b ∧ b.results = [e] ∧ e.closed = true ∧ b.occ = 0 := by
  refine ⟨fun n h => ⟨{ fetchBand with results := [resultOf [(0, n)]] }, resultOf [(0, n)], rfl, rfl, rfl, ?_, rfl, rfl, occ_ne, List.pairwise_singleton _ _, ?_⟩,
    { fetchBand with occ := 0, results := [resultOf []] }, resultOf [], rfl, rfl, rfl, rfl⟩
  · simp [ResultEntry.closed, resultOf]
  · intro x hx
    obtain rfl : x = resultOf [(0, n)] := by simpa using hx
    exact nofun

theorem witness_Prefixes :
    (let s := hereM fetchBand 0x1004 (wordBytes 0x10003042);
      s.holds fetchBand ∧ fetchWord s (fetchBand.pc + 4) = .ok 0x10003042
      ∧ decodePlain (0x10003042 : Word).toNat = .ok (.add 3 1 2) ∧ targetOk 0x10003042 7 = true
      ∧ illegalAlone (.add 3 1 2) s = false ∧ followerOk 0x10003042 = false
      ∧ ∃ e, Claims.salu (fetchBand.setPath { fetchBand.path with
          pc := fetchBand.path.pc + 1, rep := some { count := 64, remaining := 64, mask := 7 } }) (.add 3 1 2) = some e)
    ∧ (let s := hereM fetchBand 0x1004 (wordBytes 0x180C1005);
      fetchWord s (fetchBand.pc + 4) = .ok 0x180C1005 ∧ decodePlain (0x180C1005 : Word).toNat = .ok (.addi 3 1 5)
      ∧ followerOk 0x180C1005 = true
      ∧ ∃ e, Claims.salui (fetchBand.setPath { fetchBand.path with pc := fetchBand.path.pc + 1, limm := some 77 }) (.addi 3 1 5) = some e) := by
  refine ⟨⟨rfl, rfl, rfl, by decide, by decide +kernel, by decide, _, rfl⟩, rfl, rfl, by decide, _, rfl⟩

theorem witness_Exits :
    (let b : Band := { fetchBand with mask := 0, occ := 3 };
      (here b).holds b ∧ b.inTrap = false ∧ b.mfaults = [] ∧ b.enabled = 0)
    ∧ (let b : Band := { fetchBand with mask := 3, occ := 3, mr := 0x1104, sregs := [(39, 1)] };
      b.enabled ≠ 0 ∧ b.occ &&& ~~~b.enabled ≠ 0 ∧ b.mask &&& ~~~b.enabled ≠ 0)
    ∧ (let b := twoPaths 0x500 none;
      b.enabled ≠ 0 ∧ b.occ &&& ~~~b.enabled ≠ 0 ∧ b.mask &&& ~~~b.enabled = 0)
    ∧ ((here fetchBand).holds fetchBand ∧ fetchBand.enabled ≠ 0 ∧ fetchBand.mask &&& ~~~fetchBand.enabled = 0
      ∧ fetchBand.occ &&& ~~~fetchBand.enabled = 0 ∧ fetchBand.results = []) :=
  ⟨⟨rfl, rfl, rfl, by decide⟩, by decide, by decide, rfl, by decide, by decide, by decide, rfl⟩

/-- The machine whose partition has a frame heap, a template and a task queue. -/
def framed (b : Band) : State :=
  let page : TlbEntry := { farPage with va := 0x100000, pa := 0x100000, dev := none }
  { here b with tlb := [page] }.modPart 1 fun p => { p with
    fhbase := 0x100000, fhlen := 0x1000, templates := [(3, (0x8000, 2))]
    tasks := [(63, { ring := 0x9000, words := 4, cls := 1, home := 0, wr := 1, rd := 0, lastW := none, lastR := none
                     stopped := false, read := [] })] }

/-- A record of a child launch in s8 to s15, class 1. -/
def launchRegs : Tab Word := [(8, 0x4000), (10, 97), (11, 0x10001)]

theorem witness_LaunchForms :
    (let b := withS launchRegs;
      (framed b).holds b ∧ (Instr.launch 1 8).wf = true ∧ launchOk ((List.range 8).map fun k => b.sreg (8 + k)) = true
      ∧ (b.sreg 8).toNat + 2 ^ 32 * (b.sreg 9).toNat = 0x4000 ∧ (b.sreg 13).toNat + 2 ^ 32 * (b.sreg 14).toNat = 0 ∧ isSpad 0 = false
      ∧ b.level < 7 ∧ b.cls ≤ ((b.sreg 11).extractLsb' 16 2).toNat ∧ launchFull (framed b) b = false ∧ atomicsPend (framed b) b false = false
      ∧ (makeLaunch (framed b) (Claims.childLaunch (framed b) b (fun k => b.sreg (8 + k)) 0x4000 0) ((b.sreg 11).extractLsb' 0 11).toNat
          (b.disp1 b.level).toNat (List.replicate (64 * ((b.sreg 11).extractLsb' 0 11).toNat) 0) (b.sreg 12).toNat
          (displayOf b.disp (b.level + 1))).isSome = true)
    ∧ (let b : Band := { withS launchRegs with children := List.replicate 16 9 };
      launchFull (framed b) b = true)
    ∧ (let b : Band := { withS [(1, 9)] with children := [9] };
      (here b).holds b ∧ (Instr.lwait 2 1).wf = true ∧ b.sreg 1 ≠ 0 ∧ b.sreg 1 ∈ b.children ∧ b.sreg 3 = 0 ∧ b.children ≠ [])
    ∧ (let b : Band := { withS [(1, 63)] with vregs := [(96 * 4, 0x30001)] };
      (framed b).holds b ∧ (Instr.qput 4 1).wf = true ∧ b.vregs? (4 : VReg).val 2 = true ∧ (b.sreg 1).toNat = 63
      ∧ (∀ l ∈ laneList b.enabled, ∃ a m, ((framed b).part b.part).templates.find? ((b.vlane (4 : VReg).val l).toNat / 2 ^ 16) = some (a, m)
        ∧ (b.vlane (4 : VReg).val l).toNat % 2 ^ 16 < m)
      ∧ ∃ x ws x', ((framed b).part b.part).tasks.find? 63 = some x
        ∧ appendTasks ((laneList b.enabled).map fun l => (b.vlane 4 l, b.vlane 5 l)) x x.wr = (ws, x')) := by
  refine ⟨⟨rfl, rfl, by decide, rfl, rfl, rfl, by decide, by decide, by decide +kernel, by decide +kernel, by decide +kernel⟩, by decide +kernel,
    ⟨rfl, rfl, by decide, by decide, rfl, by decide⟩, rfl, rfl, rfl, rfl, ?_, _, _, _, rfl, rfl⟩
  have ls : laneList (withS [(1, 63)]).enabled = [0] := by decide
  intro l hl
  have hl : l ∈ laneList (withS [(1, 63)]).enabled := hl
  rw [ls, List.mem_singleton] at hl
  subst hl
  exact ⟨0x8000, 2, rfl, by decide⟩

/-- A matrix command of the band, with operands in binary32, and a machine whose quadrant has commands. -/
def fb32 : List Word := [0x30000000, 0, 0, 0, 0x30000000, 0, 0, 0]
def cmd (fn : Nat) (rcd : List Word) (stage : CmdStage) : Cmd :=
  { seq := 9, ref := { lnch := 1, bid := 0, slot := 0 }, u := { user with cls := 2 }, id := 4, fn := fn, rcd := rcd, mr := 4, preds := []
    after := [], accs := accsOf fn rcd, cb := if fn = 2 then mloopCb rcd else none, reads := [], stage := stage, done := 0, lo := 0
    hi := 0, pc := 0, word := 0, mask := 1, fb := fb32, firing := none }
def inQuad (b : Band) (qd : Quad) : State := { here b with quads := [(0, { qd with owner := 1 })] }
def queue (cs : List Cmd) : Quad := { Quad.init with queue := cs }

/-- Records: an MZERO of tile 0; a WLD of one image; an MLOOP of one step on tile 1; an MLD and an MST of accumulator 0. -/
def zeroRec : List Word := [1]
def wldRec : List Word := [0x8000, 0, 256, 16, 0, 0x2080, 1, 0x100]
def loopRec : List Word := [1, 0, 0, 0, 0, 1, 0x100]
def mldRec : List Word := [0x8000, 0, 128, 0]
def mstRec : List Word := [0x8000, 0, 128, 0x40, 0]

theorem witness_MatrixPosts :
    (∀ x ∈ [(Instr.mfmt 1 63 4 8, 0, [8]), (.wld 1 63 4 8, 1, wldRec), (.mloop 1 63 4 8, 2, loopRec), (.mzero 1 63 4 8, 3, zeroRec),
        (.mld 1 63 4 8, 4, mldRec), (.mst 1 63 4 8, 5, mstRec)],
      x.1.wf = true ∧ Claims.posts x.1 = some (x.2.1, 1, [63, 4], 8)
      ∧ recordOk x.2.1 4 ((List.range (recordLength x.2.1)).map fun k => x.2.2.getD k 0) = true)
    ∧ (let b := withS [(8, 1)];
      (inQuad b (queue [])).holds b ∧ b.mfaults = [] ∧ ((List.range 1).map fun k => b.sreg (8 + k)) = zeroRec
      ∧ (∀ a ∈ accsOf 3 zeroRec, ∀ o, ((inQuad b (queue [])).quad 0).accOwn.find? a = some o → False)
      ∧ ¬ (64 ≤ (((inQuad b (queue [])).quad 0).queue.filter fun c => c.stage ≠ .suspended).length)
      ∧ Claims.named (inQuad b (queue [])) 0 b 1 = none ∧ Claims.named (inQuad b (queue [])) 0 b 4 = none ∧ b.cmdEnds.find? 4 = none
      ∧ Claims.named (inQuad b (queue [cmd 3 zeroRec .posted])) 0 b 4 ≠ none)
    ∧ (let c := cmd 3 zeroRec .running;
      (Claims.commands (inQuad fetchBand (queue [])) 0 fetchBand).filter (fun c => (63 : Fin 64).val = 63 || c.id = (63 : Fin 64).val) = []
      ∧ (Claims.commands (inQuad fetchBand (queue [c])) 0 fetchBand).filter (fun c => (4 : Fin 64).val = 63 || c.id = (4 : Fin 64).val) ≠ []
      ∧ (Instr.mquery 63 62).wf = true) := by
  refine ⟨by decide, ⟨rfl, rfl, rfl, ?_, by decide, by decide, by decide, rfl, by decide⟩, by decide, by decide, rfl⟩
  intro a _ o h
  cases h

/-- A machine whose task queue holds so many words. -/
def filled (n : Nat) (b : Band) : State :=
  (framed b).modPart 1 fun p => { p with
    tasks := [(63, { ring := 0x9000, words := 4, cls := 1, home := 0, wr := n, rd := 0, lastW := none, lastR := none
                     stopped := false, read := [] })] }

theorem witness_WaitEnds_launches :
    Ends (.lwait 2 1) (.lwaitWake 0 0) here here { withS [(1, 9)] with children := [9] } { withS [(1, 9)] with children := [] }
    ∧ Ends (.launch 1 8) (.launchWaitWake 0 0) framed framed { withS launchRegs with children := List.replicate 16 9 }
        { withS launchRegs with children := [] }
    ∧ (let b : Band := { withS [(1, 63)] with vregs := [(96 * 4, 0x30001)] };
      Ends (.qput 4 1) (.qputWaitWake 0 0) (filled 4) (filled 0) b b)
    ∧ (let b := withS [(8, 1)];
      Ends (.mzero 4 63 63 8) (.mtxPostWake 0 0) (fun b => inQuad b (queue [cmd 3 zeroRec .posted])) (fun b => inQuad b (queue [])) b b) := by
  refine ⟨ends_of (waitOfForm (.lwait 2 1) (here { withS [(1, 9)] with children := [9] })) rfl rfl rfl ⟨_, rfl, rfl⟩ rfl rfl ⟨rfl, rfl⟩
      (fun _ => ⟨rfl, rfl, rfl⟩) trivial ?_,
    ends_of (waitOfForm (.launch 1 8) (framed { withS launchRegs with children := List.replicate 16 9 })) rfl (by decide +kernel) rfl
      (next_of (by decide +kernel)) rfl rfl ⟨rfl, rfl⟩ (fun _ => ⟨rfl, rfl, rfl⟩) trivial
      ⟨0x4000, 0, by decide, rfl, by decide, rfl, by decide, rfl, rfl, by decide, by decide, by decide +kernel, by decide +kernel⟩,
    ends_of (waitOfForm (.qput 4 1) (filled 4 { withS [(1, 63)] with vregs := [(96 * 4, 0x30001)] })) rfl (by decide +kernel) rfl
      (next_of (by decide +kernel)) rfl rfl ⟨rfl, rfl⟩ (fun _ => ⟨rfl, rfl, rfl⟩) trivial ⟨by decide +kernel, 63, _, rfl, by decide, rfl,
        by decide +kernel, by decide +kernel⟩,
    ends_of (waitOfForm (.mzero 4 63 63 8) (inQuad (withS [(8, 1)]) (queue [cmd 3 zeroRec .posted]))) rfl rfl rfl ⟨_, rfl, rfl⟩ rfl rfl ⟨rfl, rfl⟩
      (fun _ => ⟨rfl, rfl, rfl⟩) trivial ⟨by decide, ?_⟩⟩
  · exact (List.not_mem_nil : (9 : Word) ∉ [])
  · intro fn id ps r h
    cases h
    refine ⟨by decide, ?_, nofun⟩
    intro a _ o h
    cases h

/-- Paths that wait to store, to launch, to append tasks and to post a command, with what they wait for there: for a store, each width and
a tile that has lost its readers. -/
theorem witness_WaitEnds_post :
    (∀ x ∈ [(Instr.stb none 1 4 3, 1, (3 : BitVec 6)), (.sth none 1 4 63, 2, 63), (.stw none 1 4 0, 4, 0), (.std none 2 4 0, 8, 0),
        (.stq none 4 4 0, 16, 0)],
      let w := waitFor .tileStore x.1 [0x0, 0xFFFF] (List.replicate ((x.2.1 + 3) / 4) [(0, 0x01020304)])
      let s := tiled (waiting w) 0 (tileOf 2 0)
      let r := Claims.resumed s 0 0 (waiting w) w
      let u := Claims.waitIssuer 0 (waiting w) w 0
      let base := (0xFFFF00000000 + x.2.1 * x.2.2.toNat) % 2 ^ 48;
      (w.cap.la = 0 ∧ Claims.pathWaits s 0 0 (waiting w) w .tileStore) ∧ x.1.wf = true ∧ Claims.linearStore x.1 x.2.1 x.2.2
      ∧ w.cap.word = wordOf x.1 ∧ w.cap.wide = none ∧ w.cap.vecs.length = (x.2.1 + 3) / 4 ∧ Claims.waitAddress w 0 = some 0xFFFF00000000
      ∧ ((laneList w.cap.lanes).all fun l => isOk (access r u ((base + l * x.2.1) % 2 ^ 48) (.write x.2.1) false)) = true
      ∧ ∀ e ∈ Claims.waitWrites r u w base x.2.1, busyLoc r x.2.1 e.1 = false)
    ∧ (let w := waitFor .launch (.launch 1 8) [0x4000, 0, 97, 0x10001, 0, 0, 0, 0] []
      let b := waiting w
      let s := framed b
      let r := Claims.resumed s 0 0 b w;
      (w.cap.la = 0 ∧ Claims.pathWaits s 0 0 b w .launch) ∧ launchOk w.cap.scalars = true ∧ Claims.waitAddress w 0 = some 0x4000
      ∧ Claims.waitAddress w 5 = some 0 ∧ isSpad 0 = false ∧ b.level < 7 ∧ b.cls ≤ ((0x10001 : Word).extractLsb' 16 2).toNat
      ∧ launchFull r r.band = false ∧ atomicsPend r r.band false = false
      ∧ (makeLaunch r (Claims.childLaunch r r.band (fun j => w.cap.scalars.getD j 0) 0x4000 0) 1 (b.disp1 b.level).toNat
          (List.replicate 64 0) 0 (displayOf b.disp (b.level + 1))).isSome = true
      ∧ Claims.plainDest (destOf w.cap.word))
    ∧ (let w := waitFor .qput (.qput 4 1) [63] [[(0, 0x30001)], [(0, 5)]]
      let b := waiting w
      let s := filled 0 b
      let r := Claims.resumed s 0 0 b w;
      (w.cap.la = 0 ∧ Claims.pathWaits s 0 0 b w .qput) ∧ atomicsPend r r.band false = false ∧ nodeKnown s 1 0x30001 = true
      ∧ ∃ y ws y', (s.part b.part).tasks.find? 63 = some y ∧ appendTasks [(0x30001, 5)] y y.wr = (ws, y')
        ∧ y.wr - y.rd + ws.length ≤ y.words)
    ∧ (let i := Instr.mzero 4 63 63 8
      let w := waitFor .mtxPost i zeroRec []
      let b := waiting w
      let s := inQuad b (queue []);
      (w.cap.la = 0 ∧ Claims.pathWaits s 0 0 b w .mtxPost) ∧ i.wf = true ∧ Claims.posts i = some (3, 4, [63, 63], 8)
      ∧ w.cap.word = wordOf i ∧ recordOk 3 w.cap.mr w.cap.scalars = true ∧ (s.quad 0).accOwn = []
      ∧ ((s.quad 0).queue.filter fun c => c.stage ≠ .suspended).length < 64 ∧ Claims.named s 0 b 4 = none) := by
  refine ⟨?_, ⟨⟨rfl, rfl, rfl, rfl, rfl, rfl, rfl⟩, by decide, rfl, rfl, rfl, by decide, by decide, by decide +kernel, by decide +kernel,
    by decide +kernel, by unfold Claims.plainDest; decide⟩, ⟨⟨rfl, rfl, rfl, rfl, rfl, rfl, rfl⟩, by decide +kernel, by decide +kernel,
    _, _, _, rfl, rfl, by decide⟩, ⟨⟨rfl, rfl, rfl, rfl, rfl, rfl, rfl⟩, rfl, rfl, rfl, by decide, rfl, by decide, by decide⟩⟩
  intro x hx
  simp only [List.mem_cons, List.not_mem_nil, or_false] at hx
  unfold Claims.linearStore
  obtain rfl | rfl | rfl | rfl | rfl := hx
  · exact ⟨⟨rfl, rfl, rfl, rfl, rfl, rfl, rfl⟩, rfl, ⟨none, 1, 4, by simp⟩, rfl, rfl, rfl, rfl, by decide, by decide⟩
  · exact ⟨⟨rfl, rfl, rfl, rfl, rfl, rfl, rfl⟩, rfl, ⟨none, 1, 4, by simp⟩, rfl, rfl, rfl, rfl, by decide, by decide⟩
  · exact ⟨⟨rfl, rfl, rfl, rfl, rfl, rfl, rfl⟩, rfl, ⟨none, 1, 4, by simp⟩, rfl, rfl, rfl, rfl, by decide, by decide⟩
  · exact ⟨⟨rfl, rfl, rfl, rfl, rfl, rfl, rfl⟩, rfl, ⟨none, 2, 4, by simp⟩, rfl, rfl, rfl, rfl, by decide, by decide⟩
  · exact ⟨⟨rfl, rfl, rfl, rfl, rfl, rfl, rfl⟩, rfl, ⟨none, 4, 4, by simp⟩, rfl, rfl, rfl, rfl, by decide, by decide⟩

/-- The format block of two binary32 halves in the scratchpad at 0x100, and a ready tile. -/
def fbMem (s : State) : State := { s with spad := s.spad.setBytes 0x100 (leBytes 4 0x30000000 ++ leBytes 12 0 ++ leBytes 4 0x30000000) }
def readyTile (s : State) : State := s.setCore 0 { s.core 0 with tiles := [(1, { tileOf 2 0 with len := 1024 })] }

theorem witness_MatrixIssues :
    (∀ fn ∈ [0, 3], ((inQuad fetchBand (queue [cmd fn zeroRec .posted])).quad 0).queue[0]? = some (cmd fn zeroRec .posted)
      ∧ matrixBusy ((inQuad fetchBand (queue [cmd fn zeroRec .posted])).quad 0) = false
      ∧ unitTurn (inQuad fetchBand (queue [cmd fn zeroRec .posted])) 0 (cmd fn zeroRec .posted) = true)
    ∧ (let c := cmd 1 wldRec .posted
      let s := fbMem (inQuad fetchBand (queue [c]))
      (s.quad 0).queue[0]? = some c ∧ unitTurn s 0 c = true ∧ transferBusy (s.quad 0) = false ∧ writerRuns s (0 / 4) c = false
      ∧ readFb s c.u (c.rcd.getD 7 0).toNat = .ok fb32 ∧ (wldAddr c.rcd (kindBytes (half.kind (fbHalf fb32 1))) 0 0 0) % 4 = 0)
    ∧ (let c := cmd 2 loopRec .posted
      let s := readyTile (fbMem (inQuad fetchBand (queue [c])))
      c.cb = none ∧ unitTurn s 0 c = true ∧ matrixBusy (s.quad 0) = false ∧ writerRuns s (0 / 4) c = false ∧ ((c.rcd.getD 0 0).extractLsb' 0 10).toNat = 1
      ∧ sliceOwner s (0 / 4) (1 / 256) = c.u.part ∧ (tileAt s (0 / 4) 1).state = 2 ∧ readFb s c.u (c.rcd.getD 6 0).toNat = .ok fb32)
    ∧ (let c := cmd 2 (loopRec.set 0 0x80000007) .posted
      let x : CircBuf := { tile0 := 0, nslot := 2, recsz := 16, pp := 1, cp := 0, prod := none, cons := none }
      let s := (fbMem (inQuad fetchBand (queue [c]))).setCore 0 { CoreState.init with cbs := [(7, x)] }
      c.cb = some 7 ∧ unitTurn s 0 c = true ∧ matrixBusy (s.quad 0) = false ∧ writerRuns s (0 / 4) c = false ∧ readFb s c.u (c.rcd.getD 6 0).toNat = .ok fb32
      ∧ (s.core (0 / 4)).cbs.find? 7 = some x ∧ (half.sc (fbHalf fb32 0) = true → 2 ^ half.blk (fbHalf fb32 0) ≤ depth (half.kind (fbHalf fb32 0)))
      ∧ ∀ j, j < x.nslot → sliceOwner s (0 / 4) ((x.tile0 + j) / 256) = c.u.part)
    ∧ (let c := cmd 4 mldRec .posted;
      unitTurn (inQuad fetchBand (queue [c])) 0 c = true ∧ transferBusy ((inQuad fetchBand (queue [c])).quad 0) = false ∧ writerRuns (inQuad fetchBand (queue [c])) (0 / 4) c = false
      ∧ accIs64 ((inQuad fetchBand (queue [c])).quad 0) 0 = false ∧ (rowAddr c.rcd 0) % 4 = 0 ∧ (c.rcd.getD 2 0).toNat % 4 = 0)
    ∧ (let c := cmd 5 mstRec .posted;
      unitTurn (inQuad fetchBand (queue [c])) 0 c = true ∧ transferBusy ((inQuad fetchBand (queue [c])).quad 0) = false ∧ mstCompanion c.rcd = none
      ∧ (rowAddr c.rcd 0) % mstBytes c.rcd = 0 ∧ (c.rcd.getD 2 0).toNat % mstBytes c.rcd = 0) := by
  refine ⟨by decide, ⟨rfl, by decide, by decide, by decide, rfl, by decide⟩, ⟨rfl, by decide, by decide, by decide, rfl, rfl, rfl, rfl⟩,
    ⟨rfl, by decide, by decide, by decide, rfl, rfl, by decide, ?_⟩, by decide, by decide⟩
  intro j hj
  have : j = 0 ∨ j = 1 := by simp only at hj; omega
  obtain rfl | rfl := this <;> rfl

/-- What a step reads for the widest accumulator. -/
def wideRun : State :=
  let img : SagImage := { units := 130, kind := 4, desc := 0, blk := 32, scaled := false, elems := [], scales := [], bad := false }
  let c : Cmd := { cmd 2 loopRec .running with fb := [0x40000000, 0, 0, 0, 0x40000000, 0, 0, 0] }
  readyTile (inQuad fetchBand { queue [c] with images := [(0, img)], accFmt := [(0, 1)] })

theorem witness_MatrixSteps :
    (let c := cmd 3 zeroRec .running;
      List.find? (fun x : Cmd => x.stage = .running && (x.fn = 0 || x.fn = 3)) ((inQuad fetchBand (queue [c])).quad 0).queue = some c)
    ∧ (let c := cmd 1 wldRec .running
      let s := inQuad fetchBand (queue [c])
      let h := fbHalf c.fb 1
      Claims.runs s 0 1 c ∧ transferBusy (s.quad 0) = false ∧ unitTurn s 0 c = true
      ∧ portsDown s c.u ((List.range 32).flatMap fun j => lineRuns (depth (half.kind h) * kindBytes (half.kind h))
          (wldAddr c.rcd 1 c.done j 0) (depth (half.kind h) * kindBytes (half.kind h))) = false
      ∧ (match readBlocksOf s c h c.done (blockLen h) ((List.range 32).flatMap fun j => (List.range (blockCount h)).map fun k => (j, k)) with
        | .ok raw => (compress h raw).any fun bs => decide (imageLength h bs ≤ (c.rcd.getD 5 0).toNat
            ∧ (c.rcd.getD 4 0).toNat + c.done * (c.rcd.getD 5 0).toNat + imageLength h bs ≤ 2 ^ 18)
        | .error _ => false) = true)
    ∧ (∃ c img a, List.find? (stepReady wideRun 0) (wideRun.quad 0).queue = some c ∧ matrixBusy (wideRun.quad 0) = false
      ∧ unitTurn wideRun 0 c = true ∧ (wideRun.quad 0).accBad.has ((c.rcd.getD 5 0).extractLsb' 16 3).toNat = false
      ∧ Claims.ownerAlive wideRun 0 ((c.rcd.getD 5 0).extractLsb' 16 3).toNat
      ∧ stepFault (wideRun.quad 0) c = .ok img ∧ stepInput wideRun (0 / 4) c = some a
      ∧ isOk (rowsA wideRun (fbHalf c.fb 0) a (c.rcd.getD 1 0).toNat (List.range 32)) = true)
    ∧ (let c := cmd 4 mldRec .running
      let s := inQuad fetchBand (queue [c])
      Claims.runs s 0 4 c ∧ portsDown s c.u ((List.range 32).flatMap fun i => lineRuns (32 * 4) (rowAddr c.rcd i) (32 * 4)) = false
      ∧ isOk (readAll s c.u 4 ((List.range 1024).map fun k => (k, (rowAddr c.rcd (k / 32) + k % 32 * 4) % 2 ^ 48))) = true
      ∧ Claims.ownerAlive s 0 0)
    ∧ (let c := cmd 5 mstRec .running
      let s := inQuad fetchBand (queue [c])
      (∀ x ∈ (s.quad 0).queue, x.stage = .running → x.fn = 5 → x.done = 32 → owes s x.seq = true)
      ∧ List.find? (fun x : Cmd => x.stage = .running && x.fn = 5 && x.done < 32) (s.quad 0).queue = some c
      ∧ owes s c.seq = false ∧ ∃ ls, rowPlaces s c.u (mstBytes c.rcd) (rowAddr c.rcd c.done) 32 = .ok ls
        ∧ (∀ l ∈ ls, busyLoc s (mstBytes c.rcd) l.1 = false) ∧ Claims.posted (ls.map fun l => (l.1, [])) = []
        ∧ ∀ a ∈ accsOf 5 c.rcd, (s.quad 0).accBad.has a = false)
    ∧ (let c := cmd 5 (mstRec.set 0 0x200000) .running
      let s := { inQuad fetchBand (queue [c]) with tlb := [farPage] }
      ∃ ls, rowPlaces s c.u (mstBytes c.rcd) (rowAddr c.rcd c.done) 32 = .ok ls
        ∧ (∀ l ∈ ls, busyLoc s (mstBytes c.rcd) l.1 = false) ∧ Claims.posted (ls.map fun l => (l.1, [])) ≠ [])
    ∧ (let c : Cmd := { cmd 5 mstRec .running with done := 32 }
      let s := inQuad fetchBand (queue [c])
      List.find? (fun x : Cmd => x.stage = .running && x.fn = 5 && x.done = 32 && !owes s x.seq) (s.quad 0).queue = some c)
    ∧ (let c := cmd 2 loopRec .running
      let b : Band := { fetchBand with preAt := some 0 }
      let s : State := { inQuad b (queue [c]) with clusters := [(0, { ClusterState.init with clk := 4000 })] };
      (s.quad 0).queue[0]? = some c ∧ s.slotOf? c.ref = some 0 ∧ s.bands.find? 0 = some b
      ∧ 0 + 4000 ≤ (s.cluster (clusterOf 0)).clk.toNat) := by
  refine ⟨by decide, ⟨by unfold Claims.runs; decide, by decide, by decide, by decide +kernel, by decide +kernel⟩, ⟨_, _, _, rfl, by decide, by decide, rfl, nofun, rfl, rfl, by decide +kernel⟩,
    ⟨by unfold Claims.runs; decide, by decide +kernel, by decide +kernel, nofun⟩, ⟨by decide, by decide, by decide, _, rfl, by decide +kernel⟩,
    ⟨_, rfl, by decide +kernel⟩, by decide, rfl,
    by decide, rfl, by decide⟩

/-- A graph of one entry stage, as it is declared and as it is bound. -/
def oneStage (kind : Nat) : GraphDecl :=
  { ok := true, stages := [{ kind := kind, addr := 0x4000, units := 1, rf := 64, tile := [], words := [] }], edges := [] }
def boundOf (kind state budget : Nat) (run : Option (Nat × List Word)) (l : Option Word) : BoundGraph :=
  { gnum := 5, decl := oneStage kind, state := state, cls := 1, cluster := 0, ccore := 0, lcore := 255, score := 255
    allow := 2000, pbound := 0, budget := budget, table := 0x101000
    stages := [{ q := 1, slot := 1, role := 3, time := 2000, quad := 0, frame := 0, pos := 0, renewed := false, fired := 0, period := 0, running := run
                 lnch := l, killed := none }]
    edges := [], sequence := [0], started := 0, period := 0, pnum := 1, rebind := none, faulted := false }

/-- The band's partition has the graph under the handle 9, and its declaration as number 5. -/
def graphed (b : Band) (g : BoundGraph) : State :=
  (framed b).modPart 1 fun p => { p with graphs := [(9, g)], graphTable := [(5, oneStage 0)] }

/-- What a bind answers, without the state it leaves: 0 no answer, 1 refused, 2 bound. -/
def kindOfBind (x : Except GraphErr (Option (BoundGraph × State))) : Nat :=
  match x with
  | .error _ => 0
  | .ok none => 1
  | .ok (some _) => 2

theorem refused_of {x : Except GraphErr (Option (BoundGraph × State))} (h : kindOfBind x = 1) : x = .ok none := by
  match x, h with
  | .ok none, _ => rfl

theorem bound_of {x : Except GraphErr (Option (BoundGraph × State))} (h : kindOfBind x = 2) : ∃ g t, x = .ok (some (g, t)) := by
  match x, h with
  | .ok (some (g, t)), _ => exact ⟨g, t, rfl⟩

theorem witness_GraphForms :
    (let b := withS [(1, 9), (2, 2), (3, 5)]
     let g := boundOf 0 0 0 none none
     let s := graphed b g;
      s.holds b ∧ (Instr.gbind 4 3 5).wf = true ∧ (Instr.gstart 1).wf = true ∧ Claims.bound s b.part (b.sreg 1) = some g
      ∧ g.state ≠ 1 ∧ g.state ≠ 2 ∧ (Instr.gstop 1 2).wf = true ∧ b.sreg 2 = 2 ∧ (b.sreg 6).toNat ≤ 1 ∧ b.sreg 6 = 0
      ∧ (Instr.grebind 4 1 3).wf = true
      ∧ ∃ g' t', bindGraph (withoutFirings (dropGraph s b.part (b.sreg 1) g none) g) b.part (b.sreg 1) (b.sreg 3) g.budget g.cls
        = .ok (some (g', t')))
    ∧ (let b := withS [(1, 9), (3, 5)]
     let g := boundOf 0 1 1 none none
     let s := graphed b g;
      s.holds b ∧ Claims.bound s b.part (b.sreg 1) = some g ∧ g.state = 1 ∧ g.rebind = none
      ∧ bindGraph (withoutFirings (dropGraph s b.part (b.sreg 1) g none) g) b.part (b.sreg 1) (b.sreg 3) g.budget g.cls = .ok none) :=
  ⟨⟨rfl, rfl, rfl, rfl, by decide, by decide, rfl, rfl, by decide, rfl, rfl, bound_of (by decide +kernel)⟩, rfl, rfl, rfl, rfl,
    refused_of (by decide +kernel)⟩

theorem witness_GraphSteps :
    (let w : Wait := { aWait .gbind with phases := [(3, true)], cap := { (aWait .gbind).cap with la := 0, scalars := [5, 0] } }
     let b := waiting w
     let s := graphed b (boundOf 0 0 0 none none)
     let s' := { s with cur := 0, fresh := s.fresh + 1, bands := s.bands.put 0 b };
      Claims.pathWaits s 0 b.ix b w .gbind ∧ w.cap.la = 0 ∧ (∀ m ∈ bindArrivals s b.part, ((w.phases.head?).map Prod.fst).getD 0 ≤ m)
      ∧ s.parts.has b.part = true
      ∧ ∀ h, ∃ g t, bindGraph s' b.part h (w.cap.scalars.getD 0 0) (w.cap.scalars.getD 1 0).toNat (firingClass b.cls) = .ok (some (g, t)))
    ∧ (let w : Wait := { aWait .gbind with phases := [(3, true)], cap := { (aWait .gbind).cap with la := 0, scalars := [5, 1] } }
     let b := waiting w
     let s := graphed b (boundOf 0 0 0 none none)
     let s' := { s with cur := 0, fresh := s.fresh + 1, bands := s.bands.put 0 b };
      Claims.pathWaits s 0 b.ix b w .gbind
      ∧ ∀ h, bindGraph s' b.part h (w.cap.scalars.getD 0 0) (w.cap.scalars.getD 1 0).toNat (firingClass b.cls) = .ok none)
    ∧ (∀ kind ∈ [0, 2],
      let g := boundOf kind 1 0 none none
      let s := graphed fetchBand g;
      Claims.bound s 1 9 = some g ∧ (s.part 1).state = 1 ∧ g.state = 1 ∧ g.rebind = none ∧ g.sequence[g.started]? = some 0
      ∧ (g.stages[0]?.all fun x => x.running = none) = true ∧ countsAllow s g 0 = true ∧ queued (s.quad 0) < 64)
    ∧ (∀ kind ∈ [0, 1, 2],
      let g := boundOf kind 1 0 (some (7, [])) none
      let s := graphed fetchBand g;
      Claims.bound s 1 9 = some g ∧ (g.stages[0]?.all fun x => x.running = some (7, []) && x.lnch = none && x.killed = none) = true
      ∧ badEnd s g 0 [] = none ∧ (s.quad 0).queue = []
      ∧ ∀ x, ¬ ((g.decl.stage 0).kind ≠ 0 ∧ (g.decl.stage 0).kind ≠ 2 ∧ Claims.storerWaits s 1 g 0 x []))
    ∧ (let g := boundOf 0 1 1 (some (7, [])) (some 1)
     let s : State := { graphed fetchBand g with clusters := [(0, { ClusterState.init with clk := 4000 })] };
      Claims.bound s 1 9 = some g ∧ g.budget ≠ 0 ∧ (g.stages[0]?.all fun x => x.running = some (7, []) && x.lnch = some 1) = true
      ∧ 7 + g.allow ≤ (s.cluster g.cluster).clk.toNat
      ∧ ∃ y, s.launches.find? (1 : Word).toNat = some y ∧ y.killed = none) := by
  refine ⟨⟨⟨rfl, rfl, rfl, rfl, rfl, rfl⟩, rfl, by decide, rfl, fun h => bound_of rfl⟩, ⟨⟨rfl, rfl, rfl, rfl, rfl, rfl⟩,
    fun h => refused_of rfl⟩, ?_, ?_, rfl, by decide, by decide, by decide, _, rfl, rfl⟩
  · intro kind h
    simp only [List.mem_cons, List.not_mem_nil, or_false] at h
    obtain rfl | rfl := h <;> exact ⟨rfl, rfl, rfl, rfl, rfl, by decide, by decide, by decide⟩
  · intro kind h
    simp only [List.mem_cons, List.not_mem_nil, or_false] at h
    obtain rfl | rfl | rfl := h <;> exact ⟨rfl, by decide, by decide, rfl, fun x h => by obtain ⟨_, _, b, r, ws, e, _⟩ := h; cases e⟩

/-- A walk of generation 0, of quadrant 0, for page 0x100000. -/
def walkOf (got : Option TlbEntry) : Walk := { unit := 0, part := 1, va := 0x100000, gen := 0, got := got }
def inCluster (c : ClusterState) : State := { here fetchBand with clusters := [(0, c)] }
def oldLine (remote : Bool) : CacheLine := { frame := false, owner := 0, line := 0x2000, remote := remote, data := [], filled := 0 }

theorem witness_MemorySteps :
    (∀ got ∈ [none, some farPage],
      ((inCluster { ClusterState.init with walks := [(3, walkOf got)] }).cluster 0).walks.find? 3 = some (walkOf got))
    ∧ (let s : State := { inCluster { ClusterState.init with walks := [(3, walkOf none)] } with
        shootdowns := [{ part := 1, page := 1, va := 0, pages := 17, gens := [1], tag := 0, mailPage := 1, seq := 0 }] };
      ∃ d ∈ s.shootdowns, d.part = (walkOf none).part ∧ d.va < (walkOf none).page.1 + (walkOf none).page.2
        ∧ (walkOf none).page.1 < d.va + d.pages * 2 ^ 16 ∧ (walkOf none).gen < (d.gens.getD 0 0).toNat)
    ∧ ((here fetchBand).parts.has 1 = true ∧ Claims.hasRoom (here fetchBand) 1 ∧ glazeFails (here fetchBand) (2 ^ 42) = false
      ∧ glazeFails { here fetchBand with glaze := [(0, { major := 0, minor := [(0, 1)] })], tampered := [(glazeKey 0 0 0, ())] } (2 ^ 42) = true
      ∧ ((inQuad fetchBand { Quad.init with accOwn := [(3, .graph 1 9)] }).quad 0).accOwn.find? 3 = some (.graph 1 9))
    ∧ (∀ r ∈ [false, true],
      let s := (inCluster { ClusterState.init with clk := 65536 }).setCore 0 { CoreState.init with cache := [oldLine r] };
      (s.core 0).cache[0]? = some (oldLine r) ∧ (oldLine r).filled + 65536 ≤ (s.cluster (0 / 8)).clk.toNat)
    ∧ (let s := (here fetchBand).modPart 1 fun p => { p with leases := [16, 16, 4, 4, 8, 8] };
      (s.cluster (8 * 0)).clk.toNat % 65536 = 0 ∧ (∀ kind < 3, ∀ k ∈ engineKeys 0 kind, s.standing.has k = false)
      ∧ (∀ kind < 3, ((s.parts.filter fun e => e.2.state = 1).map fun e => leaseMin s e.1 0 kind).sum ≤ Config.poolSize kind)
      ∧ ∃ e ∈ s.parts, e.2.state = 1)
    ∧ (let s := { here fetchBand with standing := [(3, 9)], engines := [(3, 1)] };
      3 ∈ engineKeys 0 0 ∧ s.standing.has 3 = true ∧ s.engines.has 3 = true)
    ∧ (∀ n ∈ [1023, 1024], let x : Channel := { Channel.idle with moved := n };
      ({ here fetchBand with channels := [(3, x)] }.channels.find? 3) = some x)
    ∧ (let y : ChanReq := { part := 127, ref := { lnch := 1, bid := 0, slot := 0 } }
      let c : Channel := { Channel.idle with used := [(127, 4)], pending := [y] };
      y ∈ c.pending ∧ c.used.getD y.part 0 < 5 ∧ y.part < 128)
    ∧ ((inQuad fetchBand { Quad.init with images := [(64, { units := 1, kind := 0, desc := 0, blk := 0, scaled := false, elems := []
                                                            scales := [], bad := false })] }).quad 0).images.has 64 = true :=
  ⟨by decide, by decide, ⟨rfl, ⟨rfl, by decide⟩, by decide +kernel, by decide +kernel, rfl⟩, by decide +kernel, ⟨rfl, by decide, by decide +kernel, _, List.mem_singleton.mpr rfl, rfl⟩,
    ⟨by decide, rfl, rfl⟩, by decide, by decide, by decide⟩

/-- A band whose log holds a load of the word at 0x2000 into s2, which waits for an answer to record 0 or may replay. -/
def logged (w : Bool) (ws : Tab Nat := []) : Band :=
  let b := withS [(4, 0x2000)]
  { b with olog := [(0, { wait := w, cap := b.cap (.lds 0 2 4 0) [4, 5] [] 0, path := 0, order := 0, windows := ws, code := code.firstAbsent
                          drops := [], rid := 0, seq := some (false, 0), rcd := [] })] }

theorem witness_FaultAnswers :
    (∀ size ∈ [0, 1],
      let r : Record := { rid := 7, rcd := [], kept := false }
      let s := (here fetchBand).modPart 1 fun p => { p with waiting := [r], fqring := 0x8000, fqsize := size };
      s.parts.has 1 = true ∧ (s.part 1).waiting = [r] ∧ (s.part 1).state ≠ 0
      ∧ ((((s.part 1).fqtail - (s.part 1).fqhead).toNat < (s.part 1).fqsize
          ∨ ((s.part 1).fqtail - BitVec.ofNat 32 (s.mem.num ((s.part 1).object + 176) 4)).toNat < (s.part 1).fqsize) ↔ size = 1))
    ∧ (let b := logged true
      let s := here b;
      s.bands.find? 0 = some b ∧ (∃ j e, (j, e) ∈ b.olog ∧ e.wait = true ∧ Claims.asks 1 0 b e.seq) ∧ Claims.asksAny 1 0 b
      ∧ (∃ e ∈ s.bands, Claims.asksAny 1 0 e.2) ∧ (∀ e ∈ s.bands, Claims.asksAny 1 0 e.2 → e.2.lnch = 1))
    ∧ (let s : State := { here fetchBand with saved := [(7, logged true)] };
      s.saved.find? 7 = some (logged true) ∧ Claims.asksAny 1 0 (logged true))
    ∧ (let w : Wait := { aWait .fetch with seq := some (false, 0) };
      (waiting w).prog.find? 0 = some (pathAt 0x400 1 (some w)) ∧ w.kind = .fetch ∧ Claims.asks 1 0 (waiting w) w.seq)
    ∧ (∀ e ∈ (here fetchBand).bands ++ (here fetchBand).saved, ¬ Claims.asksAny 1 0 e.2)
    ∧ (∀ win ∈ [([] : Tab Nat), [(0, 0)], [(0, 3)]], let b := logged false win
      let s := here b;
      s.bands.find? 0 = some b ∧ b.inTrap = false ∧ (s.slot 0).state = 1 ∧ b.stopped = false ∧ b.path.v = true
      ∧ ∃ e f ws t b', b.olog.find? 0 = some e ∧ e.windows = win ∧ e.path = b.ix ∧ nextReplay b e.path = some (0, e) ∧ wordCore e.cap.word = some f
        ∧ (∀ i, decodePlain e.cap.word.toNat = .ok i →
          accessHeld { s with cur := 0, bands := s.bands.put 0 b } b i { e.cap with la := 0 } = false)
        ∧ f { e.cap with la := 0 } { s with cur := 0, bands := s.bands.put 0 b } = .done ws t ∧ t.cur = 0
        ∧ t.bands.find? 0 = some b' ∧ b'.ix = b.ix ∧ b'.inTrap = false ∧ b'.path.v = true ∧ keepWrites e.drops ws ≠ []) := by
  refine ⟨by decide, ?_, ⟨rfl, .inl ⟨_, List.mem_singleton.mpr rfl, rfl, rfl, .inr rfl⟩⟩, ⟨rfl, rfl, rfl, .inr rfl⟩, ?_, ?_⟩
  · refine ⟨rfl, ⟨_, _, List.mem_singleton.mpr rfl, rfl, rfl, .inr rfl⟩, .inl ⟨_, List.mem_singleton.mpr rfl, rfl, rfl, .inr rfl⟩,
      ⟨_, List.mem_singleton.mpr rfl, .inl ⟨_, List.mem_singleton.mpr rfl, rfl, rfl, .inr rfl⟩⟩, ?_⟩
    intro e he _
    rw [show e = (0, logged true) from List.mem_singleton.mp he]
    rfl
  · intro e he h
    rw [show e = (0, fetchBand) from List.mem_singleton.mp he] at h
    obtain ⟨x, hx, _⟩ | ⟨x, hx, w, hw, _⟩ := h
    · cases hx
    · rw [List.mem_singleton.mp hx] at hw
      cases hw
  · intro win h
    simp only [List.mem_cons, List.not_mem_nil, or_false] at h
    obtain rfl | rfl | rfl := h <;> exact ⟨rfl, rfl, rfl, rfl, rfl, _, _, _, _, _, rfl, rfl, rfl, rfl, rfl,
      fun i h => by obtain rfl : Instr.lds 0 2 4 0 = i := Except.ok.inj h; rfl, rfl, rfl, rfl, rfl, rfl,
      rfl, by decide⟩

/-- A launch queue of one record, whose ring lies at 0x100000, and a machine whose memory holds the record's bytes there. -/
def oneQueue : LaunchQueue := { ring := 0x100000, size := 4, home := 0, cmax := 0, weight := 1, head := 0, tail := 1, state := 1 }
def queued1 (rcd : List Byte) : State :=
  let s := (framed fetchBand).modPart 1 fun p => { p with queues := [(2, oneQueue)], heap := [], templates := [] }
  { s with mem := s.mem.setBytes 0x100000 rcd }

/-- The bytes of a record of a kind, with its class, allocation, address, count, units and work. -/
def recordOf (kind cls : Nat) (a n u : Nat) : List Byte :=
  leBytes 1 kind ++ leBytes 1 cls ++ leBytes 6 0 ++ leBytes 8 a ++ leBytes 4 n ++ leBytes 2 u ++ leBytes 42 0

theorem witness_LaunchQueues :
    (let s := queued1 [];
      (s.part 1).queues.find? 2 = some oneQueue ∧ (s.part 1).state = 1 ∧ s.parts.has 1 = true)
    ∧ (∀ kind ∈ [0, 4], ∃ q a bs, nextRecord (queued1 (recordOf kind 1 0 0 0)) 1 2 = some (q, a, bs) ∧ leAt bs 0 1 = kind)
    ∧ (∃ q a bs, nextRecord (queued1 (recordOf 1 1 0x4000 97 1)) 1 2 = some (q, a, bs) ∧ leAt bs 0 1 = 1
      ∧ leAt bs 4 4 = q.head.toNat ∧ launchRecordOk q bs = true ∧ leAt bs 40 8 = 0)
    ∧ (∃ q a bs, nextRecord (queued1 (recordOf 1 1 0x4000 0 1)) 1 2 = some (q, a, bs) ∧ leAt bs 0 1 = 1 ∧ launchRecordOk q bs = false)
    ∧ (∃ q a bs, nextRecord (queued1 (recordOf 2 0 0x4000 65536 9)) 1 2 = some (q, a, bs) ∧ leAt bs 0 1 = 2 ∧ leAt bs 4 4 = q.head.toNat
      ∧ zeroFields bs [(1, 1), (2, 1), (3, 1), (22, 2), (24, 4), (28, 4), (32, 8), (40, 8), (60, 4)] = true
      ∧ leAt bs 8 8 < 2 ^ 48 ∧ leAt bs 8 8 % 32 = 0 ∧ 1 ≤ leAt bs 16 4 ∧ leAt bs 16 4 ≤ 65536
      ∧ ((queued1 (recordOf 2 0 0x4000 65536 9)).part 1).templates.find? (leAt bs 20 2) = none)
    ∧ (∃ q a bs, nextRecord (queued1 (recordOf 3 3 0x4004 4 63)) 1 2 = some (q, a, bs) ∧ leAt bs 0 1 = 3 ∧ leAt bs 4 4 = q.head.toNat
      ∧ zeroFields bs [(2, 1), (3, 1), (22, 2), (24, 4), (28, 4), (32, 8), (40, 8), (60, 4)] = true ∧ 1 ≤ leAt bs 1 1 ∧ leAt bs 1 1 ≤ 3
      ∧ q.cmax ≤ leAt bs 1 1 ∧ leAt bs 8 8 < 2 ^ 48 ∧ leAt bs 8 8 % 4 = 0 ∧ 4 ≤ leAt bs 16 4 ∧ leAt bs 16 4 ≤ 2 ^ 24 ∧ leAt bs 20 2 ≤ 63) := by
  refine ⟨⟨rfl, rfl, rfl⟩, ?_, ⟨_, _, _, rfl, ?_⟩, ⟨_, _, _, rfl, ?_⟩, ⟨_, _, _, rfl, ?_⟩, ⟨_, _, _, rfl, ?_⟩⟩
  · intro kind h
    simp only [List.mem_cons, List.not_mem_nil, or_false] at h
    obtain rfl | rfl := h <;> exact ⟨_, _, _, rfl, by decide +kernel⟩
  all_goals decide +kernel

/-- A bind record of a launch, and a launch with a band left to bind, of queue 2. -/
def bindOf (pre : Bool) (save : Nat) : BindRecord :=
  { lnchid := 4, bid := 0, ctx := 0x4110000, save := save, v := true, pre := pre, unit := 0, rf := 2, cls := 1, role := 0, owner := 1, work := 0 }
def freshOne : Launch := { freshLaunch 1 (.queue 2) 0 with cls := 1, entry := 0x4000, n := 97, rf := allocOf 2 }
def bindable (ls : Tab Launch) (saved : Tab Band) : State :=
  let s := queued1 []
  { s with bands := [], slots := [], launches := ls, saved := saved, cores := [] }
def savedBand : Band := { fetchBand with lnch := 4, bid := 0, cls := 1, part := 1, rf := allocOf 2, accTiles := [3] }

/-- In a machine without bands or drains, of one launch, a record that names free units of a quadrant of its owner is not barred. -/
theorem bindable_of {s : State} {r : BindRecord} {l : Launch} (h1 : (s.slot 0).state = 0) (hb : s.bands = []) (h3 : (s.quad 0).owner = r.owner)
    (ho : r.owner ≠ 0) (h4 : r.rf = 2 ∧ r.unit = 0) (hd : (s.core 0).drain = []) (hl : s.launches.find? r.lnchid.toNat = some l)
    (h6 : r.bid.toNat < (l.n + 95) / 96 ∧ (if l.ctx = 0 then ctxFits s r.owner r.lnchid r.ctx = true else l.ctx = r.ctx)) : Claims.bindable s 0 r := by
  intro code
  unfold Claims.bindBar
  split
  · rintro (h | h)
    · exact h h1
    · rw [hb] at h; cases h
  · rintro ⟨k, b, i, j, -, -, h, -⟩
    rw [hb] at h; cases h
  · rintro (h | h)
    · exact h h3
    · exact ho h
  · rw [h4.1, h4.2]; decide
  · rintro ⟨-, h⟩
    rw [show coreOf 0 = 0 from rfl, hd] at h
    cases h
  · intro h
    obtain h | h := h l hl
    · exact absurd h6.1 (by omega)
    · have h6 := h6.2
      split at h
      · rename_i e
        rw [if_pos e, h] at h6
        cases h6
      · rename_i e
        rw [if_neg e] at h6
        exact h h6
  · exact id

theorem witness_BandBinds :
    (let s := bindable [(4, freshOne)] []
      let r := bindOf false 0;
      Claims.bindable s 0 r ∧ s.launches.find? r.lnchid.toNat = some freshOne ∧ wheelStarts s 0 r freshOne = true)
    ∧ (let l : Launch := { freshOne with nbound := 1, ctx := 0x4110000 }
      let s := bindable [(4, l)] [(2 ^ 48 + 0x200000, savedBand)]
      let r := bindOf false 0x200000;
      Claims.bindable s 0 r ∧ s.saved.find? (2 ^ 48 * r.owner + r.save) = some savedBand ∧ s.launches.find? r.lnchid.toNat = some l
      ∧ savedBand.lnch = r.lnchid ∧ savedBand.bid = r.bid ∧ wheelResumes s 0 r savedBand l = true ∧ leavesPosted s savedBand 0 = false)
    ∧ (let l : Launch := { freshOne with nbound := 1, ctx := 0x4110000 };
      Claims.bindable (bindable [(4, l)] []) 0 (bindOf false 0x200000)
      ∧ (bindable [(4, l)] []).saved.find? (2 ^ 48 * 1 + 0x200000) = none) := by
  refine ⟨⟨bindable_of (l := freshOne) rfl rfl rfl (by decide) ⟨rfl, rfl⟩ rfl rfl ⟨by decide, by decide +kernel⟩, rfl, by decide +kernel⟩,
    ⟨bindable_of (l := { freshOne with nbound := 1, ctx := 0x4110000 }) rfl rfl rfl (by decide) ⟨rfl, rfl⟩ rfl rfl ⟨by decide, by decide +kernel⟩,
      by decide +kernel, rfl, rfl, rfl, by decide +kernel, by decide +kernel⟩,
    bindable_of (l := { freshOne with nbound := 1, ctx := 0x4110000 }) rfl rfl rfl (by decide) ⟨rfl, rfl⟩ rfl rfl ⟨by decide, by decide +kernel⟩, rfl⟩

/-- Each code bars a record: a slot in use, a quadrant of another owner, an allocation that is none, units that are taken, a launch that
is none, and a drain table that is full. No code before it in the order of log 33 bars that record. -/
theorem witness_BandBinds_bars :
    let r := bindOf false 0
    let s := bindable [(4, freshOne)] []
    let taken : State := { s with bands := [(3, { fetchBand with unit := 0, rf := 32 })] }
    let full : State := s.setCore 0 { CoreState.init with drain := (List.range 64).map fun k => (k + 100, { count := 0, bands := 1 }) };
    Claims.bindBar { s with slots := [(0, { SlotState.init with state := 1 })] } 0 r 1
    ∧ (¬ Claims.bindBar s 0 { r with owner := 2 } 1 ∧ Claims.bindBar s 0 { r with owner := 2 } 3)
    ∧ (¬ Claims.bindBar s 0 { r with rf := 3 } 1 ∧ ¬ Claims.bindBar s 0 { r with rf := 3 } 3 ∧ Claims.bindBar s 0 { r with rf := 3 } 4)
    ∧ (¬ Claims.bindBar taken 0 r 1 ∧ ¬ Claims.bindBar taken 0 r 3 ∧ ¬ Claims.bindBar taken 0 r 4 ∧ Claims.bindBar taken 0 r 2)
    ∧ ((∀ c ∈ [1, 3, 4, 2], ¬ Claims.bindBar (bindable [] []) 0 r c) ∧ Claims.bindBar (bindable [] []) 0 r 6)
    ∧ ((∀ c ∈ [1, 3, 4, 2, 6], ¬ Claims.bindBar full 0 r c) ∧ Claims.bindBar full 0 r 5) := by
  have first (s : State) (r : BindRecord) : Claims.bindBar s 0 r 1 ↔ (s.slot 0).state ≠ 0 ∨ s.bands.has 0 = true := Iff.rfl
  have third (s : State) (r : BindRecord) : Claims.bindBar s 0 r 3 ↔ (s.quad 0).owner ≠ r.owner ∨ r.owner = 0 := Iff.rfl
  have fourth (s : State) (r : BindRecord) : Claims.bindBar s 0 r 4
    ↔ 2 < r.rf ∨ r.unit % (allocOf r.rf / 32) ≠ 0 ∨ 8 < r.unit + allocOf r.rf / 32 := Iff.rfl
  have second (s : State) (r : BindRecord) (h : s.bands = []) : ¬ Claims.bindBar s 0 r 2 := by
    rintro ⟨k, b, i, j, -, -, e, -⟩
    rw [h] at e
    cases e
  refine ⟨(first _ _).mpr (by decide), ⟨by rw [first]; decide, (third _ _).mpr (by decide)⟩, ⟨by rw [first]; decide, by rw [third]; decide +kernel,
    (fourth _ _).mpr (by decide)⟩, ⟨by rw [first]; decide, by rw [third]; decide +kernel, by rw [fourth]; decide,
    ⟨3, _, 0, 0, by decide, by decide, rfl, by decide, by decide, rfl⟩⟩, ⟨?_, nofun⟩, ?_, rfl, by decide +kernel⟩
  · intro c hc
    simp only [List.mem_cons, List.not_mem_nil, or_false] at hc
    obtain rfl | rfl | rfl | rfl := hc
    · rw [first]; decide
    · rw [third]; decide +kernel
    · rw [fourth]; decide
    · exact second _ _ rfl
  · intro c hc
    simp only [List.mem_cons, List.not_mem_nil, or_false] at hc
    obtain rfl | rfl | rfl | rfl | rfl := hc
    · rw [first]; decide
    · rw [third]; decide +kernel
    · rw [fourth]; decide
    · exact second _ _ rfl
    · intro h
      have h := h freshOne rfl
      revert h
      decide +kernel

/-- A band that is to be pre-empted, in a slot of a state. -/
def saving (b : Band) (x : SlotState) (clk : DWord) : State :=
  { (here b).modPart 1 (fun p => { p with svbase := 0x200000, svlen := 0x400000 }) with
    slots := [(0, x)], clusters := [(0, { ClusterState.init with clk := clk })] }
def asked : SlotState := { SlotState.init with state := 1, preq := true, area := 0x200000 }

theorem witness_Preemption :
    (let s := saving fetchBand { SlotState.init with state := 1 } 0
      let r := { bindOf true 0 with lnchid := 1 };
      s.bands.find? 0 = some fetchBand ∧ r.v = true ∧ r.pre = true ∧ (s.slot 0).state = 1 ∧ (s.slot 0).preq = false
      ∧ r.lnchid = fetchBand.lnch ∧ r.bid = fetchBand.bid ∧ fetchBand.cls ≠ 0 ∧ collecting s fetchBand = false
      ∧ freeArea s fetchBand.part = some 0x200000)
    ∧ (∀ f ∈ [false, true],
      let b : Band := { fetchBand with flash := f }
      let s := saving b asked 0;
      s.bands.find? 0 = some b ∧ (s.slot 0).state = 1 ∧ (s.slot 0).preq = true ∧ b.stopped = false ∧ b.occ ≠ 0 ∧ b.fusing = none
      ∧ saveTurn s 0 = true ∧ saveTurn { s with slots := s.slots ++ [(7, asked)] } 0 = false)
    ∧ (let b : Band := { fetchBand with stopped := true, preAt := some 0 }
      let s := saving b asked 4000;
      (s.slot 0).state = 1 ∧ b.results = [] ∧ b.waitsIn .tileStore = false ∧ Claims.commands s (quadOf 0) b = [] ∧ saveTurn s 0 = true
      ∧ 0 + 4000 ≤ (s.cluster (clusterOf 0)).clk.toNat ∧ (resultOf [(0, 1)]).arrived = false ∧ (resultOf [(0, 1)]).id ∉ b.redirected)
    ∧ (let s := saving fetchBand { asked with state := 2, moving := true } 0;
      (s.slot 0).state = 2 ∧ (s.slot 0).moving = true)
    ∧ (let s := saving fetchBand { SlotState.init with state := 3 } 0;
      (s.slot 0).state = 3 ∧ fetchBand.redirected = [] ∧ fetchBand.doom = none) := by
  refine ⟨⟨rfl, rfl, rfl, rfl, rfl, rfl, rfl, by decide, by decide, by decide +kernel⟩, ?_, ⟨rfl, rfl, rfl, rfl, rfl, by decide, rfl, nofun⟩,
    ⟨rfl, rfl⟩, rfl, rfl, rfl⟩
  intro b h
  simp only [List.mem_cons, List.not_mem_nil, or_false] at h
  obtain rfl | rfl := h <;> exact ⟨rfl, rfl, rfl, rfl, by decide, rfl, rfl, rfl⟩

/-- A task queue with tasks that have been read, of the node at 0x8000. -/
def readQueue : TaskQueue :=
  { ring := 0x9000, words := 16, cls := 1, home := 0, wr := 4, rd := 4, lastW := none, lastR := none, stopped := false
    read := [(0x30000, 7), (0x30000, 8)] }
def tasked (q : TaskQueue) : State :=
  let s := (framed fetchBand).modPart 1 fun p => { p with tasks := [(2, q)], templates := [(3, (0x101000, 1))] }
  { s with mem := s.mem.setBytes 0x101000 (leBytes 8 0x4000 ++ leBytes 24 0) }

theorem witness_LaunchEnds :
    (let s : State := (here fetchBand).setCore 0 { CoreState.init with drain := [(5, { count := 0, bands := 0 })] };
      (s.core 0).drain.find? 5 = some { count := 0, bands := 0 })
    ∧ (∀ k ∈ [none, some 7],
      let l : Launch := { freshOne with kind := .child { lnch := 1, bid := 0, slot := 0 }, nbound := 2, exited := 2, killed := k }
      let s : State := { here fetchBand with launches := [(5, l)] };
      s.launches.find? (5 : Word).toNat = some l ∧ (∀ e ∈ s.cores, e.2.drain.find? 5 = none) ∧ l.exited = l.nbound
      ∧ l.nbound = (l.n + 95) / 96 ∧ (∀ e ∈ s.bands, e.2.lnch ≠ 5) ∧ (∀ e ∈ s.saved, e.2.lnch ≠ 5)
      ∧ launchOwes s 5 = false ∧ unacknowledged s l.part = false ∧ l.cw = 0
      ∧ s.bands.find? 0 = some fetchBand ∧ fetchBand.lnch = 1 ∧ fetchBand.bid = 0 ∧ fetchBand.kills.length < 64)
    ∧ (∀ c ∈ [false, true],
      let l : Launch := { freshOne with nbound := 2, exited := 2, cw := 0x2000, counted := c, thb := 0, thl := 2 ^ 21, tho := 0 }
      let s : State := { here fetchBand with launches := [(5, l)] };
      launchOwes s 5 = false ∧ unacknowledged s l.part = false ∧ l.cw ≠ 0 ∧ l.counted = c
      ∧ isOk (access s { joiner l.part with cls := 5, heap := true, thb := l.thb, thl := l.thl, tho := l.tho } l.cw (.rmw 8) true) = true)
    ∧ (let b : Band := { fetchBand with cls := 0, first := some 0 }
      let s := saving b { SlotState.init with state := 1 } 4000;
      s.bands.find? 0 = some b ∧ ∃ l, s.launches.find? b.lnch.toNat = some l ∧ l.killed = none ∧ l.kind = .queue 0
        ∧ 0 + l.work ≤ (s.cluster (clusterOf 0)).clk.toNat)
    ∧ (let r : BandRef := { lnch := 5, bid := 0, slot := 1 }
      let l : Launch := { freshOne with cls := 0, nbound := 1, exited := 1, left := [(r, 0)] }
      let s : State := { inCluster { ClusterState.init with clk := 4000 } with launches := [(5, l)], copies := [{ lineOp 0x4000 with ref := r }] };
      s.launches.find? (5 : Word).toNat = some l ∧ (r, 0) ∈ l.left ∧ owesWork s r = true ∧ l.killed = none
      ∧ 0 + l.work ≤ (s.cluster (clusterOf 1)).clk.toNat ∧ s.bands.find? 1 = none)
    ∧ (∀ q ∈ [readQueue, { readQueue with stopped := true, rd := 3 }], let s := tasked q;
      (s.part 1).tasks.find? 2 = some q ∧ (q.stopped = true ∨ q.rd = q.wr) ∧ q.read = [(0x30000, 7), (0x30000, 8)] ∧ s.parts.has 1 = true ∧ (s.part 1).state = 1
      ∧ (∃ x, readNode s 1 0x30000 = some x ∧ (∀ y ∈ [((0x30000 : Word), (8 : Word))], sameGroup s 1 x y.1 = true)
        ∧ sameGroup s 1 x 0x30000 = true
        ∧ (makeLaunch s { freshLaunch 1 (.task 2) q.home with
            cls := q.cls, entry := BitVec.ofNat 48 x.entry, n := 2, rf := allocOf x.rf } (24 + x.units) 0
          (taskBody s 1 x.units q.read) 0 (displayOf [] 0)).isSome = true)
      ∧ (s.part 1).tasks.put 2 q = (s.part 1).tasks ∧ s.parts.put 1 (s.part 1) = s.parts) := by
  refine ⟨rfl, ?_, ?_, ⟨rfl, _, rfl, rfl, rfl, by decide +kernel⟩,
    ⟨rfl, List.mem_singleton.mpr rfl, by decide +kernel, rfl, by decide +kernel, rfl⟩, ?_⟩
  · decide +kernel
  · decide +kernel
  · intro q h
    simp only [List.mem_cons, List.not_mem_nil, or_false] at h
    refine ⟨?_, ?_, ?_, ?_, ?_, ?_, ?_, ?_⟩
    case refine_6 =>
      obtain ⟨x, hx, e⟩ := some_of (x := readNode (tasked q) 1 0x30000)
        (p := fun x => let s := tasked q; decide (sameGroup s 1 x 0x30000 = true
          ∧ (makeLaunch s { freshLaunch 1 (.task 2) q.home with
              cls := q.cls, entry := BitVec.ofNat 48 x.entry, n := 2, rf := allocOf x.rf } (24 + x.units) 0
            (taskBody s 1 x.units q.read) 0 (displayOf [] 0)).isSome = true)) (by obtain rfl | rfl := h <;> decide +kernel)
      have e := of_decide_eq_true e
      exact ⟨x, hx, fun y hy => by rw [List.mem_singleton.mp hy]; exact e.1, e⟩
    all_goals obtain rfl | rfl := h <;> decide +kernel

/-- A command in a mailbox page, as Kiln is about to take it up: the operation, the target, a TAG of 5, and arguments of 8 bytes. -/
def commanded (s : State) (page op target : Nat) (args : List Nat) : State :=
  let bs := leBytes 2 op ++ leBytes 2 target ++ leBytes 4 5 ++ args.flatMap (leBytes 8)
  { s with doorbells := [page], mail := s.mail.setBytes (128 * page) bs }

/-- Kiln's tables in bench unit 111: the second stage at its start, and the entries with which 2 MiB pages 1 to 4 of partition 5 lie
at themselves, behind first-stage tables at intermediate address 0. -/
def tables : Nat := 111 * 2 ^ 26
def tableEntries : List (Nat × DWord) :=
  [(tables, BitVec.ofNat 64 (tables + 0x100000 + 3)), (tables + 0x100000, BitVec.ofNat 64 (tables + 0x200000 + 0xD)),
   (tables + 0x200000, 0x10003)]
  ++ [1, 2, 3, 4].map (fun k => (tables + 0x100000 + 8 * k, BitVec.ofNat 64 (0x200000 * k + 0xD)))
  ++ [1, 2, 3, 4].map (fun k => (tables + 0x210000 + 8 * k, BitVec.ofNat 64 (0x200000 * k + 0x2D)))
def kilnChoice : KilnChoice := { root2 := tables, entries := tableEntries, window := 7 }

/-- The object of partition 5 at the start of bench unit 110: quadrant 1, bench unit 0, a frame heap, a save region and a ring. -/
def object5 : Nat := 110 * 2 ^ 26
def objectMem : Memory :=
  let m := (State.reset.mem.setBytes object5 (leBytes 2 5)).setBytes (object5 + 8) [2]
  (m.setBytes (object5 + 72) [1]).setBytes (object5 + 128) (leBytes 8 0x200000 ++ leBytes 8 0x100000 ++ leBytes 8 0x400000 ++ leBytes 8 0x223000 ++ leBytes 8 0x800000 ++ leBytes 4 1)
def creating : State := { commanded State.reset 0 1 5 [object5] with mem := objectMem }

/-- Partition 5 as that command makes it, and a machine in which it is active. -/
def part5 : Partition := { objectPartition creating object5 (creating.mem.bytes object5 4096) kilnChoice with initTag := 5, initPage := 0 }
def made (f : Partition → Partition) : State :=
  let t := writeTables (grantUnits creating 5 part5) kilnChoice.entries
  { (t.modPart 5 f) with doorbells := [], mail := [] }

def updating : State := commanded (made fun p => { p with state := 1, initialising := false, fhlen := 0, svlen := 0 }) 0 3 5 []
def destroying (st : Nat) : State := commanded (made fun p => { p with state := st, initialising := false }) 0 2 5 []

theorem witness_KilnPartitions_create :
    let s := creating
    let t := writeTables (grantUnits s 5 part5) kilnChoice.entries
    Claims.takesUp s 0 1 ∧ targetOf s 0 = 5 ∧ tagOf s 0 = 5 ∧ argAt s 0 0 8 = object5 ∧ object5 % 4096 = 0 ∧ managed s object5 = true
      ∧ objectOk (s.mem.bytes object5 4096) 5 = true ∧ s.parts.has 5 = false ∧ unitsFree s part5 = true ∧ minimumsFit s part5 = true
      ∧ (∀ e ∈ kilnChoice.entries, e.1 % 8 = 0 ∧ managed (grantUnits s 5 part5) e.1 = true) ∧ areasOk t 5 = true := by
  unfold Claims.takesUp
  refine ⟨⟨rfl, rfl, ?_⟩, ?_, ?_, ?_, ?_, ?_, ?_, rfl, ?_, ?_, ?_, ?_⟩ <;> decide +kernel

theorem witness_KilnPartitions_update :
    (∃ p, (made id).parts.find? 5 = some p ∧ p.initialising = true)
    ∧ (Claims.takesUp updating 0 3 ∧ targetOf updating 0 = 5 ∧ ∃ p, updating.parts.find? 5 = some p ∧ p.state = 1
      ∧ refreshOk (updating.mem.bytes p.object 4096) = true
      ∧ areasOk (updating.modPart 5 fun q => refreshObject q (updating.mem.bytes p.object 4096)) 5 = true)
    ∧ (∀ st ∈ [1, 2], Claims.takesUp (destroying st) 0 2 ∧ targetOf (destroying st) 0 = 5
      ∧ (∃ p, (destroying st).parts.find? 5 = some p ∧ p.state = st ∧ p.graphs = []
        ∧ ∀ u ∈ p.bench, p.object + 208 ≤ u * Config.benchUnitBytes ∨ (u + 1) * Config.benchUnitBytes ≤ p.object + 200)
      ∧ partIdle (destroying st) 5 = true
      ∧ windowsOf (destroying st) 5 = []) := by
  refine ⟨?_, ⟨?_, ?_, ?_⟩, ?_⟩
  · obtain ⟨p, h, e⟩ := some_of (x := (made id).parts.find? 5) (p := fun p => p.initialising) (by decide +kernel)
    exact ⟨p, h, e⟩
  · unfold Claims.takesUp
    decide +kernel
  · decide +kernel
  · obtain ⟨p, h, e⟩ := some_of (x := updating.parts.find? 5)
      (p := fun p => decide (p.state = 1 ∧ refreshOk (updating.mem.bytes p.object 4096) = true
          ∧ areasOk (updating.modPart 5 fun q => refreshObject q (updating.mem.bytes p.object 4096)) 5 = true)) (by decide +kernel)
    exact ⟨p, h, of_decide_eq_true e⟩
  · intro st h
    simp only [List.mem_cons, List.not_mem_nil, or_false] at h
    unfold Claims.takesUp
    obtain rfl | rfl := h
    · obtain ⟨p, h, e⟩ := some_of (x := (destroying 1).parts.find? 5) (p := fun p => decide (p.state = 1 ∧ p.graphs = []
        ∧ ∀ u ∈ p.bench, p.object + 208 ≤ u * Config.benchUnitBytes ∨ (u + 1) * Config.benchUnitBytes ≤ p.object + 200)) (by decide +kernel)
      exact ⟨by decide +kernel, by decide +kernel, ⟨p, h, of_decide_eq_true e⟩, by decide +kernel, by decide +kernel⟩
    · obtain ⟨p, h, e⟩ := some_of (x := (destroying 2).parts.find? 5) (p := fun p => decide (p.state = 2 ∧ p.graphs = []
        ∧ ∀ u ∈ p.bench, p.object + 208 ≤ u * Config.benchUnitBytes ∨ (u + 1) * Config.benchUnitBytes ≤ p.object + 200)) (by decide +kernel)
      exact ⟨by decide +kernel, by decide +kernel, ⟨p, h, of_decide_eq_true e⟩, by decide +kernel, by decide +kernel⟩

theorem witness_KilnPartitions_answers :
    (let s := commanded State.reset 0 5 5 [0];
      Claims.takesUp s 0 5 ∧ ¬ Claims.mayAsk 0 5)
    ∧ (Claims.takesUp (commanded State.reset 0 1 5 [1]) 0 1 ∧ argAt (commanded State.reset 0 1 5 [1]) 0 0 8 % 4096 ≠ 0)
    ∧ (∀ op ∈ [2, 3], let s := commanded State.reset 0 op 5 [0];
      Claims.takesUp s 0 op ∧ s.parts.find? (targetOf s 0) = none)
    ∧ (∀ op ∈ [5, 6], let s := commanded (here fetchBand) 1 op 0 [3, 0];
      Claims.takesUp s 1 op ∧ (s.part 1).state = 1 ∧ argAt s 1 8 8 = 0 ∧ (s.part (argAt s 1 0 8)).proposals = [])
    ∧ (let s := { commanded State.reset 0 8 0 [0] with fuses := { State.reset.fuses with identity := none } };
      Claims.takesUp s 0 8 ∧ s.fuses.identity = none)
    ∧ (let s := { commanded State.reset 0 9 0 [0] with fuses := { State.reset.fuses with life := 3 } };
      Claims.takesUp s 0 9 ∧ s.fuses.life = 3) := by
  unfold Claims.takesUp Claims.mayAsk
  refine ⟨?_, ?_, ?_, ?_, ?_, ?_⟩ <;> decide +kernel

/-- Partitions 1 and 2, with second-stage tables in bench units 111 and 110, and a window proposed of 4 MiB of bulk memory. -/
def tables2 : Nat := 110 * 2 ^ 26
def proposal : Proposal := { id := 9, tag := 4, peer := 2, len := 1, backing := 0, map := 0x400000 }
def windowMem : Memory :=
  let m := State.reset.mem.setBytes tables (leBytes 8 (tables + 0x100000 + 3))
  m.setBytes (tables + 0x100000) (leBytes 8 (2 ^ 42 + 0xD) ++ leBytes 8 (2 ^ 42 + 2 ^ 21 + 0xD))
def agreed : State :=
  let a : Partition := { Partition.blank with state := 1, groups := [0], root2 := tables, proposals := [proposal] }
  let b : Partition := { Partition.blank with state := 1, root2 := tables2 }
  { State.reset with parts := [(1, a), (2, b)], mem := windowMem }
def windowChoice : KilnChoice :=
  { root2 := 0, window := 7
    entries := [(tables + 0x100010, BitVec.ofNat 64 (2 ^ 42 + 0xD)), (tables2, BitVec.ofNat 64 (tables2 + 0x100000 + 3)),
                (tables2 + 0x100000, BitVec.ofNat 64 (2 ^ 42 + 0xD))] }
def accepting : State := commanded agreed 2 6 0 [1, 9, 1, 0]
def bulkPages : List Nat := (List.range 64).map fun k => 2 ^ 42 + 2 ^ 16 * k

theorem mapsTo_congr {s t : State} {p ipa : Nat} {pages : List Nat} (hm : s.mem = t.mem) (hp : (s.part p).root2 = (t.part p).root2) :
    mapsTo s p ipa pages = mapsTo t p ipa pages := by
  have : stage2 s p = stage2 t p := by
    funext x
    simp only [stage2, hm, hp]
  simp only [mapsTo, this]

theorem leavesBacking_congr {s t : State} {a : Nat} {x : Proposal} (hm : s.mem = t.mem) (hp : (s.part a).root2 = (t.part a).root2) :
    leavesBacking s a x = leavesBacking t a x := by
  have : stage2 s a = stage2 t a := by
    funext x
    simp only [stage2, hm, hp]
  simp only [leavesBacking, this]

theorem zeroLine_keeps (s : State) (a : Nat) : (glazeWrite (unpoison s a 128) a).parts = s.parts
    ∧ (glazeWrite (unpoison s a 128) a).mem = s.mem := by
  unfold glazeWrite
  split <;> exact ⟨rfl, rfl⟩

theorem foldl_glaze (a : Nat) (ks : List Nat) : ∀ s : State,
    (ks.foldl (fun s k => glazeWrite (unpoison s (a + 128 * k) 128) (a + 128 * k)) s).parts = s.parts
    ∧ (ks.foldl (fun s k => glazeWrite (unpoison s (a + 128 * k) 128) (a + 128 * k)) s).mem = s.mem := by
  induction ks with
  | nil => exact fun s => ⟨rfl, rfl⟩
  | cons k ks ih =>
    intro s
    simp only [List.foldl_cons]
    exact ⟨(ih _).1.trans (zeroLine_keeps s _).1, (ih _).2.trans (zeroLine_keeps s _).2⟩

theorem zeroPages_keeps (pages : List Nat) : ∀ s : State, (zeroPages s pages).parts = s.parts
    ∧ (zeroPages s pages).mem = pages.foldl (fun m a => m.wipe a (a + pageBytes)) s.mem := by
  unfold zeroPages
  generalize List.range 512 = ks
  induction pages with
  | nil => exact fun s => ⟨rfl, rfl⟩
  | cons a as ih =>
    intro s
    obtain ⟨h, h'⟩ := foldl_glaze a ks (wipeRange s a (a + pageBytes))
    simp only [List.foldl_cons]
    refine ⟨(ih _).1.trans h, (ih _).2.trans ?_⟩
    rw [h']
    rfl

theorem writeTables_keeps (es : List (Nat × DWord)) : ∀ s : State, ∃ m, writeTables s es = { s with mem := m } := by
  induction es with
  | nil => exact fun s => ⟨s.mem, rfl⟩
  | cons e es ih => exact fun s => ih _

theorem writeTables_mem (es : List (Nat × DWord)) : ∀ s t : State, s.mem = t.mem → (writeTables s es).mem = (writeTables t es).mem := by
  induction es with
  | nil => exact fun s t h => h
  | cons e es ih => exact fun s t h => ih _ _ (by simp only [h])

theorem tables_part (es : List (Nat × DWord)) {s t : State} (f : Partition → Partition) (a p : Nat) (ep : s.parts = t.parts) :
    ((writeTables (s.modPart a f) es).part p).root2 = ((writeTables (t.modPart a f) es).part p).root2 := by
  obtain ⟨m, e⟩ := writeTables_keeps es (s.modPart a f)
  obtain ⟨m', e'⟩ := writeTables_keeps es (t.modPart a f)
  rw [e, e']
  simp only [State.part, State.modPart, ep]

theorem mapsTo_tables (es : List (Nat × DWord)) {s t : State} (f : Partition → Partition)
    (a p ipa : Nat) (pages : List Nat) (em : s.mem = t.mem) (ep : s.parts = t.parts) :
    mapsTo (writeTables (s.modPart a f) es) p ipa pages = mapsTo (writeTables (t.modPart a f) es) p ipa pages :=
  mapsTo_congr (writeTables_mem es (s.modPart a f) (t.modPart a f) em) (tables_part es f a p ep)

theorem leavesBacking_tables (es : List (Nat × DWord)) {s t : State} (f : Partition → Partition) (a : Nat) (x : Proposal)
    (em : s.mem = t.mem) (ep : s.parts = t.parts) :
    leavesBacking (writeTables (s.modPart a f) es) a x = leavesBacking (writeTables (t.modPart a f) es) a x :=
  leavesBacking_congr (writeTables_mem es (s.modPart a f) (t.modPart a f) em) (tables_part es f a a ep)

/-- What makes the window leaves the state changed, once the entries map the pages in both partitions. -/
theorem makeWindow_ne {s : State} {page a mapB : Nat} {c : KilnChoice} {x : Proposal} {pages : List Nat} (hi : pagesIdle s pages = true)
    (he : c.entries.all (fun e => e.1 % 8 = 0 && managed s e.1) = true) (hw : s.windows = [])
    (hm : let t := secondShootdown (setValid false s ((pagesFrom x.backing pages.length).map (leafEntry s a) |>.eraseDups)) a
      let t : State := { t with mem := pages.foldl (fun m a => m.wipe a (a + pageBytes)) t.mem }
      let u := writeTables (t.modPart a fun p => { p with proposals := p.proposals.filter fun y => y.id ≠ x.id }) c.entries
      (mapsTo u a x.map (pages.take (32 * x.len)) && mapsTo u page mapB (pages.take (32 * x.len)) && leavesBacking u a x) = true) :
    makeWindow s page c a x mapB pages ≠ s := by
  intro h
  have h := congrArg (fun t : State => t.windows.find? c.window) h
  rw [Bool.and_eq_true, Bool.and_eq_true] at hm
  unfold makeWindow at h
  simp only [hi, he, Bool.not_true, Bool.or_self, Bool.false_eq_true, if_false, List.map_map, Function.comp_def, List.map_id'] at h
  generalize secondShootdown (setValid false s ((pagesFrom x.backing pages.length).map (leafEntry s a)).eraseDups) a = t at h hm
  obtain ⟨hp, hz⟩ := zeroPages_keeps pages t
  generalize zeroPages t pages = z at h hp hz
  have hu (p ipa : Nat) (pages : List Nat) (s' : State) (em : s'.mem = z.mem) (ep : s'.parts = t.parts) :=
    mapsTo_tables c.entries (t := { t with mem := z.mem }) (fun p => { p with proposals := p.proposals.filter fun y => y.id ≠ x.id }) a p ipa pages em ep
  have hl (s' : State) (em : s'.mem = z.mem) (ep : s'.parts = t.parts) :=
    leavesBacking_tables c.entries (t := { t with mem := z.mem }) (fun p => { p with proposals := p.proposals.filter fun y => y.id ≠ x.id }) a x em ep
  rw [← hz] at hm
  obtain ⟨z', e', em, ep, ew⟩ : ∃ z' : State, z' = { z with
      fresh := z.fresh + 3, keys := z.keys.put (128 + c.window) (z.fresh + 2, z.fresh + 2)
      windows := z.windows.put c.window { a := a, b := page, working := pages.take (32 * x.len), published := pages.drop (32 * x.len)
                                          gen := 0, dirtyA := [], dirtyB := [], keyA := Config.kilnRandom z.fresh
                                          keyB := Config.kilnRandom (z.fresh + 1), mapA := x.map, mapB := mapB
                                          leaves := ((pagesFrom x.backing pages.length).map (leafEntry s a)).eraseDups.map fun l =>
                                            (l, BitVec.ofNat 64 (s.mem.num l 8)) } }
      ∧ z'.mem = z.mem ∧ z'.parts = t.parts ∧ (z'.windows.find? c.window).isSome = true :=
    ⟨_, rfl, rfl, hp, by simp only [Tab.find?_put, if_true, Option.isSome_some]⟩
  rw [← e', hu a x.map _ z' em ep, hu page mapB _ z' em ep, hl z' em ep, hm.1.1, hm.1.2, hm.2, if_neg (by decide)] at h
  obtain ⟨m, e⟩ := writeTables_keeps c.entries (z'.modPart a fun p => { p with proposals := p.proposals.filter fun y => y.id ≠ x.id })
  rw [e, hw] at h
  have h : z'.windows.find? c.window = none := h
  rw [h] at ew
  cases ew

/-- A machine with an open window of two pages. -/
def openWindow : Window :=
  { a := 1, b := 2, working := [2 ^ 42], published := [2 ^ 42 + 2 ^ 16], gen := 0, dirtyA := [], dirtyB := [], keyA := 5, keyB := 6
    mapA := 0, mapB := 0, leaves := [(tables + 0x100000, BitVec.ofNat 64 (2 ^ 42 + 0xD))] }

theorem witness_KilnMappings :
    (let s := commanded (here fetchBand) 1 4 0 [0x100000, 1];
      Claims.takesUp s 1 4 ∧ s.parts.has (targetOf s 1) = true)
    ∧ (let d : Shootdown := { part := 1, page := 1, va := 0x100000, pages := 1, gens := [1], tag := 0, mailPage := 1, seq := 4 }
      let s : State := { inCluster { ClusterState.init with walks := [(3, { walkOf none with gen := 1 })] } with
        shootdowns := [d], remotes := [] };
      s.shootdowns[0]? = some d
      ∧ (∀ c ∈ s.clusters, ∀ w ∈ c.2.walks, w.2.part = d.part → d.va < w.2.page.1 + w.2.page.2 → w.2.page.1 < d.va + d.pages * 2 ^ 16 →
        (d.gens.getD c.1 0).toNat ≤ w.2.gen)
      ∧ allRequests s = [] ∧ s.remotes = [])
    ∧ (let s := { commanded agreed 1 5 0 [2, 1, 0, 0x400000] with mem := windowMem };
      Claims.takesUp s 1 5 ∧ (s.part 1).state = 1 ∧ s.parts.has 1 = true ∧ argAt s 1 0 8 = 2 ∧ (s.part 2).state = 1 ∧ argAt s 1 8 8 = 1
      ∧ argAt s 1 16 8 = 0 ∧ argAt s 1 24 8 = 0x400000 ∧ 0x400000 % 2 ^ 21 = 0 ∧ (backingPages s 1 0 1).isSome = true
      ∧ (s.part 1).proposals.length < 4)
    ∧ (let s := accepting;
      Claims.takesUp s 2 6 ∧ (s.part 2).state = 1 ∧ argAt s 2 0 8 = 1
      ∧ (s.part 1).proposals.find? (fun x => x.id = argAt s 2 8 8 && x.peer = 2 && x.len = argAt s 2 16 8) = some proposal
      ∧ backingPages s 1 proposal.backing proposal.len = some bulkPages ∧ argAt s 2 24 8 = 0 ∧ s.windows = []
      ∧ makeWindow accepting 2 windowChoice 1 proposal 0 bulkPages ≠ accepting)
    ∧ (let s := { commanded agreed 2 7 0 [6 + 7 * 2 ^ 32] with windows := [(7, openWindow)] };
      Claims.takesUp s 2 7 ∧ windowOf s 2 (BitVec.ofNat 32 (argAt s 2 0 4)) (BitVec.ofNat 32 (argAt s 2 4 4)) = some (7, openWindow)
      ∧ pagesIdle s (openWindow.working ++ openWindow.published) = true
      ∧ (∀ p ∈ openWindow.working ++ openWindow.published, ∀ e ∈ openWindow.leaves, e.1 + 8 ≤ p ∨ p + 2 ^ 16 ≤ e.1)
      ∧ openWindow.leaves.Pairwise fun x y => x.1 + 8 ≤ y.1 ∨ y.1 + 8 ≤ x.1)
    ∧ (let s := commanded agreed 2 7 0 [9];
      Claims.takesUp s 2 7 ∧ windowOf s 2 (BitVec.ofNat 32 (argAt s 2 0 4)) (BitVec.ofNat 32 (argAt s 2 4 4)) = none
      ∧ ∃ e ∈ s.parts, ∃ x ∈ e.2.proposals, x.id = argAt s 2 0 8 ∧ (e.1 = 2 ∨ x.peer = 2)) := by
  unfold Claims.takesUp
  refine ⟨?_, ⟨rfl, ?_, ?_, rfl⟩, ?_, ⟨?_, ?_, ?_, ?_, ?_, ?_, rfl, makeWindow_ne ?_ ?_ rfl ?_⟩, ?_, ?_⟩ <;> decide +kernel

/-- The smallest code object: an empty section of code, behind a header of 64 bytes. -/
def tinyObject : List Byte :=
  leBytes 4 0x004F5956 ++ leBytes 2 1 ++ leBytes 2 1 ++ leBytes 4 0 ++ leBytes 4 1 ++ leBytes 8 64 ++ leBytes 8 96 ++ leBytes 32 0
    ++ leBytes 32 1 ++ leBytes 128 0

/-- Partition 1 with its first two MiB of intermediate memory at themselves in bench unit 0, and the object at its address 0x10000. -/
def loading : State :=
  let m := State.reset.mem.setBytes tables (leBytes 8 (tables + 0x100000 + 3))
  let s := (here fetchBand).modPart 1 fun p => { p with root2 := tables }
  { s with mem := (m.setBytes (tables + 0x100000) (leBytes 8 0xD)).setBytes 0x10000 tinyObject }
def loadRequest : LoadRequest := { part := 1, addr := 0x10000, size := 224, text := 0x20000, rodata := 0x30000, data := 0x40000 }

/-- What entering its graphs leaves of an object that has none. -/
def tinyGraphs (bs : List Byte) : Tab GraphDecl × Tab Nat :=
  enterGraphs bs loadRequest (graphRecords bs.length (contentsOf bs 7)) (loading.part loadRequest.part).graphTable

/-- The signature block of an object of 224 bytes holds under the free verifier of log 4. -/
def signed (bs : List Byte) : Prop :=
  Config.ed25519Verify ((bs.drop 160).take 32) ((bs.drop 96).take 64) (Machine.hash (bs.take 96)) = true

/-- The smallest object passes the checks but for its signature, which is a free value. -/
theorem tiny_passes (h : signed tinyObject) :
    ∀ c, ¬ Claims.loadBar (loading.part loadRequest.part) tinyObject loadRequest (tinyGraphs tinyObject).2 c := by
  have hl : tinyObject.length - 128 = 96 := by decide +kernel
  have hs : (loading.part loadRequest.part).signers = [] := by decide +kernel
  have he : entriesOf tinyObject = [] := by decide +kernel
  have hp : patches tinyObject = [] ∨ ∀ t ∈ patches tinyObject, relocsOf tinyObject t.1 = [] := by decide +kernel
  have hy : symbolsOf tinyObject = [] := by decide +kernel
  have hf : contentsOf tinyObject 6 = [] := by decide +kernel
  intro c
  unfold Claims.loadBar
  split
  · decide +kernel
  · simp only [hl, hs, ne_eq, not_true, false_and, false_or, not_or]
    exact ⟨by decide +kernel, by rw [signed] at h; rw [h]; decide⟩
  · decide +kernel
  · decide +kernel
  · rintro ⟨k, i, hk, hi, hb, hc⟩
    have hz : ∀ k < 8, leAt tinyObject (32 + 4 * k) 4 = 0 := by decide +kernel
    rw [hz k hk, Nat.zero_testBit] at hb
    cases hb
  · unfold Claims.sectionsBad
    rintro (h | h | h | ⟨k, hk, h⟩ | ⟨j, k, hjk, hk, -⟩)
    · revert h; decide +kernel
    · revert h; decide +kernel
    · revert h; decide +kernel
    · have hn : leAt tinyObject 12 4 = 1 := by decide +kernel
      obtain rfl : k = 0 := by omega
      revert h
      decide +kernel
    · have hn : leAt tinyObject 12 4 = 1 := by decide +kernel
      omega
  · simp [he]
  · simp [he]
  · rw [hy]
    rintro (⟨x, hx, -⟩ | ⟨t, ht, x, hx, -⟩)
    · cases hx
    · obtain hp | hp := hp
      · rw [hp] at ht; cases ht
      · rw [hp t ht] at hx; cases hx
  · rw [hf]
    rintro ⟨k, hk, -⟩
    simp at hk
  · exact id

theorem loadBar_first (p : Partition) (bs : List Byte) (r : LoadRequest) (g : Tab Nat) : Claims.loadBar p bs r g 1
    ↔ (bs.length < 192 ∨ leAt bs 0 4 ≠ 0x004F5956 ∨ leAt bs 24 8 ≠ bs.length - 128 ∨ bs.length - 128 < leAt bs 16 8 + 32 * leAt bs 12 4) :=
  Iff.rfl

theorem witness_AttestationAndLoading :
    (let s := { commanded (here fetchBand) 0 8 1 [tables] with fuses := { State.reset.fuses with identity := some 0 } };
      Claims.takesUp s 0 8 ∧ s.fuses.identity.isSome = true ∧ (s.part (targetOf s 0)).state = 1
      ∧ (∀ k ∈ lineChunks 512 (argAt s 0 0 8) (report s (targetOf s 0) (((s.mail.bytes (128 * 0) 64).drop 16).take 32)),
          (hostPlace s 0 k.1 true).isSome = true))
    ∧ (let s := { commanded (here fetchBand) 0 9 0 [tables] with mem := State.reset.mem.setBytes tables [3] };
      Claims.takesUp s 0 9 ∧ leAt (s.mem.bytes (argAt s 0 0 8) 128) 0 4 = 3 ∧ lifeStep s.fuses.life 3 = true
      ∧ authorised s (s.mem.bytes (argAt s 0 0 8) 128) 3 = true
      ∧ ∀ k ∈ lineChunks 128 (argAt s 0 0 8) (s.mem.bytes (argAt s 0 0 8) 128), managed s k.1 = true)
    ∧ ((loading.part loadRequest.part).state = 1 ∧ objectBytes loading loadRequest = tinyObject ∧ loading.parts.has loadRequest.part = true
      ∧ aligned tinyObject loadRequest = true ∧ pagesFit loading tinyObject loadRequest = true)
    ∧ (let bs := objectBytes loading { loadRequest with size := 191 };
      Claims.loadBar (loading.part 1) bs loadRequest (tinyGraphs bs).2 1)
    ∧ (let bs := tinyObject.set 192 1;
      ¬ Claims.loadBar (loading.part 1) bs loadRequest (tinyGraphs bs).2 1 ∧ Claims.loadBar (loading.part 1) bs loadRequest (tinyGraphs bs).2 2)
    ∧ (let bs := tinyObject.set 4 2;
      signed bs → ¬ Claims.loadBar (loading.part 1) bs loadRequest (tinyGraphs bs).2 1
        ∧ ¬ Claims.loadBar (loading.part 1) bs loadRequest (tinyGraphs bs).2 2 ∧ Claims.loadBar (loading.part 1) bs loadRequest (tinyGraphs bs).2 3)
    ∧ Claims.patchFits 4 0 0x1000 ∧ ¬ Claims.patchFits 4 0 0x1001 ∧ ¬ Claims.patchFits 9 0 0 := by
  unfold Claims.takesUp
  refine ⟨⟨?_, ?_, ?_, ?_⟩, ?_, ⟨?_, ?_, ?_, ?_, ?_⟩, ?_, ⟨?_, ?_⟩, ?_, ?_, ?_, ?_⟩
  case refine_11 => exact (loadBar_first _ _ _ _).mpr (.inl (by decide +kernel))
  case refine_12 => exact fun h => absurd ((loadBar_first _ _ _ _).mp h) (by decide +kernel)
  case refine_13 => exact .inr (.inl ⟨1, by decide +kernel, by decide⟩)
  case refine_14 =>
    intro bs h
    refine ⟨fun h => absurd ((loadBar_first _ _ _ _).mp h) (by decide +kernel), ?_, show leAt (tinyObject.set 4 2) 4 2 ≠ 1 by decide +kernel⟩
    have hl : bs.length - 128 = 96 := by decide +kernel
    have hs : (loading.part 1).signers = [] := by decide +kernel
    unfold Claims.loadBar
    simp only [hl, hs, ne_eq, not_true, false_and, false_or, not_or]
    exact ⟨by decide +kernel, by rw [signed] at h; rw [h]; decide⟩
  case refine_15 => unfold Claims.patchFits; decide
  case refine_16 => unfold Claims.patchFits; decide
  case refine_17 => unfold Claims.patchFits; decide
  all_goals decide +kernel

theorem witness_HostAndResets :
    (loading.held = false ∧ (1 : Nat) ≠ 0 ∧ hostPlace loading 1 0x10000 true = some 0x10000 ∧ hostPlace loading 1 0x200000 true = none
    ∧ (0x10000 % 128 + [(7 : Byte)].length ≤ 128)) ∧ { loading with held := true }.held = true
    ∧ (managed (made id) 0 = false ∧ managed (made id) (object5 + 200) = true ∧ (∃ e ∈ (made id).parts, Claims.inEnergy e (object5 + 200))
      ∧ managed (made id) (object5 + 208) = true ∧ ∀ e ∈ (made id).parts, ¬ Claims.inEnergy e (object5 + 208))
    ∧ ({ loading with agenda := [.registerRead 0x1FFE 8] }.agenda = [.registerRead 0x1FFE 8]
      ∧ 0x1000 ≤ 0x1FFE ∧ 0x1FFE < 0x2000 ∧ 0x2000 ≤ 0x1FFE + 2 ∧ 0x10000 + 0x1000 * 127 + 127 < 0x180000)
    ∧ (0x12345 : Word).getLsbD 31 = false ∧ State.reset.iso.getD 63 0 < 2 ^ 31
    ∧ 2 ^ 31 ≤ { State.reset with iso := [(63, 2 ^ 31)] }.iso.getD 63 0 := by
  unfold Claims.inEnergy
  decide +kernel

/-- A remote operation, and a machine with a port that is up. -/
def remoteOp (performed : Bool) (req : Option LineReq) : RemoteOp :=
  { seq := 3, orig := 3, ref := { lnch := 1, bid := 0, slot := 0 }, part := 1, core := 0, dev := 7, pa := 0x40000, data := [1], req := req
    performed := performed, cls := 1, ord := 1, count := none }
def ported (os : List RemoteOp) : State :=
  let s := (here fetchBand).modPart 1 fun p => { p with ports := 1 }
  { s with ports := [(0, { up := true, failed := 0, silent := 0, idle := 0 })], remotes := os }

/-- A collective of this device alone, all of whose contributions have arrived; and a machine whose partition has a ring. -/
def soloCollective (arrived : List (Nat × List Byte)) (members : List Nat) : Collective :=
  { seq := 5, part := 1, ref := none, op := 1, red := 0, typ := 4, group := 0, src := 0x101000, dst := 0x102000, count := 1, root := 0
    cnt := 0x103000, arrivedAt := 0, gseq := 0, members := members, arrived := arrived, since := 0, stage := 0 }
def ringed (tick : Nat) : State :=
  let s := (framed fetchBand).modPart 1 fun p =>
    { p with csize := 4, cring := 0x100400, cdoor := 0x100000, gtab := 0x100800, caps := [(0, 0x7FF)] }
  let m := s.mem.setBytes 0x100400 (leBytes 1 1 ++ leBytes 1 0 ++ leBytes 6 4 ++ leBytes 8 0x101000 ++ leBytes 8 0x102000 ++ leBytes 8 1
    ++ leBytes 8 0x103000 ++ leBytes 20 0 ++ leBytes 4 tick)
  { s with mem := (m.setBytes 0x100800 (leBytes 8 1 ++ leBytes 8 0x100C00)).setBytes 0x100C00 (leBytes 4 State.reset.devid), engines := [(64, 1)] }
def gathered (c : Collective) : State := { ringed 1 with collectives := [c] }

/-- A collective that has its output to write: the pieces of that, and what adds the 1 to its counter when none is posted. -/
def pieces (s : State) (c : Collective) : Except FaultAt Bool :=
  match placesOf s (collectiveIssuer c.part c.ref) true (lineChunks (collectiveOutput s c).length c.dst (collectiveOutput s c)) with
  | .error f => .error f
  | .ok ws => .ok ((Claims.posted (ws.map fun w => (w.1, w.2.1))).isEmpty)

theorem witness_FabricSteps_remote :
    (∀ o ∈ [remoteOp false none, remoteOp false (some oneReq)],
      (ported [o]).remotes[0]? = some o ∧ o.performed = false ∧ isolated (ported [o]) o.dev = false ∧ fabricUp (ported [o]) o.part = true
      ∧ ∀ x ∈ (ported [o]).remotes.take 0, x.performed = false → x.dev = o.dev → x.pa / 128 ≠ o.pa / 128)
    ∧ isolated { ported [remoteOp false none] with iso := [(0, 2 ^ 31 + 7)] } 7 = true
    ∧ (let o := remoteOp true none
      let s := (ported [o]).setCore 0 { CoreState.init with drain := [(1, { count := 1, bands := 1 })] };
      o.performed = true ∧ o.count = none ∧ (s.core o.core).drain.find? o.ref.lnch.toNat = some { count := 1, bands := 1 })
    ∧ (∀ f ∈ [0, 15, 16], ∃ p, { ported [] with ports := [(0, { up := true, failed := f, silent := 36000000, idle := 3600000 })] }.ports.find? 0
        = some p ∧ p.up = true ∧ p.failed = f ∧ 36000000 ≤ p.silent ∧ 3600000 ≤ p.idle) := by
  refine ⟨?_, ?_, ?_, ?_⟩
  case refine_4 =>
    intro f h
    simp only [List.mem_cons, List.not_mem_nil, or_false] at h
    obtain rfl | rfl | rfl := h <;> exact ⟨_, rfl, rfl, rfl, by decide, by decide⟩
  all_goals decide +kernel

theorem witness_FabricSteps_collective :
    (∀ tick ∈ [0, 1], let s := ringed tick
      let t := wheelWrite s 1 ((s.part 1).cdoor + 8) (leBytes 4 1);
      (s.part 1).state ≠ 0 ∧ (s.part 1).csize ≠ 0 ∧ holdsCollective s 1 = true ∧ readNum s 1 ((s.part 1).cdoor + 8) 4 = 0
      ∧ (s.part 1).ticks.find? (0 % (s.part 1).csize) = none
      ∧ (wheelRead s 1 ((s.part 1).cring + 64 * (0 % (s.part 1).csize)) 64).any (fun bs => leAt bs 60 4 = tick
        && recordGood { t with nextId := t.nextId + 1 } (takeRecord { t with nextId := t.nextId + 1 } 1 none t.nextId bs) bs) = true)
    ∧ (let c := soloCollective [(0, [5, 0, 0, 0])] [0]
      let s := gathered c;
      s.collectives[0]? = some c ∧ c.stage = 0 ∧ running s c = true ∧ c.arrived.length = c.members.length
      ∧ holdsCollective s c.part = true ∧ (∀ d ∈ c.members, isolated s d = false) ∧ owes s c.seq = false
      ∧ (match pieces s c, writeVirtual s (collectiveIssuer c.part c.ref) (c.ref.getD nobody) true c.dst (collectiveOutput s c) with
        | .ok true, .ok t => isOk (access t { collectiveIssuer c.part c.ref with cls := 5 } c.cnt (.rmw 8) true)
        | _, _ => false) = true)
    ∧ (let c : Collective := { soloCollective [(0, [5, 0, 0, 0])] [0] with dst := 0x200000 }
      let s : State := { gathered c with tlb := (gathered c).tlb ++ [farPage] };
      (match pieces s c with
        | .ok x => !x
        | .error _ => false) = true)
    ∧ (∀ stage ∈ [1, 2], let c : Collective := { soloCollective [] [0] with stage := stage };
      owes { gathered c with remotes := [{ remoteOp false none with orig := 5 }] } c.seq = true ∧ owes (gathered c) c.seq = false
      ∧ isOk (access (gathered c) { collectiveIssuer c.part c.ref with cls := 5 } c.cnt (.rmw 8) true) = true)
    ∧ (let c := soloCollective [(0, [5, 0, 0, 0])] [0, 9]
      let s := { gathered c with clusters := [(0, { ClusterState.init with clk := 7200000000 })]
                                 ports := [(0, { up := true, failed := 0, silent := 0, idle := 0 })] }
      let v : Word := 2 ^ 31 + 9
      let s' := { s with iso := s.iso.setD 0 ((v.extractLsb' 0 21).toNat + (if v.getLsbD 31 then 2 ^ 31 else 0)) 0 };
      s.collectives[0]? = some c ∧ c.stage = 0 ∧ c.arrived ≠ [] ∧ c.arrived.length ≠ c.members.length
      ∧ (∀ d ∈ c.members, isolated s d = false) ∧ c.since + 7200000000 ≤ collectiveClock s c.part
      ∧ s.held = false ∧ linked s = true ∧ s.iso.getD 0 0 < 2 ^ 31 ∧ (s.collectives.map (·.seq)).Nodup
      ∧ (∃ d ∈ c.members, isolated s' d = true) ∧ (∀ x ∈ s.collectives, x.stage = 0 → (∃ d ∈ x.members, isolated s' d = true) → x = c)
      ∧ s.parts.has c.part = true ∧ (((s.part c.part).waiting.filter fun r => !r.kept).length < 255)) := by
  refine ⟨?_, ?_, ?_, ?_, ?_⟩ <;> decide +kernel

theorem witness_PowerAndClock :
    (let s : State := { here { fetchBand with board := [(4, 3)] } with quads := [(0, { Quad.init with owner := 1, pipes := [(1, 2)] })] };
      ((s.quad 0).pipes.map Prod.fst).Nodup ∧ (s.quad 0).pipes.find? 1 = some 2 ∧ (1 : Nat) ≠ 0
      ∧ s.bands.find? 0 = some { fetchBand with board := [(4, 3)] } ∧ (s.slot 0).state = 1
      ∧ ([((4 : Nat), (3 : Nat))].map Prod.fst).Nodup ∧ 0 < Config.clusters
      ∧ ∃ x, { s with slots := [(0, x)] }.slots.find? 0 = some x ∧ s.bands.has 0 = true)
    ∧ (let w : Wait := { aWait .regroup with left := 5 };
      (here (waiting w)).bands.find? 0 = some (waiting w) ∧ (waiting w).prog.find? 0 = some (pathAt 0x400 1 (some w)) ∧ w.kind = .regroup) :=
  ⟨⟨by decide, rfl, by decide, rfl, rfl, by decide, by decide, SlotState.init, rfl, rfl⟩, rfl, rfl, rfl⟩

theorem witness_DecodeOfEncode : (Instr.addi 4 6 3039).wf = true ∧ encode (.addi 4 6 3039) = some 0x18106BDF := ⟨rfl, rfl⟩

theorem witness_StepRunsDecoded :
    (let s := State.reset.withFetchWord 32 0x18106BDF
      let s' := { s with agenda := [] }
      let r := (settleFences { s' with cur := 0 }).modBand (·.switchTo 0)
      let x := exchangeHeld (r.band.seenBy 0) r r;
      s.held = false ∧ s.agenda = [.band 0] ∧ s.bands.find? 0 = some fetchBand ∧ delivers s' 0 = false ∧ candidate s' 0 = some 0
      ∧ x.band.path.rep = none ∧ fetchWord x x.band.pc = .ok 0x18106BDF ∧ decode 0x18106BDF = .ok (.addi 4 6 3039)
      ∧ fetches r r.band = true
      ∧ (∃ u, exec (.addi 4 6 3039) x = .next u ∧ stuck r (exchangeHeld (r.band.seenBy 0) r u) (upcoming r r.band) = false
        ∧ trapHeld 0 r (exchangeHeld (r.band.seenBy 0) r u) = false)
      ∧ ∀ j, j < 8 → precedes s' 0 (8 * quadOf 0 + j) = false)
    ∧ (let s := State.reset.withFetchWord 32 0x18106BDF;
      nextIssue { s with agenda := [] } = some 0 ∧ nextIssue { s with agenda := [], bands := [] } = none)
    ∧ (let d : Delivery := { path := 0, rcd := [], code := 0x12 }
      let s := here { fetchBand with deliveries := [d] };
      delivers s 0 = true) := by
  refine ⟨⟨rfl, rfl, rfl, ?_, ?_, rfl, rfl, rfl, ?_, ⟨_, rfl, ?_, ?_⟩, ?_⟩, ⟨?_, ?_⟩, ?_⟩ <;> decide +kernel

theorem witness_MemoryKeptCanonical : let s := State.reset.withFetchWord 32 0x18106BDF
    MemoryWf s ∧ ∃ t, step s = .next t := by
  refine ⟨?_, ?_⟩
  · unfold MemoryWf
    decide +kernel
  · exact ⟨_, rfl⟩

/-- Words of the spec's worked programs (R94, R125, R127, R128 and the worked problems), as printed there. -/
theorem test_worked_words : ∀ e ∈ [
    (0x10004106, Instr.add 4 4 6), (0x10848106, .sltn 8 4 6), (0x10005148, .add 5 5 8), (0x21200678, .sli 9 0x678),
    (0x21312345, .slu 9 0x12345), (0x18280000, .addi 10 0 0), (0x00100054, .modei 0 0x54), (0x0A2FFFFD, .bnz 11 0x3FFFD),
    (0x2828C000, .voteCnt 12 0), (0x28400000, .lid 0), (0x58008A00, .vbs 2 20), (0x5821C188, .vrd 7 3 8),
    (0x5962858B, .vredminx 10 11 11), (0x60400001, .vcmp .lt 0 .set 0 1), (0x6838C0A1, .lds 0 12 2 33),
    (0x6870B228, .ldsAcq 0 11 8 .device), (0x78024007, .fld 0 0 9 7), (0x8003400C, .fst none 0 13 12), (0x900081A1, .aaddNr none 8 6 1),
    (0x98082108, .cpy16 2 4 8), (0xA030918D, .cbpeek 9 6 13), (0xA8040085, .pfence 2 5), (0xB107FFD0, .wld 1 63 63 16),
    (0xB2081FD8, .mloop 2 1 63 24), (0xB8019400, .launch 25 16), (0xB8180187, .gstop 6 7), (0xD0010003, .fla 0 4 3)],
    decode? e.1 = some e.2 := by decide

/-- What one instruction leaves of the band of `here`. -/
def after (i : Instr) (b : Band) : Band :=
  match exec i (here b) with
  | .next t => (t.bands.find? 0).getD b
  | .fault _ | .refused _ => b

/-- R125: results of two operands, from the table of the rule. -/
theorem test_scalar_results : ∀ e ∈ [
    (Instr.add 5 6 7, 0xFFFFFFFF, 2, 1), (.sub 5 6 7, 1, 2, 0xFFFFFFFF), (.mul24 5 6 7, 0x01FFFFFF, 3, 0xFFFFFFFD),
    (.mul 5 6 7, 0x10001, 0x10001, 0x20001), (.mulh 5 6 7, 0xFFFFFFFF, 2, 0xFFFFFFFF), (.mulhn 5 6 7, 0xFFFFFFFF, 2, 1),
    (.andn 5 6 7, 0xFF, 0x0F, 0xF0), (.orn 5 6 7, 1, 0xFFFFFFF0, 15), (.sll 5 6 7, 1, 33, 2), (.srl 5 6 7, 0x80000000, 31, 1),
    (.sra 5 6 7, 0x80000000, 4, 0xF8000000), (.rol 5 6 7, 0x80000001, 4, 0x18), (.ror 5 6 7, 1, 1, 0x80000000),
    (.min 5 6 7, 0x80000000, 1, 0x80000000), (.minn 5 6 7, 0x80000000, 1, 1), (.max 5 6 7, 0xFFFFFFFF, 0, 0),
    (.maxn 5 6 7, 0xFFFFFFFF, 0, 0xFFFFFFFF), (.slt 5 6 7, 0x80000000, 0, 1), (.sltn 5 6 7, 0x80000000, 0, 0), (.eq 5 6 7, 3, 3, 1),
    (.popc 5 6, 0xF0F, 0, 8), (.clz 5 6, 0, 0, 32), (.ctz 5 6, 8, 0, 3), (.brev 5 6, 1, 0, 0x80000000),
    (.bswap 5 6, 0x01020304, 0, 0x04030201), (.sxb 5 6, 0x180, 0, 0xFFFFFF80), (.sxh 5 6, 0x8000, 0, 0xFFFF8000),
    (.zxb 5 6, 0x180, 0, 0x80), (.zxh 5 6, 0x18000, 0, 0x8000)],
    (after e.1 (withS [(6, BitVec.ofNat 32 e.2.1), (7, BitVec.ofNat 32 e.2.2.1)])).sreg 5 = BitVec.ofNat 32 e.2.2.2 := by decide +kernel

/-- R126, R127: results of an immediate. -/
theorem test_scalar_immediates : ∀ e ∈ [
    (Instr.addi 5 6 0xFFF, 0, 0xFFFFFFFF), (.andi 5 6 0x800, 0xFFFFFFFF, 0xFFFFF800), (.xori 5 6 0xFFF, 0, 0xFFFFFFFF),
    (.slti 5 6 0xFFF, 0xFFFFFFFE, 1), (.sltni 5 6 0xFFF, 0xFFFFFFFF, 0), (.slli 5 6 31, 3, 0x80000000), (.srai 5 6 1, 0x80000000, 0xC0000000),
    (.rori 5 6 8, 0xFF, 0xFF000000), (.muli 5 6 0xFFF, 5, 0xFFFFFFFB), (.sli 5 0x80000, 0, 0xFFF80000)],
    (after e.1 (withS [(6, BitVec.ofNat 32 e.2.1)])).sreg 5 = BitVec.ofNat 32 e.2.2 := by decide +kernel

/-- R127: `slu` keeps bits 11 to 0, as in the rule's example. -/
theorem test_slu : (after (.slu 9 0x12345) (withS [(9, 0x678)])).sreg 9 = 0x12345678 := by decide

/-- R11, R20: a write to s0 is discarded; one to s60 keeps occupied lanes only. -/
theorem test_special_registers : (after (.addi 0 0 5) fetchBand).sreg 0 = 0 ∧ (after (.addi 60 0 0xFFF) fetchBand).sreg 60 = 1 := by decide

/-- R81, R129, R130: branches by three words and by −1 word from their own address, and `jl s1` by the old s1. -/
theorem test_branches :
    (after (.br 3) fetchBand).pc = fetchBand.pc + 12 ∧ (after (.bz 4 0x3FFFF) fetchBand).pc = fetchBand.pc - 4
    ∧ (after (.bneg 4 3) (withS [(4, 0x80000000)])).pc = fetchBand.pc + 12 ∧ (after (.bnneg 4 3) (withS [(4, 0x80000000)])).pc = fetchBand.pc + 4
    ∧ (after (.jl 1) (withS [(1, 0x800)])).pc = 0x800
    ∧ (after (.jl 1) (withS [(1, 0x800)])).sreg 1 = (fetchBand.pc + 4).extractLsb' 0 32 := by decide

/-- The band with another MR and vector registers. -/
def lanes (m : Word) (vs : Tab Word) : Band := { fetchBand with mr := m, vregs := vs }

/-- R46, R160: shifts under i16, whose result is sign-extended in its register; and a shift by the width. -/
theorem test_vector_shifts :
    (after (.vsll 3 1 2) (lanes 2 [(96, 0x4001), (192, 1)])).vlane 3 0 = 0xFFFF8002
    ∧ (after (.vsrl 3 1 2) (lanes 2 [(96, 0x8000), (192, 16)])).vlane 3 0 = 0 := by decide

/-- R163: the rule's example of the fused form, and its product alone rounded to nearest. -/
theorem test_vfma : (after (.vfma 3 1 2) (lanes 8 [(96, 0x3F800001), (192, 0x3F7FFFFE), (288, 0xBF800000)])).vlane 3 0 = 0xA8800000
    ∧ (after (.vfmul 3 1 2) (lanes 8 [(96, 0x3F800001), (192, 0x3F7FFFFE)])).vlane 3 0 = 0x3F800000 := by decide +kernel

/-- R165: the classes of −∞, −0 and a NaN. -/
theorem test_vfclass : ([((0xFF800000 : Word), (1 : Word)), (0x80000000, 8), (0x7FC00000, 256)].all fun e =>
    (after (.vfclass 3 1) (lanes 8 [(96, e.1)])).vlane 3 0 = e.2) = true := by decide +kernel

/-- R142, R152: a trap saves the next word's address and the lanes, and its cause is 0x10000 and the number. -/
theorem test_trap :
    (match exec (.trap 9) (handled fetchBand) with
    | .next t => (t.bands.find? 0).any fun b =>
        b.inTrap && b.tpc = fetchBand.pc + 4 && b.tcause = 0x10009 && b.tmask = 1 && b.pc = 0x4000
    | .fault _ | .refused _ => false) = true := by decide +kernel

/-- R74, R83: the first word after reset that this machine has placed runs. -/
theorem test_first_step :
    (match step (State.reset.withFetchWord 32 0x18100005) with
    | .next t => (t.bands.find? 0).any fun b => b.sreg 4 = 5 && b.pc = fetchBand.pc + 4
    | .fault _ | .refused _ => false) = true := by decide +kernel

/-- R443 to R445, the chapter's example: where the metadata of line 100,000 of channel 37 lie, its write with MAJOR 3 and MINOR 127, the IV
then, and byte 36 of its unit. -/
theorem test_glaze : unitOffset (100000 / 64) = 0x5A0C3400 ∧ tagOffset 100000 = 0x5A0C3520
    ∧ ({ major := 3, minor := [(3, 9), (32, 127)] } : CounterBlock).bump 32 = { major := 4, minor := [(32, 1)] }
    ∧ lineIv 37 100000 (({ major := 4, minor := [(32, 1)] } : CounterBlock).count 32) = [0x25, 0x01, 0x86, 0xA0, 0, 0, 0, 0, 0, 0, 2, 1]
    ∧ ({ major := 4, minor := [(32, 1)] } : CounterBlock).bytes.getD 0 0 = 4
    ∧ ({ major := 4, minor := [(32, 1)] } : CounterBlock).bytes.getD 36 0 = 1 := by decide +kernel

/-- What a slipcode opcode leaves on top of a stack of values, given top first. -/
def slipTop (code : List Byte) (xs : List SlipValue) : Option SlipValue :=
  match slipRunStep { tid := 7, symbols := [] } { rest := code, stack := xs, locals := [], blocks := [] } State.reset with
  | .ok (t, _) => t.stack.head?
  | .error _ => none

/-- R121: an i32 subtraction takes the second operand from the first, and an f32 addition adds 1.0 and 2.0. -/
theorem test_slip_values : slipTop [0x21] [⟨1, 3⟩, ⟨1, 5⟩] = some ⟨1, 2⟩
    ∧ slipTop [0x50] [⟨2, 0x40000000⟩, ⟨2, 0x3F800000⟩] = some ⟨2, 0x40400000⟩ := by decide +kernel

/-- R120, R121: a body with one i32 local, which counts from its zero up to 3 in a loop, and then meets `trap 0`. -/
theorem test_slip_loop :
    (slipRun { tid := 7, symbols := [] } 64
      (slipEnter [20, 0, 0, 0, 1, 0, 2, 0, 1,
        0x03, 0x00, 0x10, 0, 0x14, 1, 0x20, 0x12, 0, 0x14, 3, 0x82, 0x08, 0, 0x06, 0x00])
      State.reset).map Prod.fst = some .trap0 := by decide +kernel

end Sys2Proof.Tests
end

section
/-!
PROOFS. System registers (R32 to R34, R138, R139, R408): the number of each register, what the rules say of a number in terms of
the register that it names, and the two instructions that reach it.
-/
namespace Sys2Proof

/-! ## The numbers of the registers (R32) -/

/-- The number of the LO word of a pair; the HI word has the next one. -/
def PairReg.number : PairReg → Nat
  | .energy => 0x010 | .clock => 0x018 | .thb => 0x020 | .thl => 0x022 | .tho => 0x024 | .rwpc => 0x040 | .tpc => 0x0C0

/-- The number of a register. -/
def SysReg.number : SysReg → Nat
  | .caps k => k.val
  | .lo p => p.number
  | .hi p => p.number + 1
  | .lnchid => 0x030 | .slotid => 0x031 | .level => 0x032
  | .rwset k => 0x042 + k.val
  | .rwstat => 0x046 | .repst => 0x050
  | .frec k => 0x060 + k.val
  | .olog k => 0x080 + k.val
  | .tmr => 0x0C2 | .tcause => 0x0C3
  | .tmask k => 0x0C4 + k.val

/-- A register that is no word of a pair. -/
def SysReg.single : SysReg → Bool
  | .lo _ | .hi _ => false
  | .caps _ | .lnchid | .slotid | .level | .rwset _ | .rwstat | .repst | .frec _ | .olog _ | .tmr | .tcause | .tmask _ => true

/-- A branch on the number that yields a register of that number, before others that do. -/
theorem ite_some_number {n : Nat} {c : Prop} [Decidable c] {x r : SysReg} {o : Option SysReg} (hx : c → n = x.number)
    (ho : o = some r → n = r.number) : (if c then some x else o) = some r → n = r.number := by
  split
  · next hc => rintro ⟨⟩; exact hx hc
  · exact ho

/-- A number that names a register is that register's. -/
theorem sysReg?_number {n : BitVec 12} {r : SysReg} : sysReg? n = some r → n.toNat = r.number := by
  simp only [sysReg?]
  repeat refine ite_some_number (fun h => by simp only [SysReg.number, PairReg.number, Fin.ofNat]; omega) ?_
  exact nofun

/-- The numbers of the pairs are theirs alone, and so are the numbers after them. -/
theorem SysReg.number_of_single {r : SysReg} (h : r.single = true) (p : PairReg) :
    r.number ≠ p.number ∧ r.number - 1 ≠ p.number := by
  cases r with
  | lo q | hi q => cases h
  | lnchid | slotid | level | rwstat | repst | tmr | tcause => cases p <;> decide
  | caps k | rwset k | frec k | olog k | tmask k => cases p <;> simp only [SysReg.number, PairReg.number] <;> omega

namespace Machine

/-! ## What the rules say of a number, for the register that it names -/

/-- The registers that only trap mode may read. -/
theorem privileged_number (r : SysReg) : Claims.privileged r.number ↔ r.privRead = true := by
  cases r with
  | lo p | hi p => cases p <;> simp [Claims.privileged, SysReg.number, PairReg.number, SysReg.privRead]
  | caps k | rwset k | frec k | olog k | tmask k =>
    simp only [Claims.privileged, SysReg.number, SysReg.privRead, Bool.false_eq_true, iff_false, iff_true]; omega
  | lnchid | slotid | level | rwstat | repst | tmr | tcause => simp [Claims.privileged, SysReg.number, SysReg.privRead]

@[simp] theorem pairAt_number (s : State) (b : Band) (p : PairReg) :
    Claims.pairAt s b p.number = some (p, pairValue s b p) := by cases p <;> rfl

@[simp] theorem pairAt_number_succ (s : State) (b : Band) (p : PairReg) : Claims.pairAt s b (p.number + 1) = none := by
  cases p <;> rfl

theorem pairAt_eq_none (s : State) (b : Band) {n : Nat} (h : ∀ p : PairReg, n ≠ p.number) : Claims.pairAt s b n = none := by
  simp only [Claims.pairAt, show ¬ n = 0x010 from h .energy, show ¬ n = 0x018 from h .clock, show ¬ n = 0x020 from h .thb,
    show ¬ n = 0x022 from h .thl, show ¬ n = 0x024 from h .tho, show ¬ n = 0x040 from h .rwpc, show ¬ n = 0x0C0 from h .tpc, if_false]

theorem pairAt_single (s : State) (b : Band) {r : SysReg} (h : r.single = true) :
    Claims.pairAt s b r.number = none ∧ Claims.pairAt s b (r.number - 1) = none :=
  ⟨pairAt_eq_none s b fun p => (SysReg.number_of_single h p).1, pairAt_eq_none s b fun p => (SysReg.number_of_single h p).2⟩

/-! ### Reads -/

/-- The halves of an address in the operand log. -/
theorem w32_addr (a : Addr) : w32 a.toNat = a.extractLsb' 0 32 ∧ w32 (a.toNat / 2 ^ 32) = (a.extractLsb' 32 16).setWidth 32 := by
  refine ⟨rfl, BitVec.eq_of_toNat_eq ?_⟩
  simp [w32, BitVec.extractLsb'_toNat]
  omega

/-- A word of a logged instruction by its place in the entry, as the rules and as the model give it. -/
theorem sysValue_olog (s : State) (b : Band) (k : Fin 64) :
    Claims.sysValue s b (SysReg.olog k).number = some (ologWord b k.val) := by
  have hm : (0x080 + k.val) % 16 = k.val % 16 := by omega
  unfold Claims.sysValue ologWord
  rw [(pairAt_single s b rfl).1, (pairAt_single s b rfl).2]
  dsimp only [SysReg.number]
  repeat refine (if_neg (by omega)).trans ?_
  refine (if_pos (by omega)).trans ?_
  rw [Nat.add_sub_cancel_left, hm]
  cases b.olog.find? (k.val / 16) with
  | none => rfl
  | some e =>
    obtain ⟨lo, hi⟩ := w32_addr e.cap.pc
    generalize k.val % 16 = j
    match j with
    | 0 => simp only [if_true]; cases e.wait <;> rfl
    | 2 => exact congrArg some lo.symm
    | 3 => exact congrArg some hi.symm
    | 1 | 4 | 5 | 6 | 7 => rfl
    | j + 8 => simp (disch := omega) only [if_neg]

/-- The word that the rules give a number is the one that its register reads as. What REPST shows of a count and in trap mode is the
model's own reading on both sides (logs 13 and 14). -/
theorem sysValue_number (s : State) (b : Band) (r : SysReg) : Claims.sysValue s b r.number = some (sysRead s b r) := by
  cases r with
  | lo p => simp only [Claims.sysValue, SysReg.number, pairAt_number]; rfl
  | hi p => simp only [Claims.sysValue, SysReg.number, pairAt_number_succ, Nat.add_sub_cancel, pairAt_number]; rfl
  | olog k => exact sysValue_olog s b k
  | lnchid | slotid | level | repst | tmr | tcause => rfl
  | rwstat =>
    show some _ = some _
    simp only [sysRead]
    cases b.boundary <;> rfl
  | caps k | rwset k | frec k | tmask k =>
    unfold Claims.sysValue
    rw [(pairAt_single s b rfl).1, (pairAt_single s b rfl).2]
    dsimp only [SysReg.number]
    repeat refine (if_neg (by omega)).trans ?_
    refine (if_pos (by omega)).trans ?_
    simp only [Nat.add_sub_cancel_left, sysRead]

/-- Only a LO word fills a read latch. -/
theorem readLatched_number (s : State) (b : Band) (r : SysReg) : Claims.readLatched s b r.number = latchRead s b r := by
  cases r with
  | lo p => simp only [Claims.readLatched, SysReg.number, pairAt_number]; rfl
  | hi p => simp only [Claims.readLatched, SysReg.number, pairAt_number_succ]; rfl
  | _ => rw [Claims.readLatched, (pairAt_single s b rfl).1]; rfl

/-! ### Writes -/

/-- The check of a commit is the rules', but for the pairs that no write reaches. -/
theorem committable_eq {p : PairReg} (h : (SysReg.hi p).readOnly = false) (v : Nat) : Claims.committable p v = pairCheck p v := by
  cases p with
  | clock | rwpc => cases h
  | energy | thb | thl | tho | tpc => rfl

theorem committed_eq (b : Band) (p : PairReg) (v : Nat) : Claims.committed b p v = b.setPair p v := by cases p <;> rfl

/-- What the rules make of a write to a number is what its register does with it. -/
theorem sysWritten_number (s : State) (b : Band) {r : SysReg} (h : r.readOnly = false) (v : Word) :
    Claims.sysWritten s b r.number v = sysWrite s b r v := by
  cases r with
  | lo p =>
    have hp : ¬ (p = .clock ∨ p = .rwpc) := by rintro (rfl | rfl) <;> cases h
    simp only [Claims.sysWritten, SysReg.number, pairAt_number, if_neg hp, sysWrite]
  | hi p =>
    simp only [Claims.sysWritten, SysReg.number, pairAt_number_succ, Nat.add_sub_cancel, pairAt_number, committable_eq h,
      committed_eq, sysWrite]
    rfl
  | tmr | tcause => rfl
  | frec k | olog k | tmask k =>
    unfold Claims.sysWritten
    rw [(pairAt_single s b rfl).1, (pairAt_single s b rfl).2]
    dsimp only [SysReg.number]
    repeat refine (if_neg (by omega)).trans ?_
    refine (if_pos (by omega)).trans ?_
    simp only [Nat.add_sub_cancel_left, sysWrite]
  | caps _ | lnchid | slotid | level | rwset _ | rwstat | repst => cases h

/-! ## The two instructions (R138, R139) -/

theorem wf_mfsr (d : SReg) (n : BitVec 12) : (Instr.mfsr d n).wf = (sysReg? n).isSome := rfl

theorem wf_mtsr (v : SReg) (n : BitVec 12) : (Instr.mtsr v n).wf = (sysReg? n).any fun r => !r.readOnly := by
  change (match sysReg? n with | some r => !r.readOnly | none => false) = _
  cases sysReg? n <;> rfl

theorem sysReg?_of_wf_mfsr {d : SReg} {n : BitVec 12} (h : (Instr.mfsr d n).wf = true) : ∃ r, sysReg? n = some r :=
  Option.isSome_iff_exists.mp h

theorem sysReg?_of_wf_mtsr {v : SReg} {n : BitVec 12} (h : (Instr.mtsr v n).wf = true) :
    ∃ r, sysReg? n = some r ∧ r.readOnly = false := by
  rw [wf_mtsr, Option.any_eq_true] at h
  simpa using h

theorem exec_mfsr {s : State} {b : Band} {d : SReg} {n : BitVec 12} {r : SysReg} (h : s.holds b) (hn : sysReg? n = some r) :
    exec (.mfsr d n) s = .next (if r.privRead && !b.inTrap then trapPriv s (wordOf (.mfsr d n))
      else s.setBand ((latchRead s b r).writeS d.val (sysRead s b r)).advance) := by
  refine (issue_legal h (by rw [wf_mfsr, hn]; rfl) rfl).trans ?_
  simp only [hn]

theorem exec_mtsr {s : State} {b : Band} {v : SReg} {n : BitVec 12} {r : SysReg} (h : s.holds b) (hn : sysReg? n = some r)
    (hr : r.readOnly = false) : exec (.mtsr v n) s = .next (if !b.inTrap then trapPriv s (wordOf (.mtsr v n))
      else (sysWrite s b r (b.sreg v.val)).elim (trapIllegal s (wordOf (.mtsr v n))) fun c => s.setBand c.advance) := by
  refine (issue_legal h (by simp [wf_mtsr, hn, hr]) rfl).trans ?_
  simp only [hn]
  cases sysWrite s b r (b.sreg v.val) <;> rfl

/-- A unit that changes its band to c, and goes on. -/
theorem ends_advance {s s' : State} {c : Band} {i : Instr} (h : exec i s = .next (s'.setBand c.advance)) :
    Claims.Ends s s' c i (Claims.ofScalars []) :=
  ⟨_, h, nofun, nofun, Frame.advance _ _ _ _, GoesOn.advance rfl⟩

/-- A unit that changes its band to c, writes one scalar register and goes on. -/
theorem ends_writeS_advance {s s' : State} {c : Band} {i : Instr} {d : Nat} {v : Word}
    (h : exec i s = .next (s'.setBand (c.writeS d v).advance)) : Claims.Ends s s' c i (Claims.ofScalars [(d, v)]) := by
  refine ⟨_, h, fun w hw => ?_, nofun, (Frame.writeS c d v ⟨_, List.mem_singleton_self _, rfl⟩).trans (Frame.advance _ _ _ _),
    GoesOn.advance (Band.path_writeS c d v)⟩
  obtain rfl := List.mem_singleton.mp hw
  rw [Band.sreg_advance, Band.sreg_writeS_same]

/-! ### Outside trap mode (R32, R138, R143) -/

theorem exec_tret_untrapped {s : State} {b : Band} (h : s.holds b) (ht : b.inTrap = false) :
    exec .tret s = .next (trapPriv s (wordOf .tret)) := by
  refine (issue_legal h rfl rfl).trans ?_
  simp only [ht, Bool.not_false, if_true]

theorem exec_mfsr_untrapped {s : State} {b : Band} {d : SReg} {n : BitVec 12} (h : s.holds b) (ht : b.inTrap = false)
    (hw : (Instr.mfsr d n).wf = true) (hp : Claims.privileged n.toNat) :
    exec (.mfsr d n) s = .next (trapPriv s (wordOf (.mfsr d n))) := by
  obtain ⟨r, hn⟩ := sysReg?_of_wf_mfsr hw
  rw [sysReg?_number hn, privileged_number] at hp
  simp [exec_mfsr h hn, hp, ht]

theorem exec_mtsr_untrapped {s : State} {b : Band} {v : SReg} {n : BitVec 12} (h : s.holds b) (ht : b.inTrap = false)
    (hw : (Instr.mtsr v n).wf = true) : exec (.mtsr v n) s = .next (trapPriv s (wordOf (.mtsr v n))) := by
  obtain ⟨r, hn, hr⟩ := sysReg?_of_wf_mtsr hw
  simp [exec_mtsr h hn hr, ht]

/-! ### What a read and a write leave (R32 to R34, R138, R139, R408) -/

theorem mfsr_ends {s : State} {b : Band} {d : SReg} {n : BitVec 12} {v : Word} (h : s.holds b) (hw : (Instr.mfsr d n).wf = true)
    (hp : Claims.privileged n.toNat → b.inTrap = true) (hv : Claims.sysValue s b n.toNat = some v) :
    Claims.Ends s s (Claims.readLatched s b n.toNat) (.mfsr d n) (Claims.ofScalars [(d, v)]) := by
  obtain ⟨r, hn⟩ := sysReg?_of_wf_mfsr hw
  rw [sysReg?_number hn, privileged_number] at hp
  rw [sysReg?_number hn, sysValue_number] at hv
  obtain rfl := Option.some.inj hv
  have allowed : (r.privRead && !b.inTrap) = false := by
    cases hr : r.privRead with
    | false => rfl
    | true => rw [hp hr]; rfl
  rw [sysReg?_number hn, readLatched_number]
  exact ends_writeS_advance (by simp [exec_mfsr h hn, allowed])

theorem exec_mtsr_refused {s : State} {b : Band} {v : SReg} {n : BitVec 12} (h : s.holds b) (ht : b.inTrap = true)
    (hw : (Instr.mtsr v n).wf = true) (hs : Claims.sysWritten s b n.toNat (b.sreg v) = none) :
    exec (.mtsr v n) s = .next (trapIllegal s (wordOf (.mtsr v n))) := by
  obtain ⟨r, hn, hr⟩ := sysReg?_of_wf_mtsr hw
  rw [sysReg?_number hn, sysWritten_number s b hr] at hs
  simp [exec_mtsr h hn hr, ht, hs]

theorem mtsr_ends {s : State} {b c : Band} {v : SReg} {n : BitVec 12} (h : s.holds b) (ht : b.inTrap = true)
    (hw : (Instr.mtsr v n).wf = true) (hs : Claims.sysWritten s b n.toNat (b.sreg v) = some c) :
    Claims.Ends s s c (.mtsr v n) (Claims.ofScalars []) := by
  obtain ⟨r, hn, hr⟩ := sysReg?_of_wf_mtsr hw
  rw [sysReg?_number hn, sysWritten_number s b hr] at hs
  exact ends_advance (by simp [exec_mtsr h hn hr, ht, hs])

end Machine
open Machine

/-- Settles O26: a well-formed number names a register, by which the rules and the model agree on its privilege, its word, its read
latch and what a write of it leaves. -/
theorem systemRegisters : Obligations.SystemRegisters := by
  refine ⟨fun s b hb ht => ⟨exec_tret_untrapped hb ht, fun d n hw hp _ => exec_mfsr_untrapped hb ht hw hp,
    fun v n hw => exec_mtsr_untrapped hb ht hw⟩, fun s b d n v hb hw hp hv => mfsr_ends hb hw hp hv, fun s b v n hb ht hw => ?_⟩
  cases hs : Claims.sysWritten s b n.toNat (b.sreg v) with
  | none => exact exec_mtsr_refused hb ht hw hs
  | some c => exact mtsr_ends hb ht hw hs

end Sys2Proof
end

section
/-!
PROOFS. Scalar arithmetic (R94, R125 to R127): each operation of the model on words is the rules' on the numbers that the words stand
for, and each form writes the value of its operation.
-/
namespace Sys2Proof.Machine

/-! ## Sums and differences (R125) -/

theorem add_eq_ofNat (a b : Word) : a + b = BitVec.ofNat 32 (a.toNat + b.toNat) := by
  rw [BitVec.ofNat_add, BitVec.ofNat_toNat, BitVec.ofNat_toNat, BitVec.setWidth_eq, BitVec.setWidth_eq]

theorem mul_eq_ofNat (a b : Word) : a * b = BitVec.ofNat 32 (a.toNat * b.toNat) := by
  rw [BitVec.ofNat_mul, BitVec.ofNat_toNat, BitVec.ofNat_toNat, BitVec.setWidth_eq, BitVec.setWidth_eq]

theorem sub_eq_ofInt (a b : Word) : a - b = BitVec.ofInt 32 (a.toNat - b.toNat) := by
  refine BitVec.eq_of_toNat_eq ?_
  rw [BitVec.toNat_sub, BitVec.toNat_ofInt]
  omega

/-! ## Shifts and rotations (R125, R126) -/

theorem sllWord_eq (a : Word) (c : Nat) : sllWord a c = BitVec.ofNat 32 (a.toNat * 2 ^ c) := by
  refine BitVec.eq_of_toNat_eq ?_
  rw [sllWord, BitVec.toNat_shiftLeft, Nat.shiftLeft_eq, BitVec.toNat_ofNat]

theorem srlWord_eq (a : Word) (c : Nat) : srlWord a c = BitVec.ofNat 32 (a.toNat / 2 ^ c) := by
  rw [← Nat.shiftRight_eq_div_pow, ← BitVec.toNat_ushiftRight, BitVec.ofNat_toNat, BitVec.setWidth_eq, srlWord]

theorem sraWord_eq (a : Word) (c : Nat) : sraWord a c = Claims.shiftSigned a c := by
  have h : a.toInt / 2 ^ c = (a.sshiftRight c).toInt := by
    rw [BitVec.toInt_sshiftRight, Int.shiftRight_eq_div_pow, Int.natCast_pow]; rfl
  rw [sraWord, Claims.shiftSigned, h, BitVec.ofInt_toInt]

/-- The bits that a rotation moves past bit 31 do not meet the others, so that the two parts add. -/
theorem toNat_rotateLeft_eq_add (a : Word) {c : Nat} (h : c < 32) :
    (a.rotateLeft c).toNat = a.toNat * 2 ^ c % 2 ^ 32 + a.toNat / 2 ^ (32 - c) := by
  have hp : 2 ^ 32 = 2 ^ c * 2 ^ (32 - c) := by rw [← Nat.pow_add, Nat.add_sub_cancel' (Nat.le_of_lt h)]
  have low : a.toNat / 2 ^ (32 - c) < 2 ^ c := by
    refine Nat.div_lt_of_lt_mul ?_
    rw [Nat.mul_comm, ← hp]
    exact a.isLt
  have high : a.toNat * 2 ^ c % 2 ^ 32 = 2 ^ c * (a.toNat % 2 ^ (32 - c)) := by
    rw [hp, Nat.mul_comm, Nat.mul_mod_mul_left]
  rw [BitVec.toNat_rotateLeft, Nat.mod_eq_of_lt h, Nat.shiftLeft_eq, Nat.shiftRight_eq_div_pow, high,
    Nat.two_pow_add_eq_or_of_lt low]

theorem rolWord_eq (a : Word) {c : Nat} (h : c < 32) : rolWord a c = Claims.rotate a c := by
  refine BitVec.eq_of_toNat_eq ?_
  rw [Claims.rotate, BitVec.toNat_ofNat, ← Nat.mod_add_mod, ← toNat_rotateLeft_eq_add a h, Nat.mod_eq_of_lt (BitVec.isLt _),
    rolWord]

/-- A rotation to the right is one to the left by what is left of 32. -/
theorem rorWord_eq (a : Word) {c : Nat} (h : c < 32) : rorWord a c = Claims.rotate a ((32 - c) % 32) := by
  rw [← rolWord_eq a (Nat.mod_lt _ (by decide))]
  refine BitVec.eq_of_getLsbD_eq fun i hi => ?_
  rw [rorWord, rolWord, BitVec.getLsbD_rotateRight, BitVec.getLsbD_rotateLeft, Nat.mod_mod, Nat.mod_eq_of_lt h]
  rcases Nat.eq_zero_or_pos c with rfl | hc
  · simp only [Nat.sub_zero, hi, decide_true, Nat.zero_add, Bool.true_and, cond_true, Nat.mod_self, Nat.not_lt_zero, decide_false,
      cond_false]
  · rw [Nat.mod_eq_of_lt (by omega : 32 - c < 32), Nat.sub_sub_self (Nat.le_of_lt h)]

theorem count5_lt (b : Word) : count5 b < 32 := Nat.mod_lt _ (by decide)

/-! ## Minima, maxima and comparisons (R125) -/

/-- A weaker condition chooses the same word, where it holds alone only for equal words. -/
theorem ite_eq_ite_of_imp {p q : Prop} [Decidable p] [Decidable q] {a b : Word} (weaker : q → p) (same : p → ¬ q → a = b) :
    (if p then a else b) = if q then a else b := by
  by_cases hq : q
  · rw [if_pos (weaker hq), if_pos hq]
  · by_cases hp : p
    · rw [if_pos hp, if_neg hq, same hp hq]
    · rw [if_neg hp, if_neg hq]

theorem minWord_eq (a b : Word) : minWord a b = if a.toInt < b.toInt then a else b :=
  ite_eq_ite_of_imp Int.le_of_lt fun le nlt => BitVec.toInt_inj.mp (Int.le_antisymm le (Int.not_lt.mp nlt))

theorem minnWord_eq (a b : Word) : minnWord a b = if a.toNat < b.toNat then a else b :=
  ite_eq_ite_of_imp Nat.le_of_lt fun le nlt => BitVec.toNat_inj.mp (Nat.le_antisymm le (Nat.not_lt.mp nlt))

theorem maxWord_eq (a b : Word) : maxWord a b = if a.toInt < b.toInt then b else a := by
  simp only [maxWord, ge_iff_le, ← Int.not_lt, ite_not]

theorem maxnWord_eq (a b : Word) : maxnWord a b = if a.toNat < b.toNat then b else a := by
  simp only [maxnWord, ge_iff_le, ← Nat.not_lt, ite_not]

theorem boolWord_decide (p : Prop) [Decidable p] : boolWord (decide p) = Claims.truth p := by
  simp only [boolWord, Claims.truth, decide_eq_true_eq]

/-! ## Counted and reversed bits (R125) -/

theorem oneBits_succ (w x : Nat) : Claims.oneBits (w + 1) x = Claims.oneBits w x ++ if x.testBit w then [w] else [] := by
  rw [Claims.oneBits, List.range_succ, List.filter_append, List.filter_cons, List.filter_nil, Claims.oneBits]

theorem lt_of_getLast?_oneBits {w x j : Nat} (h : (Claims.oneBits w x).getLast? = some j) : j < w :=
  List.mem_range.mp (List.mem_filter.mp (List.mem_of_getLast? h)).1

/-- Without a bit that is 1, all bits are leading zeros; else those above the last such bit are. -/
theorem leadZeros_eq (w x : Nat) : leadZeros w x = ((Claims.oneBits w x).getLast?.map fun j => w - 1 - j).getD w := by
  induction w with
  | zero => rfl
  | succ w ih =>
    rw [leadZeros, ih, oneBits_succ]
    by_cases hw : x.testBit w = true
    · simp only [hw, if_true, Nat.add_sub_cancel, List.getLast?_append, List.getLast?_singleton, Option.some_or, Option.map_some,
        Nat.sub_self, Option.getD_some]
    · rw [if_neg hw, if_neg hw, List.append_nil]
      cases hj : (Claims.oneBits w x).getLast? with
      | none => rfl
      | some j =>
        have := lt_of_getLast?_oneBits hj
        change w - 1 - j + 1 = w + 1 - 1 - j
        omega

/-- What the rules say of clz, in terms of the model's count of leading zeros. -/
theorem salu_clz (b : Band) (d x : SReg) :
    Claims.salu b (.clz d x) = some (Claims.ofScalars [(d.val, w32 (leadZeros 32 (b.sreg x).toNat))]) := by
  rw [leadZeros_eq, show Claims.oneBits 32 (b.sreg x).toNat = Claims.ones (b.sreg x) from rfl]
  simp only [Claims.salu]
  cases (Claims.ones (b.sreg x)).getLast? <;> rfl

theorem trailZeros_eq (w x : Nat) : trailZeros w x = (Claims.oneBits w x).head?.getD w := by
  rw [trailZeros, Claims.oneBits, List.head?_filter]

theorem revBits_succ (w x : Nat) : revBits (w + 1) x = 2 * revBits w x + (x.testBit w).toNat := by
  rw [revBits, List.range_succ, List.foldl_append]; rfl

theorem testBit_revBits (w x i : Nat) : (revBits w x).testBit i = (decide (i < w) && x.testBit (w - 1 - i)) := by
  induction w generalizing i with
  | zero => exact Nat.zero_testBit i
  | succ w ih =>
    have bit : (x.testBit w).toNat < 2 := Bool.toNat_lt _
    rw [revBits_succ]
    cases i with
    | zero =>
      rw [Nat.testBit_zero, Nat.mul_add_mod, Nat.mod_eq_of_lt bit, decide_eq_true (Nat.zero_lt_succ w), Bool.true_and]
      change decide ((x.testBit w).toNat = 1) = x.testBit w
      cases x.testBit w <;> rfl
    | succ i =>
      have half : (2 * revBits w x + (x.testBit w).toNat) / 2 = revBits w x := by omega
      rw [Nat.testBit_succ, half, ih, show w + 1 - 1 - (i + 1) = w - 1 - i by omega]
      simp only [Nat.add_lt_add_iff_right]

theorem revBits_eq_reverse (a : Word) : w32 (revBits 32 a.toNat) = a.reverse := by
  refine BitVec.eq_of_getLsbD_eq fun i hi => ?_
  rw [w32, BitVec.getLsbD_ofNat, testBit_revBits, BitVec.getLsbD_reverse, BitVec.getMsbD, BitVec.getLsbD]
  simp only [hi, decide_true, Nat.add_one_sub_one, Bool.true_and]

/-! ## Parts of a word (R125, R127) -/

/-- A word above another adds to it. -/
theorem toNat_append_eq_add {m n : Nat} (x : BitVec m) (y : BitVec n) : (x ++ y).toNat = x.toNat * 2 ^ n + y.toNat := by
  rw [BitVec.toNat_append, ← Nat.shiftLeft_add_eq_or_of_lt y.isLt, Nat.shiftLeft_eq]

theorem bswapWord_eq (a : Word) : bswapWord a = a.extractLsb' 0 8 ++ a.extractLsb' 8 8 ++ a.extractLsb' 16 8 ++ a.extractLsb' 24 8 := by
  refine BitVec.eq_of_toNat_eq ?_
  simp only [bswapWord, leBytes, List.reverse_cons, List.reverse_nil, List.nil_append, List.cons_append, leNat, w32, BitVec.toNat_ofNat,
    toNat_append_eq_add, BitVec.extractLsb'_toNat, Nat.shiftRight_eq_div_pow, Nat.div_div_eq_div_mul, Nat.reduceMul, Nat.reducePow,
    Nat.div_one]
  omega

theorem zeroExtend_eq_ofNat (a : Word) (n : Nat) : (a.setWidth n).setWidth 32 = BitVec.ofNat 32 (a.toNat % 2 ^ n) := by
  rw [← BitVec.ofNat_toNat, BitVec.toNat_setWidth]

theorem slu_eq_ofNat (a : Word) (i : BitVec 20) :
    i ++ a.setWidth 12 = BitVec.ofNat 32 (i.toNat * 2 ^ 12 + a.toNat % 2 ^ 12) := by
  refine BitVec.eq_of_toNat_eq ?_
  rw [toNat_append_eq_add, BitVec.toNat_setWidth, BitVec.toNat_ofNat]
  omega

/-- The rules widen an immediate as the model does (R94). -/
theorem imm_eq_wide {n : Nat} (b : Band) (x : BitVec n) : b.imm x = Claims.wide b x := by
  simp only [Band.imm, wideImm, Claims.wide]
  cases b.path.limm <;> rfl

/-! ## The shapes of the forms -/

section
variable {s : State} {b : Band} {i : Instr} {e : Claims.Effect} {v : Word}

/-- A form that writes what the rules give for its destination, and nothing else, completes (R20, R11). -/
theorem completes_of_unit {d : Nat} {f : Band → Word} (hb : s.holds b) (hw : i.wf = true)
    (hx : exec i s = unit i s always fun c => c.writeS d (f c)) (he : some (Claims.ofScalars [(d, v)]) = some e) (hv : f b = v) :
    Claims.Completes s b i e := by
  obtain rfl := Option.some.inj he
  subst hv
  exact ends_writeS_advance (hx.trans (unit_next hb hw rfl))

/-- With an immediate, the operand is the rules' widened one (R94). -/
theorem completes_of_scalarImm {d x : SReg} {m : BitVec 12} {f : Word → Word → Word} (hb : s.holds b) (hw : i.wf = true)
    (hx : exec i s = scalarImm i d x m f s) (he : some (Claims.ofScalars [(d.val, v)]) = some e)
    (hv : f (b.sreg x) (Claims.wide b m) = v) : Claims.Completes s b i e :=
  completes_of_unit hb hw hx he (by rw [imm_eq_wide, hv])
end

/-! ## The forms -/

/-- R125: each SALU form writes the value of its operation on the two words; where no lemma is cited, the rules and the model write
the same term. -/
theorem salu_completes {s : State} {b : Band} {i : Instr} {e : Claims.Effect} (hb : s.holds b) (hw : i.wf = true)
    (he : Claims.salu b i = some e) : Claims.Completes s b i e := by
  cases i with
  | and | or | xor | andn | orn | mul24 | mulh | mulhn => exact completes_of_unit hb hw rfl he rfl
  | add => exact completes_of_unit hb hw rfl he (add_eq_ofNat _ _)
  | sub => exact completes_of_unit hb hw rfl he (sub_eq_ofInt _ _)
  | mul => exact completes_of_unit hb hw rfl he (mul_eq_ofNat _ _)
  | sll => exact completes_of_unit hb hw rfl he (sllWord_eq _ _)
  | srl => exact completes_of_unit hb hw rfl he (srlWord_eq _ _)
  | sra => exact completes_of_unit hb hw rfl he (sraWord_eq _ _)
  | rol => exact completes_of_unit hb hw rfl he (rolWord_eq _ (count5_lt _))
  | ror => exact completes_of_unit hb hw rfl he (rorWord_eq _ (count5_lt _))
  | min => exact completes_of_unit hb hw rfl he (minWord_eq _ _)
  | max => exact completes_of_unit hb hw rfl he (maxWord_eq _ _)
  | minn => exact completes_of_unit hb hw rfl he (minnWord_eq _ _)
  | maxn => exact completes_of_unit hb hw rfl he (maxnWord_eq _ _)
  | slt | sltn | eq => exact completes_of_unit hb hw rfl he (boolWord_decide _)
  | popc | sxb | sxh => exact completes_of_unit hb hw rfl he rfl
  | clz => exact completes_of_unit hb hw rfl ((salu_clz b _ _).symm.trans he) rfl
  | ctz => exact completes_of_unit hb hw rfl he (congrArg w32 (trailZeros_eq _ _))
  | brev => exact completes_of_unit hb hw rfl he (revBits_eq_reverse _)
  | bswap => exact completes_of_unit hb hw rfl he (bswapWord_eq _)
  | zxb | zxh => exact completes_of_unit hb hw rfl he (zeroExtend_eq_ofNat _ _)
  | _ => cases he

/-- R126, R127: the SALUI forms share SALU's operations, on the widened immediate or on a fixed count; sli and slu place theirs. -/
theorem salui_completes {s : State} {b : Band} {i : Instr} {e : Claims.Effect} (hb : s.holds b) (hw : i.wf = true)
    (he : Claims.salui b i = some e) : Claims.Completes s b i e := by
  cases i with
  | andi | ori | xori => exact completes_of_scalarImm hb hw rfl he rfl
  | addi => exact completes_of_scalarImm hb hw rfl he (add_eq_ofNat _ _)
  | muli => exact completes_of_scalarImm hb hw rfl he (mul_eq_ofNat _ _)
  | slti | sltni => exact completes_of_scalarImm hb hw rfl he (boolWord_decide _)
  | slli => exact completes_of_unit hb hw rfl he (sllWord_eq _ _)
  | srli => exact completes_of_unit hb hw rfl he (srlWord_eq _ _)
  | srai => exact completes_of_unit hb hw rfl he (sraWord_eq _ _)
  | rori d x c => exact completes_of_unit hb hw rfl he (rorWord_eq _ c.isLt)
  | sli => exact completes_of_unit hb hw rfl he rfl
  | slu => exact completes_of_unit hb hw rfl he (slu_eq_ofNat _ _)
  | _ => cases he

end Sys2Proof.Machine

namespace Sys2Proof
open Machine

/-- Settles O1: form by form, the model's operation on words is the rules', and the form writes its value to s[D] and goes on. -/
theorem scalarRegisterForms : Obligations.ScalarRegisterForms :=
  ⟨fun _ _ _ _ hb hw he => salu_completes hb hw he, fun _ _ _ _ hb hw he => salui_completes hb hw he⟩

end Sys2Proof
end

section
/-!
PROOFS. The writes of register forms: a form that ends with writes of registers, each named once, has the effect that names those
registers and their values.
-/
namespace Sys2Proof.Machine

/-! ## Lists of writes -/

/-- Writes of vector registers in the lanes m, each with its value for each lane. -/
def vectorWrites (m : Lanes) (vs : List (Nat × (Nat → Word))) : List RegWrite := vs.map fun x => vWrite x.1 m (laneVals m x.2)

/-- Writes of scalar registers. -/
def scalarWrites (xs : List (Nat × Word)) : List RegWrite := xs.map fun x => sWrite x.1 x.2

theorem frame_vectorWrites (b : Band) (m : Lanes) (vs : List (Nat × (Nat → Word))) :
    Frame b (b.writeAll (vectorWrites m vs)) noReg (fun v => ∃ x ∈ vs, x.1 = v) m :=
  Band.frame_writeAll b _ fun w hw => by
    obtain ⟨x, hx, rfl⟩ := List.mem_map.mp hw
    exact ⟨⟨x, hx, rfl⟩, rfl⟩

theorem frame_scalarWrites (b : Band) (xs : List (Nat × Word)) :
    Frame b (b.writeAll (scalarWrites xs)) (fun r => ∃ x ∈ xs, x.1 = r) noReg 0 :=
  Band.frame_writeAll b _ fun w hw => by
    obtain ⟨x, hx, rfl⟩ := List.mem_map.mp hw
    exact ⟨x, hx, rfl⟩

/-- A register that the other writes do not name keeps what its own write put there. -/
theorem vlane_vectorWrites {m : Lanes} {l : Nat} (hl : l < 96) (hm : m.getLsbD l = true) (b : Band)
    (vs : List (Nat × (Nat → Word))) (hd : (vs.map Prod.fst).Nodup) {x : Nat × (Nat → Word)} (hx : x ∈ vs) :
    (b.writeAll (vectorWrites m vs)).vlane x.1 l = x.2 l := by
  induction vs generalizing b with
  | nil => cases hx
  | cons y ys ih =>
    obtain ⟨hy, hys⟩ := List.nodup_cons.mp hd
    change ((b.writeV y.1 m (laneVals m y.2)).writeAll (vectorWrites m ys)).vlane x.1 l = x.2 l
    rcases List.mem_cons.mp hx with rfl | hx
    · rw [(frame_vectorWrites _ m ys).vectors _ _ hl fun ⟨⟨w, hw, e⟩, _⟩ => hy (e ▸ List.mem_map_of_mem hw),
        Band.vlane_writeV _ _ _ _ _ _ hl, if_pos ⟨rfl, hm⟩]
      exact getD_map_laneList m x.2 0 hl hm
    · exact ih _ hys hx

theorem scalarAfter_writeS (b : Band) (d : Nat) (v : Word) : (b.writeS d v).scalarAfter = b.scalarAfter := by
  unfold Band.writeS; rw [Band.setSreg_eq]; rfl

theorem sreg_scalarWrites (b : Band) (xs : List (Nat × Word)) (hd : (xs.map Prod.fst).Nodup) {x : Nat × Word} (hx : x ∈ xs) :
    (b.writeAll (scalarWrites xs)).sreg x.1 = b.scalarAfter x.1 x.2 := by
  induction xs generalizing b with
  | nil => cases hx
  | cons y ys ih =>
    obtain ⟨hy, hys⟩ := List.nodup_cons.mp hd
    change ((b.writeS y.1 y.2).writeAll (scalarWrites ys)).sreg x.1 = b.scalarAfter x.1 x.2
    rcases List.mem_cons.mp hx with rfl | hx
    · rw [(frame_scalarWrites _ ys).scalars _ fun ⟨w, hw, e⟩ => hy (e ▸ List.mem_map_of_mem hw), Band.sreg_writeS_same]
    · rw [ih _ hys hx, scalarAfter_writeS]

/-! ## The effects that they have -/

theorem realises_vectorWrites (b : Band) (m : Lanes) {vs : List (Nat × (Nat → Word))} (hd : (vs.map Prod.fst).Nodup) (ok : Bool) :
    Realises b (vectorWrites m vs) { legal := ok, scalars := [], vectors := vs, lanes := m } where
  regs w hw := by
    obtain ⟨x, hx, rfl⟩ := List.mem_map.mp hw
    exact ⟨⟨x, hx, rfl⟩, rfl⟩
  scalars := nofun
  vectors _ hx _ hl hm := vlane_vectorWrites hl hm b vs hd hx

theorem realises_scalarWrites (b : Band) {xs : List (Nat × Word)} (hd : (xs.map Prod.fst).Nodup) (ok : Bool) :
    Realises b (scalarWrites xs) { legal := ok, scalars := xs, vectors := [], lanes := 0 } where
  regs w hw := by
    obtain ⟨x, hx, rfl⟩ := List.mem_map.mp hw
    exact ⟨⟨x, hx, rfl⟩, (by decide : firstLanes 96 ≠ 0)⟩
  scalars _ hx := sreg_scalarWrites b xs hd hx
  vectors := nofun

/-- No writes have the effect of a form that writes no lane. -/
theorem realises_nil (b : Band) (ok : Bool) (vs : List (Nat × (Nat → Word))) :
    Realises b [] { legal := ok, scalars := [], vectors := vs, lanes := 0 } where
  regs := nofun
  scalars := nofun
  vectors _ _ _ _ hm := by simp at hm

/-! ### Elements (R46, R157, R175) -/

theorem wr_eq_vectorWrites (b : Band) (t : Ty) (d : Nat) (m : Lanes) (f : Nat → Nat) :
    b.wr t d m f = vectorWrites m (Claims.wr t d f) := by
  unfold Band.wr Claims.wr vectorWrites laneVals
  simp only [List.map_map]
  split <;> rfl

theorem nodup_wr (t : Ty) (d : Nat) (f : Nat → Nat) : ((Claims.wr t d f).map Prod.fst).Nodup := by
  unfold Claims.wr
  split <;> simp

/-- Codes count in the lanes that are written only. -/
theorem wr_congr (b : Band) (t : Ty) (d : Nat) {m : Lanes} {f g : Nat → Nat} (h : ∀ l ∈ laneList m, f l = g l) :
    b.wr t d m f = b.wr t d m g := by
  have : (laneList m).map (fun l => (l, f l)) = (laneList m).map fun l => (l, g l) :=
    List.map_congr_left fun l hl => by rw [h l hl]
  simp only [Band.wr, this]

theorem realises_wr (b : Band) (t : Ty) (d : Nat) (ok : Bool) {m : Lanes} {f code : Nat → Nat} (h : ∀ l ∈ laneList m, f l = code l) :
    Realises b (b.wr t d m f) { legal := ok, scalars := [], vectors := Claims.wr t d code, lanes := m } := by
  rw [wr_congr b t d h, wr_eq_vectorWrites]
  exact realises_vectorWrites b m (nodup_wr t d code) ok

theorem scalarResult_eq_scalarWrites (t : Ty) (d code : Nat) : scalarResult t d code = scalarWrites (Claims.scalarWr t d code) := by
  unfold scalarResult Claims.scalarWr
  split <;> rfl

theorem nodup_scalarWr (t : Ty) (d code : Nat) : ((Claims.scalarWr t d code).map Prod.fst).Nodup := by
  unfold Claims.scalarWr
  split <;> simp

/-! ## Forms that end with writes -/

section
variable {s : State} {b : Band} {i : Instr} {e : Claims.Effect} (hb : s.holds b) (hw : i.wf = true)
include hb hw

/-- A legal unit whose writes have an effect completes with it. -/
theorem completes_of_writeAll {legal : Band → Bool} {ws : Band → List RegWrite}
    (hx : exec i s = unit i s legal fun c => c.writeAll (ws c)) (hl : legal b = true) (hr : Realises b (ws b) e) :
    Claims.Completes s b i e := by
  refine queued_delivers (la := 0) (hx.trans ((unit_next hb hw hl).trans ?_)) hb.band hr
  change Host.Outcome.next _ = .next ((deliver s 0 (ws b)).modBand Band.advance)
  rw [deliver_zero, State.modBand, State.band_setBand, setBand_setBand, hb.band]

/-- A form on the codes of the enabled lanes completes with the effect that names its codes (R157). -/
theorem completes_of_vecForm {accept : Ty → Bool} {d : VReg} {rs : List VReg} {f : Band → Nat → Nat} {code : Nat → Nat}
    (hx : exec i s = vecForm i accept d rs f s) (he : some (Claims.lanewise b (accept b.ty) d rs code) = some e)
    (hl : e.legal = true) (hf : ∀ l ∈ laneList b.enabled, f b l = code l) : Claims.Completes s b i e := by
  obtain rfl := Option.some.inj he
  exact completes_of_writeAll hb hw hx hl (realises_wr b b.ty d.val _ hf)
end

end Sys2Proof.Machine
end

section
/-!
PROOFS. The integer vector forms (R160, R161): each operation of the model on codes is the rules' on the integers and bits that the
codes stand for, and each form writes the code of its operation in the enabled lanes.
-/
namespace Sys2Proof.Machine

/-! ## Codes and the integers that they stand for (R45, R157) -/

theorem Band.code_lt (b : Band) (t : Ty) (v l : Nat) : b.code t v l < 2 ^ t.width := by
  unfold Band.code
  split
  · next h =>
    have width : t.width = 64 := by simp only [Ty.width, show t.et = .f64 from of_decide_eq_true h]
    rw [width]
    have := (b.vlane v l).isLt
    have := (b.vlane (v + 1) l).isLt
    omega
  · exact Nat.mod_lt _ (Nat.two_pow_pos _)

theorem codeOf_lt (x : Int) (w : Nat) : codeOf x w < 2 ^ w := by
  have pos : (0 : Int) < 2 ^ w := Int.pow_pos (by decide)
  have h := Int.emod_lt_of_pos x pos
  rw [codeOf, Int.toNat_lt (Int.emod_nonneg _ (Int.ne_of_gt pos))]
  exact_mod_cast h

theorem intOf_true (w c : Nat) : intOf true w c = Claims.signedCode w c := by
  have rest : (c : Int) % 2 ^ w = (c % 2 ^ w : Nat) := by push_cast; rfl
  have half : (2 : Int) ^ (w - 1) = (2 ^ (w - 1) : Nat) := by push_cast; rfl
  simp only [intOf, wrapInt, Claims.signedCode, Bool.true_and, decide_eq_true_eq, rest, half, Int.ofNat_le, ← Nat.not_lt, ite_not]

theorem natCast_emod_of_lt {w c : Nat} (h : c < 2 ^ w) : (c : Int) % 2 ^ w = c := by
  exact_mod_cast congrArg Nat.cast (Nat.mod_eq_of_lt h)

theorem intOf_false {w c : Nat} (h : c < 2 ^ w) : intOf false w c = c := natCast_emod_of_lt h

/-- The integer that a code stands for differs from it by a multiple of 2^w. -/
theorem intOf_emod (s : Bool) (w c : Nat) : intOf s w c % 2 ^ w = c % 2 ^ w := by
  simp only [intOf, wrapInt]
  split
  · rw [Int.sub_emod_right, Int.emod_emod_of_dvd _ (Int.dvd_refl _)]
  · exact Int.emod_emod_of_dvd _ (Int.dvd_refl _)

/-- A code comes back from the integer that it stands for. -/
theorem codeOf_intOf (s : Bool) {w c : Nat} (h : c < 2 ^ w) : codeOf (intOf s w c) w = c := by
  rw [codeOf, intOf_emod, natCast_emod_of_lt h, Int.toNat_natCast]

theorem intOf_inj {s : Bool} {w x y : Nat} (hx : x < 2 ^ w) (hy : y < 2 ^ w) (h : intOf s w x = intOf s w y) : x = y := by
  rw [← codeOf_intOf s hx, h, codeOf_intOf s hy]

/-! ## The operations (R160) -/

theorem mul24Operand_eq (b : Band) (c : Nat) : mul24Operand b.ty c = Claims.low24 b c := by
  unfold mul24Operand Claims.low24
  dsimp only
  generalize min b.ty.width 24 = w
  cases b.ty.signed with
  | false => rfl
  | true =>
    change intOf true w (c % 2 ^ w) = (c % 2 ^ w : Nat) - (if c % 2 ^ w < 2 ^ (w - 1) then (0 : Int) else 2 ^ w)
    rw [intOf_true, Claims.signedCode, Nat.mod_mod]
    split
    · rw [Int.sub_zero]
    · rfl

theorem mul24Of_eq (b : Band) (x y : Nat) : mul24Of b.ty x y = Claims.low24 b x * Claims.low24 b y := by
  rw [mul24Of, mul24Operand_eq, mul24Operand_eq]

theorem mulh32Of_eq (t : Ty) (x y : Nat) :
    mulh32Of t x y = (Claims.signedCode 32 x * Claims.signedCode 32 y / 2 ^ 32 % 2 ^ 32).toNat := by
  rw [mulh32Of, intOf_true, intOf_true, codeOf]

theorem sllCode_eq (w x c : Nat) : sllCode w x c = Claims.shiftLeft w x c := by
  unfold Claims.shiftLeft
  split
  · next h => exact Nat.mod_eq_zero_of_dvd (Nat.dvd_mul_left_of_dvd (Nat.pow_dvd_pow 2 h) x)
  · rfl

theorem srlCode_eq {w x : Nat} (h : x < 2 ^ w) (c : Nat) : srlCode x c = Claims.shiftRight w x c := by
  unfold Claims.shiftRight
  split
  · next hc => exact Nat.div_eq_of_lt (Nat.lt_of_lt_of_le h (Nat.pow_le_pow_right (by decide) hc))
  · rfl

theorem sraCode_eq (w x c : Nat) : sraCode w x c = Claims.shiftArith w x c := by
  rw [sraCode, intOf_true, codeOf, Claims.shiftArith]

/-- Equal integers have one code, so that a tie chooses the same code either way. -/
theorem vminOf_eq {t : Ty} {x y : Nat} (hx : x < 2 ^ t.width) (hy : y < 2 ^ t.width) :
    vminOf t x y = if intOf t.signed t.width x < intOf t.signed t.width y then x else y := by
  unfold vminOf
  split
  · next le =>
    split
    · rfl
    · next nlt => exact intOf_inj hx hy (Int.le_antisymm le (Int.not_lt.mp nlt))
  · next nle => rw [if_neg fun lt => nle (Int.le_of_lt lt)]

theorem vmaxOf_eq (t : Ty) (x y : Nat) :
    vmaxOf t x y = if intOf t.signed t.width x < intOf t.signed t.width y then y else x := by
  simp only [vmaxOf, ge_iff_le, ← Int.not_lt, ite_not]

theorem leadZeros_eq_match (w x : Nat) :
    leadZeros w x = match (Claims.oneBits w x).getLast? with | some j => w - 1 - j | none => w := by
  rw [leadZeros_eq]
  cases (Claims.oneBits w x).getLast? <;> rfl

theorem sum_map_two_mul (f : Nat → Nat) (ls : List Nat) : (ls.map fun j => 2 * f j).sum = 2 * (ls.map f).sum := by
  induction ls with
  | nil => rfl
  | cons j ls ih => rw [List.map_cons, List.sum_cons, ih, List.map_cons, List.sum_cons, Nat.mul_add]

/-- Each further bit moves those before it up by one place. -/
theorem revBits_eq_sum (w x : Nat) : revBits w x = ((Claims.oneBits w x).map fun j => 2 ^ (w - 1 - j)).sum := by
  induction w with
  | zero => rfl
  | succ w ih =>
    have moved : (Claims.oneBits w x).map (fun j => 2 ^ (w + 1 - 1 - j)) = (Claims.oneBits w x).map fun j => 2 * 2 ^ (w - 1 - j) :=
      List.map_congr_left fun j hj => by
        have := List.mem_range.mp (List.mem_filter.mp hj).1
        rw [← Nat.pow_succ', show w + 1 - 1 - j = (w - 1 - j).succ by omega]
    rw [revBits_succ, ih, oneBits_succ, List.map_append, List.sum_append, moved, sum_map_two_mul]
    cases x.testBit w <;> simp

/-! ## The immediate (R161) -/

theorem immCode_eq (b : Band) (m : BitVec 9) : immCode b m = Claims.immBits b m := by
  rw [immCode, imm_eq_wide, codeOf, Claims.immBits]

theorem immCode_lt (b : Band) (m : BitVec 9) : immCode b m < 2 ^ b.ty.width := codeOf_lt _ _

theorem intOf_immCode (b : Band) (m : BitVec 9) : intOf b.ty.signed b.ty.width (immCode b m) = Claims.immInt b m := by
  have lt := immCode_lt b m
  rw [immCode_eq] at lt ⊢
  unfold Claims.immInt
  cases b.ty.signed with
  | true => rw [if_pos rfl, intOf_true]
  | false => rw [if_neg Bool.false_ne_true, intOf_false lt]

theorem count5_imm (c : BitVec 5) : c.toNat % 32 = c.toNat := Nat.mod_eq_of_lt c.isLt

/-! ## The forms -/

section
variable {s : State} {b : Band} {i : Instr} {e : Claims.Effect} (hb : s.holds b) (hw : i.wf = true)
include hb hw

/-- R160: each VALU form writes the code of its operation; where no lemma is cited, the rules and the model write the same term. -/
theorem valu_completes (he : Claims.valu b i = some e) (hl : e.legal = true) : Claims.Completes s b i e := by
  cases i with
  | vadd | vsub | vmul32 | vmulhn32 | vand | vor | vxor | vandn | vrol | vabsd | vpopc | vsel | vmov =>
    exact completes_of_vecForm hb hw rfl he hl fun _ _ => rfl
  | vmul24 =>
    exact completes_of_vecForm hb hw rfl he hl fun _ _ => congrArg (Claims.fitted b) (mul24Of_eq b _ _)
  | vmulh32 => exact completes_of_vecForm hb hw rfl he hl fun _ _ => mulh32Of_eq _ _ _
  | vsll => exact completes_of_vecForm hb hw rfl he hl fun _ _ => sllCode_eq _ _ _
  | vsrl => exact completes_of_vecForm hb hw rfl he hl fun _ _ => srlCode_eq (b.code_lt _ _ _) _
  | vsra => exact completes_of_vecForm hb hw rfl he hl fun _ _ => sraCode_eq _ _ _
  | vmin => exact completes_of_vecForm hb hw rfl he hl fun _ _ => vminOf_eq (b.code_lt _ _ _) (b.code_lt _ _ _)
  | vmax => exact completes_of_vecForm hb hw rfl he hl fun _ _ => vmaxOf_eq _ _ _
  | vclz => exact completes_of_vecForm hb hw rfl he hl fun _ _ => leadZeros_eq_match _ _
  | vctz => exact completes_of_vecForm hb hw rfl he hl fun _ _ => trailZeros_eq _ _
  | vbrev => exact completes_of_vecForm hb hw rfl he hl fun _ _ => revBits_eq_sum _ _
  | _ => cases he

/-- R161: the VALUI forms share VALU's operations, on the immediate's code or on a fixed count. -/
theorem valui_completes (he : Claims.valui b i = some e) (hl : e.legal = true) : Claims.Completes s b i e := by
  cases i with
  | vaddi d x m =>
    exact completes_of_vecForm hb hw rfl he hl fun l _ => congrArg (fun z => Claims.fitted b (Claims.int b x l + z)) (intOf_immCode b m)
  | vmuli24 d x m =>
    refine completes_of_vecForm hb hw rfl he hl fun _ _ => congrArg (Claims.fitted b) ((mul24Of_eq b _ _).trans ?_)
    rw [immCode_eq]; rfl
  | vandi d x m | vori d x m | vxori d x m => exact completes_of_vecForm hb hw rfl he hl fun _ _ => congrArg _ (immCode_eq b m)
  | vslli d x c =>
    exact completes_of_vecForm hb hw rfl he hl fun _ _ => (congrArg _ (count5_imm c)).trans (sllCode_eq _ _ _)
  | vsrli d x c =>
    exact completes_of_vecForm hb hw rfl he hl fun _ _ => (congrArg _ (count5_imm c)).trans (srlCode_eq (b.code_lt _ _ _) _)
  | vsrai d x c =>
    exact completes_of_vecForm hb hw rfl he hl fun _ _ => (congrArg _ (count5_imm c)).trans (sraCode_eq _ _ _)
  | vmini d x m =>
    refine completes_of_vecForm hb hw rfl he hl fun _ _ => (vminOf_eq (b.code_lt _ _ _) (immCode_lt b m)).trans ?_
    rw [intOf_immCode, immCode_eq]; rfl
  | vmaxi d x m =>
    refine completes_of_vecForm hb hw rfl he hl fun _ _ => (vmaxOf_eq _ _ _).trans ?_
    rw [intOf_immCode, immCode_eq]; rfl
  | vmovi d m => exact completes_of_vecForm hb hw rfl he hl fun _ _ => immCode_eq b m
  | _ => cases he
end

end Sys2Proof.Machine

namespace Sys2Proof
open Machine

/-- Settles O2: form by form, the model's operation on codes is the rules', and Wr puts its code into the enabled lanes. -/
theorem vectorIntegerForms : Obligations.VectorIntegerForms :=
  ⟨fun _ _ _ _ hb hw he hl => valu_completes hb hw he hl, fun _ _ _ _ hb hw he hl => valui_completes hb hw he hl⟩

end Sys2Proof
end

section
/-!
PROOFS. The special functions (R166, R167): each form delivers the code of its function in the enabled lanes, and the function's
special results are the rules'.
-/
namespace Sys2Proof.Machine

/-! ## The forms (R166) -/

section
variable {s : State} {b : Band} {i : Instr} {la : LA} {e : Claims.Effect} (hb : s.holds b) (hw : i.wf = true)
include hb hw

/-- A special function whose codes are the rules' delivers the effect that names them, at once or after its window (R84). -/
theorem delivers_of_vecSpecial {w : LA} {d x : VReg}
    (hx : exec i s = vecSpecial i w d x (fun c y n => (Claims.specialCode c n y i).getD 0) s)
    (he : some (w, Claims.lanewise b (vsfTy b.ty) d [x] fun l => (Claims.specialCode b (Claims.val b d l) (Claims.val b x l) i).getD 0)
      = some (la, e))
    (hl : e.legal = true) : Claims.Delivers s s b i la e := by
  obtain ⟨rfl, rfl⟩ := Prod.mk.inj (Option.some.inj he)
  exact queued_delivers (hx.trans (issue_legal hb hw hl)) hb.band (realises_wr b b.ty d.val _ fun _ _ => rfl)

/-- R166: each VSF form gives the code of its function on the operand and the old destination; the rules and the model write the
same term. -/
theorem vsf_delivers (he : Claims.vsf b i = some (la, e)) (hl : e.legal = true) : Claims.Delivers s s b i la e := by
  cases i with
  | vrcp | vrsq | vsqrt | vdiv | vexp2 | vlog2 | vsin | vcos | vtanh =>
    exact delivers_of_vecSpecial hb hw rfl he hl
  | _ => cases he
end

/-! ## Special results (R167) -/

/-- The logarithm of 1, whose significand is the power of two that its exponent takes away. -/
theorem log2_one {m : Nat} {e : Int} (he : e ≤ 0) (hm : m = 2 ^ (-e).toNat) (t : Fmt) (rm : Rounding) (fz : Bool) :
    SpecialFn.log2 (.fin false m e) t rm fz = fround (.zero false) t rm fz := by
  have log : Nat.log2 m = (-e).toNat := by rw [hm, Nat.log2_two_pow]
  have lead : FVal.lead m e = 0 := by rw [FVal.lead, log]; omega
  simp only [SpecialFn.log2, Bool.false_eq_true, if_false]
  rw [if_pos (by rw [log]; exact hm), lead]
  rfl

/-- What the rules say of the logarithm of a positive number. -/
theorem specialValue_vlog2 {la : LA} {d a : VReg} {n y : FVal} {m : Nat} {e : Int}
    (h : Claims.specialValue n (.fin false m e) (.vlog2 la d a) = some y) : (e ≤ 0 ∧ m = 2 ^ (-e).toNat) ∧ y = .zero false := by
  simp only [Claims.specialValue, Option.ite_none_right_eq_some, Option.some.injEq] at h
  exact ⟨h.1, h.2.symm⟩

/-- R167: kind of operand by kind of operand, the function is defined as the rules have its special result. -/
theorem specialCode_of_specialValue {b : Band} {i : Instr} {n x y : FVal} (h : Claims.specialValue n x i = some y) :
    Claims.specialCode b n x i = some (Claims.rounded b y) := by
  cases i with
  | vrcp | vrsq | vsqrt | vexp2 | vsin | vcos | vtanh =>
    cases x with
    | nan | zero s => cases h; rfl
    | inf s | fin s m e => cases s <;> cases h <;> rfl
  | vlog2 =>
    cases x with
    | nan | zero s => cases h; rfl
    | inf s => cases s <;> cases h <;> rfl
    | fin s m e =>
      cases s with
      | true => cases h; rfl
      | false =>
        obtain ⟨⟨he, hm⟩, rfl⟩ := specialValue_vlog2 h
        exact congrArg some (log2_one he hm _ _ _)
  | vdiv =>
    cases n with
    | nan => cases h; rfl
    | zero r | inf r =>
      cases x with
      | nan | zero s | inf s | fin s m' e' => cases h; rfl
    | fin r m e =>
      cases x with
      | nan | zero s | inf s => cases h; rfl
      | fin s m' e' => cases h
  | _ => cases h

end Sys2Proof.Machine

namespace Sys2Proof
open Machine

/-- Settles O4: a form's codes are those of its function, and the function's definition gives the special results. -/
theorem specialFunctions : Obligations.SpecialFunctions :=
  ⟨fun _ _ _ _ _ hb hw he hl => vsf_delivers hb hw he hl, fun _ _ _ _ _ h => specialCode_of_specialValue h⟩

end Sys2Proof
end

section
/-!
PROOFS. Lane moves and running sums (R173, R174, R177): the registers that a value takes move together, and the codes of vscan are
the running sums over the enabled lanes.
-/
namespace Sys2Proof.Machine

/-! ## Moves (R173, R174) -/

theorem nodup_span {α : Type} (b : Band) (r : Nat) (f : Nat → α) :
    (((Claims.span b).map fun k => (r + k, f k)).map Prod.fst).Nodup := by
  unfold Claims.span
  split <;> simp

/-- The model counts the registers of a value, the rules list them. -/
theorem range_moveSpan (b : Band) : List.range (moveSpan b.ty) = Claims.span b := by
  unfold moveSpan Claims.span
  split <;> rfl

theorem realises_spanWrites (b : Band) (d : Nat) (f : Nat → Word) (ok : Bool) :
    Realises b ((Claims.span b).map fun k => sWrite (d + k) (f k))
      { legal := ok, scalars := (Claims.span b).map fun k => (d + k, f k), vectors := [], lanes := 0 } := by
  have h := realises_scalarWrites b (nodup_span b d f) ok
  rwa [scalarWrites, List.map_map] at h

/-- A move writes, in each register of the destination, the lane that it takes of the operand's, or 0. -/
theorem moveLanes_eq_vectorWrites (b : Band) (d x : Nat) {src : Nat → Option Nat} {lane : Nat → Nat}
    (hs : ∀ l, src l = inBand (lane l)) :
    moveLanes b d x src = vectorWrites b.enabled ((Claims.span b).map fun k =>
      (d + k, fun l => if lane l < 96 then b.vlane (x + k) (lane l) else 0)) := by
  rw [moveLanes, range_moveSpan, vectorWrites, List.map_map]
  refine List.map_congr_left fun k _ => congrArg (vWrite (d + k) b.enabled) (congrArg (laneVals b.enabled) (funext fun l => ?_))
  rw [hs, inBand]
  by_cases h : lane l < 96
  · simp only [if_pos h]
  · simp only [if_neg h]

theorem scalarCode_eq (b : Band) (r : Nat) : scalarCode b r = Claims.scalarBits b r := by
  unfold scalarCode Claims.scalarBits
  split <;> rfl

section
variable {s : State} {b : Band} {i : Instr} {e : Claims.Effect} (hb : s.holds b) (hw : i.wf = true)
include hb hw

/-- A form that moves values completes with the effect that names each lane's source. -/
theorem completes_of_moving {legal : Band → Bool} {d x : VReg} {ok : Bool} {src : Band → Nat → Option Nat} {lane : Nat → Nat}
    (hx : exec i s = unit i s legal fun c => c.writeAll (moveLanes c d.val x.val (src c)))
    (he : some (Claims.moving b ok d x lane) = some e) (hl : e.legal = true) (hok : (Claims.moving b ok d x lane).legal = legal b)
    (hs : ∀ l, src b l = inBand (lane l)) : Claims.Completes s b i e := by
  obtain rfl := Option.some.inj he
  refine completes_of_writeAll hb hw hx (hok.symm.trans hl) ?_
  rw [moveLanes_eq_vectorWrites b d.val x.val hs]
  exact realises_vectorWrites b b.enabled (nodup_span b d.val _) _
end

/-- The lane that vwr names, when it is enabled. -/
def vwrLane (b : Band) (r : SReg) : Lanes := b.enabled &&& BitVec.twoPow 96 (b.sreg r.val).toNat

/-- What vwr writes in the lanes m. -/
def vwrWrites (b : Band) (d : VReg) (x : SReg) (m : Lanes) : List RegWrite :=
  if m = 0 then [] else b.wr b.ty d.val m fun _ => scalarCode b x.val

/-- vwr writes its lane, if that is enabled. -/
theorem exec_vwr {s : State} (d : VReg) (x r : SReg) :
    exec (.vwr d x r) s = unit (.vwr d x r) s
      (fun c => c.elem? c.ty d.val && scalarElem? c.ty x.val && (c.sreg r.val).toNat < 96)
      fun c => c.writeAll (vwrWrites c d x (vwrLane c r)) :=
  congrArg (unit _ s _) (funext fun c => by
    unfold vwrWrites
    rw [apply_ite c.writeAll]
    rfl)

theorem realises_vwr (b : Band) (d : VReg) (x : SReg) (m : Lanes) (ok : Bool) :
    Realises b (vwrWrites b d x m)
      { legal := ok, scalars := [], vectors := Claims.wr b.ty d fun _ => Claims.scalarBits b x, lanes := m } := by
  unfold vwrWrites
  split
  · next h => subst h; exact realises_nil b ok _
  · exact realises_wr b b.ty d.val ok fun _ _ => scalarCode_eq b x.val

/-! ## Running sums (R177) -/

theorem filter_lt_eq_nil {ls : List Nat} {l : Nat} (h : ∀ k ∈ ls, l < k) : ls.filter (· < l) = [] :=
  List.filter_eq_nil_iff.mpr fun k hk => by simpa using Nat.le_of_lt (h k hk)

/-- Of ascending lanes, those up to l are those below it, and l. -/
theorem filter_le_eq_append {ls : List Nat} (h : ls.Pairwise (· < ·)) {l : Nat} (hl : l ∈ ls) :
    ls.filter (· ≤ l) = ls.filter (· < l) ++ [l] := by
  induction ls with
  | nil => cases hl
  | cons k ks ih =>
    obtain ⟨above, hks⟩ := List.pairwise_cons.mp h
    rcases List.mem_cons.mp hl with rfl | hl
    · have none_le : ks.filter (· ≤ l) = [] := List.filter_eq_nil_iff.mpr fun j hj => by simpa using above j hj
      simp [none_le, filter_lt_eq_nil above]
    · have := above l hl
      simp [this, Nat.le_of_lt this, ih hks hl]

theorem pairwise_laneList (m : Lanes) : (laneList m).Pairwise (· < ·) := List.pairwise_lt_range.filter _

/-- What a scan gives a lane: its output there, from the state that the lanes below it have left. -/
theorem getD_scan {σ : Type} {scan : List Nat → σ → Tab Nat} {out : σ → Nat → Nat} {next : σ → Nat → σ}
    (hscan : ∀ l ls a, scan (l :: ls) a = (l, out a l) :: scan ls (next a l)) {ls : List Nat} (h : ls.Pairwise (· < ·)) {l : Nat}
    (hl : l ∈ ls) (a : σ) : (scan ls a).getD l 0 = out ((ls.filter (· < l)).foldl next a) l := by
  induction ls generalizing a with
  | nil => cases hl
  | cons k ks ih =>
    obtain ⟨above, hks⟩ := List.pairwise_cons.mp h
    rw [hscan, Tab.getD, Tab.find?_cons]
    rcases List.mem_cons.mp hl with rfl | hl
    · simp [filter_lt_eq_nil above]
    · have lt := above l hl
      rw [if_neg (Nat.ne_of_lt lt), List.filter_cons_of_pos (by simpa using lt)]
      exact ih hks hl _

theorem foldl_add_eq_sum (f : Nat → Int) (ls : List Nat) : ls.foldl (fun z l => z + f l) 0 = (ls.map f).sum := by
  rw [List.sum_eq_foldl, List.foldl_map]

/-- The exact running sum, fitted at each lane. -/
theorem getD_scanInt (b : Band) (x : VReg) {l : Nat} (hl : l ∈ laneList b.enabled) :
    Tab.getD (scanInt (mr.sat b.mr) b x (laneList b.enabled) 0) l 0 = Claims.fitted b (Claims.runInt b x l) := by
  rw [getD_scan (scan := scanInt (mr.sat b.mr) b x) (out := fun a l => fitCode (mr.sat b.mr) b.ty (a + b.rdInt b.ty x.val l))
    (next := fun a l => a + b.rdInt b.ty x.val l) (fun _ _ _ => rfl) (pairwise_laneList _) hl, foldl_add_eq_sum,
    Claims.runInt, filter_le_eq_append (pairwise_laneList _) hl, List.map_append, List.sum_append, List.map_singleton, List.sum_singleton]
  rfl

/-- The running sum of R177 with its code, after one more lane. -/
def floatStep (b : Band) (x : VReg) (a : Nat × FVal) (k : Nat) : Nat × FVal :=
  (fun c : Nat => (c, fdecode c b.ty.fmt)) (Claims.summed b [a.2, Claims.val b x k])

/-- The running sum of floats, rounded at each lane. -/
theorem getD_scanFloat (b : Band) (x : VReg) {l : Nat} (hl : l ∈ laneList b.enabled) :
    Tab.getD (scanFloat b x (laneList b.enabled) (.zero true)) l 0 = Claims.runFloat b x l := by
  rw [getD_scan (scan := scanFloat b x) (out := fun a l => b.fsum [a, fv b x l])
    (next := fun a l => fdecode (b.fsum [a, fv b x l]) (fdesc b)) (fun _ _ _ => rfl) (pairwise_laneList _) hl]
  change _ = (((laneList b.enabled).filter (· ≤ l)).foldl (floatStep b x) (0, .zero true)).1
  rw [filter_le_eq_append (pairwise_laneList _) hl, List.foldl_append]
  have sum := List.foldl_hom Prod.snd (g₁ := floatStep b x) (g₂ := fun a l => fdecode (b.fsum [a, fv b x l]) (fdesc b))
    (init := (0, .zero true)) (l := (laneList b.enabled).filter (· < l)) fun _ _ => rfl
  exact congrArg (fun a => b.fsum [a, fv b x l]) sum

/-- The code of vscan in a lane. -/
theorem getD_scanCodes (b : Band) (x : VReg) {l : Nat} (hl : l ∈ laneList b.enabled) :
    (scanCodes b x).getD l 0 = if b.ty.isInt then Claims.fitted b (Claims.runInt b x l) else Claims.runFloat b x l := by
  unfold scanCodes
  split
  · exact getD_scanInt b x hl
  · exact getD_scanFloat b x hl

/-! ## The forms -/

section
variable {s : State} {b : Band} {i : Instr} {e : Claims.Effect} (hb : s.holds b) (hw : i.wf = true)
include hb hw

/-- R173, R174, R177: each form that moves values takes the rules' lanes, and vscan gives its running sums. -/
theorem vlane_completes (he : Claims.vlane b i = some e) (hl : e.legal = true) : Claims.Completes s b i e := by
  cases i with
  | vbs d r =>
    obtain rfl := Option.some.inj he
    exact completes_of_writeAll hb hw rfl hl (realises_wr b b.ty d.val _ fun _ _ => scalarCode_eq b r.val)
  | vshfl d x y =>
    exact completes_of_moving hb hw rfl he hl ((Bool.and_assoc _ _ _).trans (Bool.and_comm _ _)) fun _ => rfl
  | vshfx d x y =>
    exact completes_of_moving hb hw rfl he hl ((Bool.and_assoc _ _ _).trans (Bool.and_comm _ _)) fun _ => rfl
  | vrot d x r =>
    exact completes_of_moving hb hw rfl he hl rfl fun l => (if_pos (Nat.mod_lt _ (by decide))).symm
  | vwr d x r =>
    obtain rfl := Option.some.inj he
    exact completes_of_writeAll hb hw (exec_vwr d x r) hl (realises_vwr b d x _ _)
  | vrd d x r =>
    obtain rfl := Option.some.inj he
    refine completes_of_writeAll hb hw rfl hl ?_
    rw [range_moveSpan]
    exact realises_spanWrites b d.val _ _
  | vscan d x => exact completes_of_vecForm hb hw rfl he hl fun l hl => getD_scanCodes b x hl
  | _ => cases he
end
end Sys2Proof.Machine
end

section
/-!
PROOFS. Reductions (R175): the model's levels of pairs make the rules' tree, and for an operation with an identity the tree is the
ordered combination of the enabled lanes.
-/
namespace Sys2Proof.Machine

/-! ## The tree -/

section
variable {α : Type} (op : α → α → α)

theorem pairUp_map_range (f : Nat → α) (n : Nat) :
    pairUp op ((List.range (2 * n)).map f) = (List.range n).map fun k => op (f (2 * k)) (f (2 * k + 1)) := by
  induction n generalizing f with
  | zero => rfl
  | succ n ih =>
    rw [show 2 * (n + 1) = 2 * n + 1 + 1 by omega, List.range_succ_eq_map, List.range_succ_eq_map, List.range_succ_eq_map]
    simp only [List.map_cons, List.map_map, pairUp]
    exact congrArg (op (f 0) (f 1) :: ·) (ih (f ∘ Nat.succ ∘ Nat.succ))

/-- After n levels the list holds the nodes of level n. -/
theorem foldl_pairUp (f : Nat → α) (n m : Nat) :
    (List.range n).foldl (fun xs _ => pairUp op xs) ((List.range (2 ^ n * m)).map f) = (List.range m).map (Claims.node op f n) := by
  induction n generalizing m with
  | zero => rw [Nat.pow_zero, Nat.one_mul]; rfl
  | succ n ih =>
    rw [List.range_succ, List.foldl_append, Nat.pow_succ, Nat.mul_assoc, ih (2 * m)]
    exact pairUp_map_range op _ m

/-- The model's tree over the leaves is the rules' root (R175). -/
theorem tree_leaves (b : Band) (one : α) (rd : Nat → α) (dflt : α) :
    tree op dflt (leaves b.enabled rd one) = Claims.root b op one rd := by
  unfold tree leaves
  rw [show 128 = 2 ^ 7 * 1 by rfl, foldl_pairUp]
  rfl

/-! ## What passes through a tree -/

variable {op} {leaf : Nat → α}

theorem node_of_closed {P : α → Prop} (closed : ∀ x y, P x → P y → P (op x y)) (h : ∀ l, P (leaf l)) (n k : Nat) :
    P (Claims.node op leaf n k) := by
  induction n generalizing k with
  | zero => exact h k
  | succ n ih => exact closed _ _ (ih _) (ih _)

theorem root_of_closed {P : α → Prop} (closed : ∀ x y, P x → P y → P (op x y)) (b : Band) {one : α} {rd : Nat → α}
    (hone : P one) (hrd : ∀ l, P (rd l)) : P (Claims.root b op one rd) :=
  node_of_closed closed (fun l => by
    split
    · exact hrd l
    · exact hone) _ _

/-- A map that turns one operation into another turns one tree into the other. -/
theorem map_node {β : Type} {op' : β → β → β} (h : α → β) (hop : ∀ x y, h (op x y) = op' (h x) (h y)) (n k : Nat) :
    h (Claims.node op leaf n k) = Claims.node op' (fun l => h (leaf l)) n k := by
  induction n generalizing k with
  | zero => rfl
  | succ n ih => rw [Claims.node, hop, ih, ih]; rfl

theorem map_root {β : Type} {op' : β → β → β} (h : α → β) (hop : ∀ x y, h (op x y) = op' (h x) (h y)) (b : Band) (one : α)
    (rd : Nat → α) : h (Claims.root b op one rd) = Claims.root b op' (h one) fun l => h (rd l) := by
  rw [Claims.root, map_node h hop]
  simp only [apply_ite h]
  rfl

/-! ## Trees of associative operations -/

/-- On the values P, which it keeps, an associative operation has `one` as its identity. -/
structure NeutralOn (P : α → Prop) (op : α → α → α) (one : α) : Prop where
  closed : ∀ x y, P x → P y → P (op x y)
  mem    : P one
  left   : ∀ x, P x → op one x = x
  right  : ∀ x, P x → op x one = x
  assoc  : ∀ x y z, op (op x y) z = op x (op y z)

/-- A node combines its leaves in their order. -/
theorem foldl_eq_op_node (assoc : ∀ x y z, op (op x y) z = op x (op y z)) (n k : Nat) (z : α) :
    (List.range (2 ^ n)).foldl (fun z j => op z (leaf (2 ^ n * k + j))) z = op z (Claims.node op leaf n k) := by
  induction n generalizing k z with
  | zero => simp [Claims.node]
  | succ n ih =>
    have first : ∀ j, 2 ^ (n + 1) * k + j = 2 ^ n * (2 * k) + j := fun j => by rw [Nat.pow_succ, Nat.mul_assoc]
    have second : ∀ j, 2 ^ n * (2 * k) + (2 ^ n + j) = 2 ^ n * (2 * k + 1) + j := fun j => by rw [Nat.mul_add, Nat.mul_one, Nat.add_assoc]
    rw [Nat.pow_succ, Nat.mul_two, List.range_add, List.foldl_append, List.foldl_map, ← Nat.mul_two, ← Nat.pow_succ]
    simp only [first, second]
    rw [ih, ih, assoc]
    rfl

/-- No padding lane is enabled. -/
theorem laneList_eq_filter (m : Lanes) : laneList m = (List.range 128).filter fun l => l < 96 && m.getLsbD l := by
  have lanes : (List.range 96).filter (fun l => l < 96 && m.getLsbD l) = laneList m :=
    List.filter_congr fun l hl => by simp only [List.mem_range.mp hl, decide_true, Bool.true_and]
  have padding : ((List.range 32).map (96 + ·)).filter (fun l => l < 96 && m.getLsbD l) = [] :=
    List.filter_eq_nil_iff.mpr fun l hl => by
      obtain ⟨j, _, rfl⟩ := List.mem_map.mp hl
      simp
  rw [show 128 = 96 + 32 by rfl, List.range_add, List.filter_append, lanes, padding, List.append_nil]

/-- A lane that is left out may as well contribute the identity. -/
theorem foldl_filter_eq {P : α → Prop} {one : α} (h : NeutralOn P op one) {rd : Nat → α} (hrd : ∀ l, P (rd l)) (p : Nat → Bool)
    (ls : List Nat) {z : α} (hz : P z) :
    (ls.filter p).foldl (fun z l => op z (rd l)) z = ls.foldl (fun z l => op z (if p l then rd l else one)) z := by
  induction ls generalizing z with
  | nil => rfl
  | cons l ls ih =>
    rw [List.foldl_cons, List.filter_cons]
    split
    · exact ih (h.closed _ _ hz (hrd l))
    · rw [h.right z hz, ih hz]

/-- The ordered combination of the enabled lanes is the tree's. -/
theorem foldl_laneList_eq_root {P : α → Prop} {one : α} (h : NeutralOn P op one) (b : Band) {rd : Nat → α} (hrd : ∀ l, P (rd l)) :
    (laneList b.enabled).foldl (fun z l => op z (rd l)) one = Claims.root b op one rd := by
  have tree := foldl_eq_op_node (leaf := fun l => if l < 96 && b.enabled.getLsbD l then rd l else one) h.assoc 7 0 one
  simp only [Nat.mul_zero, Nat.zero_add] at tree
  rw [laneList_eq_filter, foldl_filter_eq h hrd _ _ h.mem]
  exact tree.trans (h.left _ (root_of_closed h.closed b h.mem hrd))
end

/-! ## Sums and bitwise combinations -/

theorem neutralOn_add : NeutralOn (fun _ : Int => True) (· + ·) 0 :=
  ⟨fun _ _ _ _ => trivial, trivial, fun x _ => Int.zero_add x, fun x _ => Int.add_zero x, Int.add_assoc⟩

theorem neutralOn_and (w : Nat) : NeutralOn (· < 2 ^ w) (· &&& ·) (2 ^ w - 1) where
  closed x _ hx _ := Nat.lt_of_le_of_lt Nat.and_le_left hx
  mem := Nat.sub_lt (Nat.two_pow_pos w) Nat.one_pos
  left x hx := by rw [Nat.and_comm, Nat.and_two_pow_sub_one_of_lt_two_pow hx]
  right x hx := Nat.and_two_pow_sub_one_of_lt_two_pow hx
  assoc := Nat.and_assoc

theorem neutralOn_or : NeutralOn (fun _ : Nat => True) (· ||| ·) 0 :=
  ⟨fun _ _ _ _ => trivial, trivial, fun x _ => Nat.zero_or x, fun x _ => Nat.or_zero x, Nat.or_assoc⟩

theorem neutralOn_xor : NeutralOn (fun _ : Nat => True) (· ^^^ ·) 0 :=
  ⟨fun _ _ _ _ => trivial, trivial, fun x _ => Nat.zero_xor x, fun x _ => Nat.xor_zero x, Nat.xor_assoc⟩

/-- Integers are summed exactly and fitted once, floats are rounded at every node. -/
theorem sumCode_eq (b : Band) (x : VReg) : sumCode b x =
    if b.ty.isInt then Claims.fitted b (Claims.root b (· + ·) 0 (Claims.int b x))
    else (Claims.root b (fun a c => (fun k : Nat => (k, fdecode k b.ty.fmt)) (Claims.summed b [a.2, c.2])) (0, .zero true)
      fun l => (Claims.bits b x l, Claims.val b x l)).1 := by
  cases h : b.ty.isInt with
  | true =>
    simp only [sumCode, h, if_true]
    rw [← foldl_laneList_eq_root neutralOn_add b fun _ => trivial]
    rfl
  | false =>
    simp only [sumCode, h, Bool.false_eq_true, if_false]
    rw [tree_leaves]
    rfl

/-! ## Minima and maxima -/

/-- The identity of an integer minimum or maximum. -/
def intExtremeOne (max : Bool) (t : Ty) : Int := if max then minOf t.signed t.width else maxOf t.signed t.width

theorem minOf_le_maxOf (s : Bool) (w : Nat) : minOf s w ≤ maxOf s w := by
  have half : (0 : Int) < 2 ^ (w - 1) := Int.pow_pos (by decide)
  have whole : (0 : Int) < 2 ^ w := Int.pow_pos (by decide)
  cases s
  · change (0 : Int) ≤ 2 ^ w - 1; omega
  · change -(2 : Int) ^ (w - 1) ≤ 2 ^ (w - 1) - 1; omega

/-- An integer in the range of a type is its own wrap (R45, R47). -/
theorem wrapInt_eq_self {s : Bool} {w : Nat} {z : Int} (hw : 0 < w) (lo : minOf s w ≤ z) (hi : z ≤ maxOf s w) :
    wrapInt z s w = z := by
  cases s with
  | false => exact Int.emod_eq_of_lt lo (Int.lt_of_le_sub_one hi)
  | true =>
    have half : (0 : Int) < 2 ^ (w - 1) := Int.pow_pos (by decide)
    have whole : (2 : Int) ^ w = 2 * 2 ^ (w - 1) := by rw [← Int.pow_succ', Nat.sub_add_cancel hw]
    change -(2 : Int) ^ (w - 1) ≤ z at lo
    change z ≤ 2 ^ (w - 1) - 1 at hi
    simp only [wrapInt, Bool.true_and, decide_eq_true_eq, whole]
    generalize (2 : Int) ^ (w - 1) = p at *
    by_cases hz : 0 ≤ z
    · rw [Int.emod_eq_of_lt hz (by omega), if_neg (by omega)]
    · rw [← Int.add_emod_right, Int.emod_eq_of_lt (by omega) (by omega), if_pos (by omega), Int.add_sub_cancel]

/-- The code of an integer in the range of a type stands for it. -/
theorem intOf_codeOf {s : Bool} {w : Nat} {z : Int} (hw : 0 < w) (lo : minOf s w ≤ z) (hi : z ≤ maxOf s w) :
    intOf s w (codeOf z w) = z := by
  have whole : (0 : Int) < 2 ^ w := Int.pow_pos (by decide)
  have code : (codeOf z w : Int) % 2 ^ w = z % 2 ^ w := by
    rw [codeOf, Int.toNat_of_nonneg (Int.emod_nonneg _ (Int.ne_of_gt whole)), Int.emod_emod]
  rw [intOf, wrapInt, code, ← wrapInt, wrapInt_eq_self hw lo hi]

theorem Ty.width_pos_of_isInt {t : Ty} (h : t.isInt = true) : 0 < t.width := by
  obtain ⟨et, f⟩ := t
  cases et with
  | i8 | n8 | i16 | n16 | i32 | n32 => exact Nat.zero_lt_succ _
  | f16 | bf16 | f32 | f64 | fmt => cases h

theorem intOf_codeOf_intExtremeOne (max : Bool) {t : Ty} (h : t.isInt = true) :
    intOf t.signed t.width (codeOf (intExtremeOne max t) t.width) = intExtremeOne max t := by
  have le := minOf_le_maxOf t.signed t.width
  cases max
  · exact intOf_codeOf (Ty.width_pos_of_isInt h) le (Int.le_refl _)
  · exact intOf_codeOf (Ty.width_pos_of_isInt h) (Int.le_refl _) le

/-- The model's choice between two codes. -/
def intExtremeOf (max : Bool) (t : Ty) : Nat → Nat → Nat := if max then vmaxOf t else vminOf t

theorem intExtremeOf_lt (max : Bool) (t : Ty) (x y : Nat) (hx : x < 2 ^ t.width) (hy : y < 2 ^ t.width) :
    intExtremeOf max t x y < 2 ^ t.width := by
  cases max
  · change vminOf t x y < _; unfold vminOf; split <;> assumption
  · change vmaxOf t x y < _; unfold vmaxOf; split <;> assumption

/-- The rules' choice between two integers. -/
def intExtreme (max : Bool) (a c : Int) : Int := if max then Max.max a c else Min.min a c

/-- The chosen code stands for the chosen integer. -/
theorem intOf_intExtremeOf (max : Bool) (t : Ty) (x y : Nat) : intOf t.signed t.width (intExtremeOf max t x y) =
    intExtreme max (intOf t.signed t.width x) (intOf t.signed t.width y) := by
  cases max
  · change intOf _ _ (vminOf t x y) = Min.min _ _
    rw [vminOf, apply_ite (intOf t.signed t.width), Int.min_def]
  · change intOf _ _ (vmaxOf t x y) = Max.max _ _
    rw [vmaxOf_eq, apply_ite (intOf t.signed t.width)]
    split <;> omega

/-- The one pair that the order of R164 separates and the comparison does not. -/
theorem belowVal_eq (x y : FVal) : belowVal x y = Claims.below x y := by
  cases x with
  | zero p =>
    cases y with
    | zero q => cases p <;> cases q <;> rfl
    | nan | inf _ | fin _ _ _ => cases p <;> exact Bool.or_false _
  | nan | inf _ | fin _ _ _ => exact Bool.or_false _

theorem minmaxCode_eq (max : Bool) : minmaxCode max = Claims.extremeOp max := by
  funext x y
  simp only [minmaxCode, Claims.extremeOp, belowVal_eq]

/-- An operand's code as it is returned. -/
theorem operandCode_eq (t : Fmt) (c : Nat) (x : FVal) : operandCode t c x = Claims.kept t c x := by
  cases x with
  | zero n => cases n <;> cases h : t.nz <;> simp [operandCode, Claims.kept, zeroCode, Fmt.withSign, h]
  | nan | inf _ | fin _ _ _ => rfl

/-- The chosen code of an integer type is the chosen integer's. -/
theorem tree_intExtremeOf (max : Bool) (b : Band) (x : VReg) (h : b.ty.isInt = true) :
    tree (intExtremeOf max b.ty) (codeOf (intExtremeOne max b.ty) b.ty.width)
      (leaves b.enabled (b.code b.ty x.val) (codeOf (intExtremeOne max b.ty) b.ty.width)) =
    codeOf (Claims.root b (intExtreme max) (intExtremeOne max b.ty) (Claims.int b x)) b.ty.width := by
  have lt := root_of_closed (intExtremeOf_lt max b.ty) b (codeOf_lt (intExtremeOne max b.ty) b.ty.width) (b.code_lt b.ty x.val)
  have int := map_root (intOf b.ty.signed b.ty.width) (intOf_intExtremeOf max b.ty) b (codeOf (intExtremeOne max b.ty) b.ty.width)
    (b.code b.ty x.val)
  rw [intOf_codeOf_intExtremeOne max h] at int
  rw [tree_leaves, ← codeOf_intOf b.ty.signed lt, int]
  rfl

/-- R175: the minimum or maximum of the enabled lanes. -/
theorem extremeCode_eq (max : Bool) (b : Band) (x : VReg) : extremeCode max b x = Claims.extremeOf max b x := by
  cases h : b.ty.isInt with
  | true =>
    simp only [extremeCode, Claims.extremeOf, h, if_true]
    exact tree_intExtremeOf max b x h
  | false =>
    simp only [extremeCode, Claims.extremeOf, h, Bool.false_eq_true, if_false]
    rw [tree_leaves, operandCode_eq, minmaxCode_eq]
    rfl

/-! ## The forms -/

/-- A bitwise reduction combines the codes of the enabled lanes in its tree. -/
theorem bitsCode_eq {P : Nat → Prop} {op : Nat → Nat → Nat} {one : Nat} {b : Band} (h : NeutralOn P op one) {x : VReg}
    (hP : ∀ l, P (Claims.bits b x l)) : bitsCode op one b x = Claims.root b op one (Claims.bits b x) :=
  foldl_laneList_eq_root h b hP

section
variable {s : State} {b : Band} {i : Instr} {e : Claims.Effect} (hb : s.holds b) (hw : i.wf = true)
include hb hw

/-- A reduction completes with the effect that names its code. -/
theorem completes_of_reduceForm {d : SReg} {x : VReg} {f : Band → Nat} {code : Nat} (hx : exec i s = reduceForm i d x f s)
    (he : some (Claims.reducing b d x code) = some e) (hl : e.legal = true) (hf : f b = code) : Claims.Completes s b i e := by
  obtain rfl := Option.some.inj he
  refine completes_of_writeAll hb hw hx hl ?_
  rw [hf, scalarResult_eq_scalarWrites]
  exact realises_scalarWrites b (nodup_scalarWr b.ty d.val code) _

/-- R175: each reduction writes the root of its tree. -/
theorem vred_completes (he : Claims.vred b i = some e) (hl : e.legal = true) : Claims.Completes s b i e := by
  cases i with
  | vredadd d x => exact completes_of_reduceForm hb hw rfl he hl (sumCode_eq b x)
  | vredmin d x => exact completes_of_reduceForm hb hw rfl he hl (extremeCode_eq false b x)
  | vredmax d x => exact completes_of_reduceForm hb hw rfl he hl (extremeCode_eq true b x)
  | vredand d x => exact completes_of_reduceForm hb hw rfl he hl (bitsCode_eq (neutralOn_and _) (b.code_lt _ _))
  | vredor d x => exact completes_of_reduceForm hb hw rfl he hl (bitsCode_eq neutralOn_or fun _ => trivial)
  | vredxor d x => exact completes_of_reduceForm hb hw rfl he hl (bitsCode_eq neutralOn_xor fun _ => trivial)
  | _ => cases he
end

end Sys2Proof.Machine
end

section
/-!
PROOFS. Reductions that give an index (R176): the order of R164 is a strict weak one among values that are no NaN, so that the lane
which the model finds in one pass is the only one that the rules let win.
-/
namespace Sys2Proof.Machine

/-! ## The order of values (R164) -/

/-- The kinds and signs of values in their order; a NaN has no place in it. -/
def valueKind : FVal → Int
  | .nan => 0
  | .inf n => if n then -3 else 2
  | .fin n _ _ => if n then -2 else 1
  | .zero n => if n then -1 else 0

/-- The leading bit of a finite value's magnitude, counted down for a negative one. -/
def valueLead : FVal → Int
  | .fin n m e => if n then -FVal.lead m e else FVal.lead m e
  | .nan | .inf _ | .zero _ => 0

/-- The number m * 2^e in units of 2^g, for a g of at most e. -/
def unitsIn (g : Int) (m : Nat) (e : Int) : Nat := m * 2 ^ (e - g).toNat

/-- A finite value in such units. -/
def valueUnits (g : Int) : FVal → Int
  | .fin n m e => if n then -(unitsIn g m e) else unitsIn g m e
  | .nan | .inf _ | .zero _ => 0

def valueExponent : FVal → Int
  | .fin _ _ e => e
  | .nan | .inf _ | .zero _ => 0

/-- Values by their kinds, then by their leading bits, then by their units. -/
def Precedes (g : Int) (x y : FVal) : Prop :=
  valueKind x < valueKind y ∨ valueKind x = valueKind y ∧
    (valueLead x < valueLead y ∨ valueLead x = valueLead y ∧ valueUnits g x < valueUnits g y)

/-- A shift by the difference of the exponents compares as the units do. -/
theorem lt_shifted_iff (m n : Nat) {e f g : Int} (hg : g ≤ e) (h : e ≤ f) :
    m < n * 2 ^ (f - e).toNat ↔ unitsIn g m e < unitsIn g n f := by
  rw [unitsIn, unitsIn, show (f - g).toNat = (f - e).toNat + (e - g).toNat by omega, Nat.pow_add, ← Nat.mul_assoc,
    Nat.mul_lt_mul_right (Nat.two_pow_pos _)]

theorem shifted_lt_iff (m n : Nat) {e f g : Int} (hg : g ≤ f) (h : f ≤ e) :
    m * 2 ^ (e - f).toNat < n ↔ unitsIn g m e < unitsIn g n f := by
  rw [unitsIn, unitsIn, show (e - g).toNat = (e - f).toNat + (f - g).toNat by omega, Nat.pow_add, ← Nat.mul_assoc,
    Nat.mul_lt_mul_right (Nat.two_pow_pos _)]

theorem cmpPos_eq_lt (m n : Nat) {e f g : Int} (he : g ≤ e) (hf : g ≤ f) : FVal.cmpPos m e n f = .lt ↔
    FVal.lead m e < FVal.lead n f ∨ FVal.lead m e = FVal.lead n f ∧ unitsIn g m e < unitsIn g n f := by
  unfold FVal.cmpPos
  by_cases lt : FVal.lead m e < FVal.lead n f
  · simp [lt]
  · by_cases gt : FVal.lead n f < FVal.lead m e
    · simp [gt, lt, Int.ne_of_gt gt]
    · have eq : FVal.lead m e = FVal.lead n f := Int.le_antisymm (Int.not_lt.mp gt) (Int.not_lt.mp lt)
      rw [if_neg lt, if_neg gt]
      simp only [eq, Int.lt_irrefl, true_and, false_or]
      split
      · next h => rw [Nat.compare_eq_lt, lt_shifted_iff m n he h]
      · next h => rw [Nat.compare_eq_lt, shifted_lt_iff m n hf (Int.le_of_lt (Int.not_le.mp h))]

/-- Finite values of one sign are ordered by their magnitudes, all others by their kinds. -/
theorem below_iff_precedes {x y : FVal} {g : Int} (hx : x.isNan = false) (hy : y.isNan = false) (gx : g ≤ valueExponent x)
    (gy : g ≤ valueExponent y) : Claims.below x y = true ↔ Precedes g x y := by
  cases x with
  | nan => cases hx
  | inf p | zero p =>
    cases y with
    | nan => cases hy
    | inf q | zero q | fin q n f => cases p <;> cases q <;> simp [Claims.below, FVal.cmp, Precedes, valueKind, valueLead, valueUnits]
  | fin p m e =>
    cases y with
    | nan => cases hy
    | inf q | zero q => cases p <;> cases q <;> simp [Claims.below, FVal.cmp, Precedes, valueKind, valueLead, valueUnits]
    | fin q n f =>
      have up := cmpPos_eq_lt m n (show g ≤ e from gx) (show g ≤ f from gy)
      have down := cmpPos_eq_lt n m (show g ≤ f from gy) (show g ≤ e from gx)
      unfold Precedes valueKind valueLead valueUnits
      cases p <;> cases q <;> simp only [Bool.false_eq_true, if_true, if_false, true_and]
      · change decide (FVal.cmpPos m e n f = .lt) = true ↔ _
        rw [decide_eq_true_eq, up]; omega
      · exact iff_of_false Bool.false_ne_true (by omega)
      · exact iff_of_true rfl (by omega)
      · change decide (FVal.cmpPos n f m e = .lt) = true ↔ _
        rw [decide_eq_true_eq, down]; omega

theorem below_asymm {x y : FVal} (hx : x.isNan = false) (hy : y.isNan = false) (h : Claims.below x y = true) :
    Claims.below y x = false := by
  have gx := Int.min_le_left (valueExponent x) (valueExponent y)
  have gy := Int.min_le_right (valueExponent x) (valueExponent y)
  rw [below_iff_precedes hx hy gx gy] at h
  rw [← Bool.not_eq_true, below_iff_precedes hy hx gy gx]
  unfold Precedes at h ⊢
  omega

/-- A third value lies above the lower one or below the higher one. -/
theorem below_split {x y z : FVal} (hx : x.isNan = false) (hy : y.isNan = false) (hz : z.isNan = false)
    (h : Claims.below x y = true) : Claims.below x z = true ∨ Claims.below z y = true := by
  obtain ⟨g, gx, gy, gz⟩ : ∃ g, g ≤ valueExponent x ∧ g ≤ valueExponent y ∧ g ≤ valueExponent z :=
    ⟨min (min (valueExponent x) (valueExponent y)) (valueExponent z), by omega, by omega, by omega⟩
  rw [below_iff_precedes hx hy gx gy] at h
  rw [below_iff_precedes hx hz gx gz, below_iff_precedes hz hy gz gy]
  unfold Precedes at h ⊢
  omega

/-! ## The order of lanes (R176) -/

/-- A strict weak order of the lanes that p names: asymmetric, and a third lane falls on one side of any two that it orders. -/
structure WeakOrderOn (p : Nat → Bool) (better : Nat → Nat → Bool) : Prop where
  asymm : ∀ l k, p l = true → p k = true → better l k = true → better k l = false
  split : ∀ l k j, p l = true → p k = true → p j = true → better l k = true → better l j = true ∨ better j k = true

theorem WeakOrderOn.irrefl {p : Nat → Bool} {better : Nat → Nat → Bool} (h : WeakOrderOn p better) {l : Nat} (hl : p l = true) :
    better l l = false := by
  cases self : better l l with
  | false => rfl
  | true => rw [← self, h.asymm l l hl hl self]

/-- A lane that takes part: one whose value is no NaN. -/
def comparable (b : Band) (x : VReg) (l : Nat) : Bool := b.ty.isInt || !(fv b x l).isNan

theorem beats_int {max : Bool} {b : Band} (x : VReg) (h : b.ty.isInt = true) (l k : Nat) : beats max b x l k = true ↔
    if max then Claims.int b x k < Claims.int b x l else Claims.int b x l < Claims.int b x k := by
  cases max <;> simp [beats, h, Claims.int]

theorem beats_float {max : Bool} {b : Band} (x : VReg) (h : b.ty.isInt = false) (l k : Nat) : beats max b x l k =
    if max then Claims.below (fv b x k) (fv b x l) else Claims.below (fv b x l) (fv b x k) := by
  simp only [beats, h, Bool.false_eq_true, if_false, belowVal_eq]

theorem weakOrderOn_beats (max : Bool) (b : Band) (x : VReg) : WeakOrderOn (comparable b x) (beats max b x) := by
  cases h : b.ty.isInt with
  | true =>
    refine ⟨fun l k _ _ => ?_, fun l k j _ _ _ => ?_⟩
    · rw [← Bool.not_eq_true, beats_int x h, beats_int x h]
      cases max <;> simp only [Bool.false_eq_true, if_true, if_false] <;> omega
    · rw [beats_int x h, beats_int x h, beats_int x h]
      cases max <;> simp only [Bool.false_eq_true, if_true, if_false] <;> omega
  | false =>
    have nan : ∀ l, comparable b x l = true → (fv b x l).isNan = false := fun l hl => by
      rwa [comparable, h, Bool.false_or, Bool.not_eq_true'] at hl
    refine ⟨fun l k hl hk => ?_, fun l k j hl hk hj => ?_⟩
    · rw [beats_float x h, beats_float x h]
      cases max
      · exact below_asymm (nan l hl) (nan k hk)
      · exact below_asymm (nan k hk) (nan l hl)
    · rw [beats_float x h, beats_float x h, beats_float x h]
      cases max
      · exact below_split (nan l hl) (nan k hk) (nan j hj)
      · exact fun lt => (below_split (nan k hk) (nan l hl) (nan j hj) lt).symm

/-! ## The best of a list -/

/-- No lane of the list is better than r, and r is better than the lower ones. -/
structure Best (better : Nat → Nat → Bool) (ls : List Nat) (r : Nat) : Prop where
  mem      : r ∈ ls
  unbeaten : ∀ k ∈ ls, better k r = false
  first    : ∀ k ∈ ls, k < r → better r k = true

section
variable {p : Nat → Bool} {better : Nat → Nat → Bool} {ls : List Nat} {r q l : Nat}

theorem Best.unique (hr : Best better ls r) (hq : Best better ls q) : r = q := by
  rcases Nat.lt_trichotomy r q with lt | eq | gt
  · exact absurd (hq.first r hr.mem lt) (by rw [hr.unbeaten q hq.mem]; exact Bool.false_ne_true)
  · exact eq
  · exact absurd (hr.first q hq.mem gt) (by rw [hq.unbeaten r hr.mem]; exact Bool.false_ne_true)

/-- A later lane that beats the best one beats all. -/
theorem Best.replaced (order : WeakOrderOn p better) (h : Best better ls r) (hp : ∀ k ∈ ls, p k = true) (hl : p l = true)
    (lt : better l r = true) : ∀ k ∈ ls, better l k = true := fun k hk =>
  (order.split l r k hl (hp r h.mem) (hp k hk) lt).resolve_right (by rw [h.unbeaten k hk]; exact Bool.false_ne_true)

/-- One that does not leaves it the best. -/
theorem Best.append (order : WeakOrderOn p better) (h : Best better ls r) (hp : ∀ k ∈ ls ++ [l], p k = true)
    (above : ∀ k ∈ ls, k < l) : Best better (ls ++ [l]) (if better l r then l else r) := by
  have hls : ∀ k ∈ ls, p k = true := fun k hk => hp k (List.mem_append_left _ hk)
  have hl : p l = true := hp l (List.mem_append_right _ (List.mem_singleton_self l))
  split
  · next lt =>
    have beaten := h.replaced order hls hl lt
    refine ⟨List.mem_append_right _ (List.mem_singleton_self l), fun k hk => ?_, fun k hk hkl => ?_⟩
    · rcases List.mem_append.mp hk with hk | hk
      · exact order.asymm l k hl (hls k hk) (beaten k hk)
      · rw [List.mem_singleton.mp hk, order.irrefl hl]
    · rcases List.mem_append.mp hk with hk | hk
      · exact beaten k hk
      · exact absurd (List.mem_singleton.mp hk) (Nat.ne_of_lt hkl)
  · next nlt =>
    refine ⟨List.mem_append_left _ h.mem, fun k hk => ?_, fun k hk hkr => ?_⟩
    · rcases List.mem_append.mp hk with hk | hk
      · exact h.unbeaten k hk
      · rw [List.mem_singleton.mp hk, ← Bool.not_eq_true]; exact nlt
    · rcases List.mem_append.mp hk with hk | hk
      · exact h.first k hk hkr
      · rw [List.mem_singleton.mp hk] at hkr; exact absurd (above r h.mem) (Nat.lt_asymm hkr)

/-- One pass over ascending lanes ends at the best. -/
theorem best_foldl (order : WeakOrderOn p better) (ls : List Nat) {before : List Nat} {r : Nat} (h : Best better before r)
    (hp : ∀ l ∈ before ++ ls, p l = true) (sorted : (before ++ ls).Pairwise (· < ·)) :
    Best better (before ++ ls) (ls.foldl (fun m l => if better l m then l else m) r) := by
  induction ls generalizing before r with
  | nil => rwa [List.append_nil]
  | cons l ls ih =>
    rw [List.append_cons] at hp sorted ⊢
    have above : ∀ k ∈ before, k < l := fun k hk =>
      (List.pairwise_append.mp (List.pairwise_append.mp sorted).1).2.2 k hk l (List.mem_singleton_self l)
    exact ih (h.append order (fun k hk => hp k (List.mem_append_left _ hk)) above) hp sorted

theorem best_singleton (order : WeakOrderOn p better) (h : p l = true) : Best better [l] l where
  mem := List.mem_singleton_self l
  unbeaten k hk := by rw [List.mem_singleton.mp hk, order.irrefl h]
  first k hk lt := absurd (List.mem_singleton.mp hk) (Nat.ne_of_lt lt)
end

/-! ## The winner -/

/-- The enabled lanes that take part. -/
def entrants (b : Band) (x : VReg) : List Nat := (laneList b.enabled).filter (comparable b x)

theorem pairwise_entrants (b : Band) (x : VReg) : (entrants b x).Pairwise (· < ·) := (pairwise_laneList _).filter _

theorem comparable_of_mem_entrants {b : Band} {x : VReg} {l : Nat} (h : l ∈ entrants b x) : comparable b x l = true :=
  (List.mem_filter.mp h).2

theorem wins_eq (max : Bool) (b : Band) (x : VReg) (l : Nat) : Claims.wins max b x l =
    ((entrants b x).contains l && (entrants b x).all fun k => !beats max b x k l && (k ≥ l || beats max b x l k)) := by
  simp only [Claims.wins, beats, belowVal_eq]
  rfl

/-- The rules let the best of the lanes that take part win. -/
theorem wins_iff_best {max : Bool} {b : Band} {x : VReg} (l : Nat) :
    Claims.wins max b x l = true ↔ Best (beats max b x) (entrants b x) l := by
  rw [wins_eq]
  simp only [Bool.and_eq_true, List.contains_iff_mem, List.all_eq_true, Bool.or_eq_true, Bool.not_eq_true', decide_eq_true_eq, ge_iff_le]
  constructor
  · rintro ⟨mem, h⟩
    exact ⟨mem, fun k hk => (h k hk).1, fun k hk lt => (h k hk).2.resolve_left (Nat.not_le.mpr lt)⟩
  · rintro ⟨mem, unbeaten, first⟩
    exact ⟨mem, fun k hk => ⟨unbeaten k hk, (Nat.lt_or_ge k l).symm.imp_right (first k hk)⟩⟩

/-- Where the only winner of a list is in it, a search finds it. -/
theorem find?_eq_some_of_unique {p : Nat → Bool} {ls : List Nat} {r : Nat} (mem : r ∈ ls) (hr : p r = true)
    (unique : ∀ l, p l = true → l = r) : ls.find? p = some r := by
  cases h : ls.find? p with
  | none => exact absurd hr (List.find?_eq_none.mp h r mem)
  | some l => rw [unique l (List.find?_some h)]

theorem find?_wins_nil {max : Bool} {b : Band} {x : VReg} (h : entrants b x = []) :
    (List.range 96).find? (Claims.wins max b x) = none :=
  List.find?_eq_none.mpr fun l _ => by simp [wins_eq, h]

/-- The model's pass over the lanes that take part ends at the winner. -/
theorem find?_wins_cons {max : Bool} {b : Band} {x : VReg} {c : Nat} {cs : List Nat} (h : entrants b x = c :: cs) :
    (List.range 96).find? (Claims.wins max b x) = some (cs.foldl (fun m l => if beats max b x l m then l else m) c) := by
  have order := weakOrderOn_beats max b x
  have best : Best (beats max b x) (entrants b x) (cs.foldl (fun m l => if beats max b x l m then l else m) c) := by
    have all : ∀ l ∈ [c] ++ cs, comparable b x l = true := fun l hl => comparable_of_mem_entrants (by rw [h]; exact hl)
    have sorted := pairwise_entrants b x
    rw [h] at sorted ⊢
    exact best_foldl order cs (best_singleton order (all c (List.mem_cons_self ..))) all sorted
  have lane := (mem_laneList.mp (List.mem_filter.mp best.mem).1).1
  exact find?_eq_some_of_unique (List.mem_range.mpr lane) ((wins_iff_best _).mpr best) fun l hl =>
    ((wins_iff_best l).mp hl).unique best

/-- R176: the value with its lane, the identity without an enabled lane, and the canonical NaN where all values are NaN. -/
theorem extremeAt_eq_winner (max : Bool) (b : Band) (x : VReg) : extremeAt max b x = Claims.winner max b x := by
  unfold extremeAt Claims.winner
  dsimp only
  change (match laneList b.enabled, entrants b x with
    | [], _ => _ | l :: _, [] => _ | _, c :: cs => _) = _
  cases hls : laneList b.enabled with
  | nil => rw [extremeCode_eq]; rfl
  | cons l ls =>
    cases hc : entrants b x with
    | nil => rw [find?_wins_nil hc]; rfl
    | cons c cs => rw [find?_wins_cons hc, extremeCode_eq]; rfl

/-! ## The forms -/

/-- The index goes to a register of its own. -/
theorem nodup_scalarWr_append (t : Ty) (d code r : Nat) (v : Word) (h1 : r ≠ d) (h2 : (t.is64 && decide (r = d + 1)) = false) :
    ((Claims.scalarWr t d code ++ [(r, v)]).map Prod.fst).Nodup := by
  unfold Claims.scalarWr
  cases h : t.is64 with
  | true => simp [h] at h2; simp [h1.symm, Ne.symm h2]
  | false => simp [h1.symm]

section
variable {s : State} {b : Band} {i : Instr} {e : Claims.Effect} (hb : s.holds b) (hw : i.wf = true)
include hb hw

/-- A reduction to an index completes with the effect that names the winner. -/
theorem completes_of_indexForm {max : Bool} {d : SReg} {x : VReg} {r : SReg} (hx : exec i s = indexForm i max d x r s)
    (he : some (Claims.indexing max b d x r) = some e) (hl : e.legal = true) : Claims.Completes s b i e := by
  obtain rfl := Option.some.inj he
  have other : decide (r ≠ d) = decide (r.val ≠ d.val) := decide_eq_decide.mpr (not_congr Fin.ext_iff)
  have legal : (b.elem? b.ty x.val && scalarElem? b.ty d.val && decide (r ≠ d) && !(b.ty.is64 && r.val = d.val + 1)) = true := by
    rw [other]; exact hl
  simp only [Claims.indexing, Bool.and_eq_true, decide_eq_true_eq, Bool.not_eq_true'] at hl
  obtain ⟨⟨_, apart⟩, pair⟩ := hl
  refine completes_of_writeAll hb hw hx legal ?_
  rw [extremeAt_eq_winner, scalarResult_eq_scalarWrites]
  have h := realises_scalarWrites b (nodup_scalarWr_append b.ty d.val (Claims.winner max b x).1 r.val (Claims.winner max b x).2 apart pair)
    (Claims.indexing max b d x r).legal
  rw [scalarWrites, List.map_append] at h
  exact h

/-- R176: each form writes the extreme of its lanes and the lane that supplied it. -/
theorem vredx_completes (he : Claims.vredx b i = some e) (hl : e.legal = true) : Claims.Completes s b i e := by
  cases i with
  | vredminx | vredmaxx => exact completes_of_indexForm hb hw rfl he hl
  | _ => cases he
end

end Sys2Proof.Machine

namespace Sys2Proof
open Machine

/-- Settles O5: moves and running sums take the rules' lanes and sums, the model's levels of pairs are the rules' tree, and its pass
over the lanes finds their winner. -/
theorem laneAndReductionForms : Obligations.LaneAndReductionForms :=
  ⟨fun _ _ _ _ hb hw he hl => vlane_completes hb hw he hl, fun _ _ _ _ hb hw he hl =>
    he.elim (fun h => vred_completes hb hw h hl) fun h => vredx_completes hb hw h hl⟩

end Sys2Proof
end
